-- ==== Sys2Proof/Word.lean ====
section
/-! DEFINITION. The word type, the smallest addressable unit, and finite tables kept in one canonical form. -/
namespace Sys2Proof

/-- A 64-bit word: the width of an x register (R2, R20). -/
abbrev Word := BitVec 64

/-- The addressable unit of memory (R2). -/
abbrev Byte := BitVec 8

/-- A v register: 256 bits (R20, R52). -/
abbrev Vec := BitVec 256

/-- A predicate register: one bit per byte lane of a core (R52). -/
abbrev Pred := BitVec 32

/-- A sparse table: numbered entries, numbers strictly rising, no entry equal to the default. -/
abbrev Tbl (α : Type) := List (Nat × α)

namespace Tbl

variable {α : Type}

/-- The entry at `k`, or the default where none is listed. -/
def get (d : α) : Tbl α → Nat → α
  | [], _ => d
  | (k, v) :: t, n => if k = n then v else get d t n

/-- All entries but those at `n`. -/
def erase (n : Nat) : Tbl α → Tbl α
  | [] => []
  | (k, v) :: t => if k = n then erase n t else (k, v) :: erase n t

/-- Put `(n, v)` before the first larger number. -/
def insert (n : Nat) (v : α) : Tbl α → Tbl α
  | [] => [(n, v)]
  | (k, w) :: t => if n < k then (n, v) :: (k, w) :: t else (k, w) :: insert n v t

/-- Write `v` at `n`; writing the default removes the entry. -/
def put [DecidableEq α] (d : α) (t : Tbl α) (n : Nat) (v : α) : Tbl α :=
  if v = d then erase n t else insert n v (erase n t)

/-- Write `v` at `n` and keep it listed. Used for tables of large records, whose entries are never compared. -/
def set (t : Tbl α) (n : Nat) (v : α) : Tbl α := insert n v (erase n t)

/-- The numbers listed. -/
def keys (t : Tbl α) : List Nat := t.map Prod.fst

/-- Numbers strictly rising from `lo` on. -/
def risingFrom (lo : Nat) : Tbl α → Bool
  | [] => true
  | (k, _) :: t => decide (lo ≤ k) && risingFrom (k + 1) t

/-- The canonical form: numbers strictly rising and no entry equal to the default. -/
def wf [DecidableEq α] (d : α) (t : Tbl α) : Bool :=
  risingFrom 0 t && t.all (fun e => decide (e.2 ≠ d))

end Tbl

end Sys2Proof
end

