-- ==== Sys2Proof/Config.lean ====
section
/-! DEFINITION. What the specification leaves open: values nothing constrains, keys and contents that it names without giving. -/
namespace Sys2Proof

/-- The free values, numbered as they are handed out: what a register, a byte or a result holds where the specification
says that it is undefined (log 4). -/
opaque Config.freeWord : Nat → Word

/-- The contents of the firmware ROM (R410, log 21). -/
opaque Config.rom : List Byte

/-- The vendor's public key, a point of the curve, held in ROM (R409, log 21). -/
opaque Config.vendorKey : Nat × Nat

/-- The device's private identity key (R409, log 21). -/
opaque Config.identityKey : Nat

/-- Field `i` of a configuration record given as bytes, whose layout the specification does not give (R408, log 21). -/
opaque Config.recordField : List Byte → Nat → Nat

end Sys2Proof
end

