-- ==== Sys2Proof/Syntax.lean ====
section
/-!
DEFINITION. The instruction set as data: one constructor of `Instr` per row of the opcode table.

Words of the instruction stream carry their fields as register names, source and destination names, guards and
immediates (R46 to R73); `m` is the switch marker bit S (R44). Rows without an encoding are steps of the other
agents of the device; what names their subject (a core, a queue entry, a ring entry) stands in the state, where the
mover put it.
-/
namespace Sys2Proof

/-- An x register number (R49). -/
abbrev XReg := Fin 32
/-- An f register number (R49). -/
abbrev FReg := Fin 16
/-- A v register number (R49). -/
abbrev VReg := Fin 16
/-- A g register number (R49). -/
abbrev GReg := Fin 8

/-- Operations of the integer unit (R67), in op8 order. -/
inductive IaOp where
  | add | sub | andOp | orOp | xor | andn | shl | shr | sar | rol | min | max | minn | maxn | slt | sltn
  | seq | sne | clz | ffs | pop | bsw | bxt | sxt | adds | subs | abs
deriving DecidableEq, Repr

/-- Operations of the multiply and divide unit (R67), in op8 order. -/
inductive ImOp where
  | mul | mulh | mulhn | div | divn | rem | remn
deriving DecidableEq, Repr

/-- Operations of the floating-point unit (R67), in op8 order. -/
inductive FaOp where
  | fma | fms | fnma | fadd | fsub | fmul | fmin | fmax | fabs | fneg | fsgn | fclt | fcle | fceq | fcun
  | frnd | frto | fcvi | ficv | fexa
deriving DecidableEq, Repr

/-- Operations of the divide and root unit (R67), in op8 order. -/
inductive FdOp where
  | fdiv | fsqrt
deriving DecidableEq, Repr

/-- Operations of the special-function unit (R67), in op8 order. -/
inductive SfOp where
  | sin | cos | exp2 | log2 | rcp | rsqrt | tanh | sigm | exd
deriving DecidableEq, Repr

/-- Operations of the vector unit (R68), in op8 order. -/
inductive VaOp where
  | mad | add | sub | mul | min | max | minn | maxn | andOp | orOp | xor | shl | shr | sar | abs | neg | clt
  | cle | ceq | cltn | cvt | cvto | whileOp | clz | ffs | pop | exp2 | rcp | rsq | sel | iota | dup
deriving DecidableEq, Repr

/-- Operations of the cross-lane unit (R69), in op8 order. -/
inductive VxOp where
  | perm | rot | shift | zip | unzip | rsum | rmax | rmin | scan | amax | cmpr | expd | nbr | tkclr | tk
  | tkrd
deriving DecidableEq, Repr

/-- Operations of the matrix unit (R69), in op8 order. -/
inductive MxOp where
  | mmul | rowld | wld | mvset | mmv | aread | aclr | mchk
deriving DecidableEq, Repr

/-- Operations of the board-store unit (R69), in op8 order. -/
inductive LsOp where
  | ldt | stt | pin | unpin | pfr | push | pop | bmode
deriving DecidableEq, Repr

/-- Operations of the atomic and sibling unit (R69), in op8 order. -/
inductive AtOp where
  | aadd | aand | aor | axor | amin | amax | aminn | amaxn | axch | acas | afadd | recon | ldsib | snap
  | wslot | wdrop
deriving DecidableEq, Repr

/-- Operations of the message unit (R69), in op8 order. -/
inductive MsOp where
  | send | callat | reply | sendc | dep | coll | grp | launch | mcast
deriving DecidableEq, Repr

/-- Operations of the copy-engine unit (R69), in op8 order. -/
inductive CeOp where
  | tail | seq | wseq | pub | halt
deriving DecidableEq, Repr

/-- Operations of the tensor-table unit (R69), in op8 order. -/
inductive TbOp where
  | tbind | tfree | tget | tset
deriving DecidableEq, Repr

/-- Operations of the system unit (R69), in op8 order. -/
inductive SyOp where
  | rd | wr
deriving DecidableEq, Repr

/-- Element types of the vector unit (R68). -/
inductive VTy where
  | i8 | i16 | i32 | i64 | w16 | w32 | w64 | f8
deriving DecidableEq, Repr

/-- The function units that have a trigger port, in code order from 112 (R50). -/
inductive FUnit where
  | ia | im | fa | fd | sf | va | vx | mx | ls | at | ms | ce | tb | sy
deriving DecidableEq, Repr

/-- An operation of a function unit: what a trigger starts (R50, R51). -/
inductive UOp where
  | ia (o : IaOp) | im (o : ImOp) | fa (o : FaOp) | fd (o : FdOp) | sf (o : SfOp) | va (o : VaOp) (t : VTy) | vx (o : VxOp)
  | mx (o : MxOp) | ls (o : LsOp) | at (o : AtOp) | ms (o : MsOp) | ce (o : CeOp) | tb (o : TbOp) | sy (o : SyOp)
deriving DecidableEq, Repr

/-- Result ports, in code order from 72 (R49). -/
inductive RPort where
  | ia | im | fa | fd | sf | va | vx | vxq | mx | ls | at | ms | ce | tb | sy
deriving DecidableEq, Repr

/-- Special registers, in code order from 96 (R49). -/
inductive Special where
  | cid | wid | gp | gs | vw | bc | fst | sib | bell | cyc | lc0 | lc1 | lc2 | mp | pst | oid
deriving DecidableEq, Repr

/-- A source of a transport (R49). -/
inductive Src where
  | x (r : XReg) | f (r : FReg) | v (r : VReg) | g (r : GReg) | port (p : RPort) | special (p : Special) | const (c : Fin 16)
deriving DecidableEq, Repr

/-- Operand latches (R50). -/
inductive Latch where
  | iaA | imA | faA | faB | fdA | sfA | vaA | vaB | vxA | vxB | mxA | mxB | mxC | lsA | lsB | lsC
  | atA | atB | atC | msA | msB | msC | ceA | ceB | tbA | tbB | syA | syB
deriving DecidableEq, Repr

/-- A destination of a transport: a register, an operand latch or a trigger port (R50). -/
inductive Dst where
  | x (r : XReg) | f (r : FReg) | v (r : VReg) | g (r : GReg) | latch (l : Latch) | trig (o : UOp)
deriving DecidableEq, Repr

/-- A guard: the predicate register selected and whether it is inverted (R65). -/
structure Guard where
  neg : Bool
  sel : GReg
deriving DecidableEq, Repr

/-- The guard that always holds (R65). -/
def Guard.always : Guard := ⟨false, 0⟩

/-- A 64-byte firmware command entry of the ring (R403): its sequence number, its partition byte, its reserved
header bits, its opcode, and words 1 to 7. -/
structure Cmd where
  seq : Nat
  part : Nat
  rsv : Nat
  op : Nat
  w : Vector Word 7
deriving DecidableEq, Repr

/-- The operations and events of the device, one constructor per row of the opcode table, in its order. -/
inductive Instr where
  /-- R108: Compact word that copies xs into xd through ia.or with A = 0, landing in xd and ia.r one slot later. -/
  | cCp (d s : XReg) (m : Bool)
  /-- R108: Compact word that sets xd to xd + xs modulo 2^64 through ia.add. -/
  | cAdd (d s : XReg) (m : Bool)
  /-- R108: Compact word that sets xd to xd − xs modulo 2^64 through ia.sub. -/
  | cSub (d s : XReg) (m : Bool)
  /-- R108: Compact word that sets xd to the bitwise AND of xd and xs. -/
  | cAnd (d s : XReg) (m : Bool)
  /-- R108: Compact word that sets xd to the bitwise OR of xd and xs; c.or x0, x0 is the nop idiom. -/
  | cOr (d s : XReg) (m : Bool)
  /-- R108: Compact word that sets xd to the bitwise XOR of xd and xs. -/
  | cXor (d s : XReg) (m : Bool)
  /-- R108: Compact word that shifts xd left by xs[5:0]. -/
  | cShl (d s : XReg) (m : Bool)
  /-- R108: Compact word that shifts xd right logically by xs[5:0]. -/
  | cShr (d s : XReg) (m : Bool)
  /-- R108: Compact word that shifts xd right arithmetically by xs[5:0]. -/
  | cSar (d s : XReg) (m : Bool)
  /-- R108: Compact word that sets xd to the low 64 bits of xd × xs through im.mul, landing three slots later. -/
  | cMul (d s : XReg) (m : Bool)
  /-- R108: Compact word that sets xd to the signed minimum of xd and xs. -/
  | cMin (d s : XReg) (m : Bool)
  /-- R108: Compact word that sets xd to the signed maximum of xd and xs. -/
  | cMax (d s : XReg) (m : Bool)
  /-- R108: Compact word that sets xd to the unsigned minimum of xd and xs. -/
  | cMinn (d s : XReg) (m : Bool)
  /-- R108: Compact word that sets xd to the unsigned maximum of xd and xs. -/
  | cMaxn (d s : XReg) (m : Bool)
  /-- R108: Compact word that sets xd to xd & ~xs. -/
  | cAndn (d s : XReg) (m : Bool)
  /-- R108: Compact word that adds the sign-extended 5-bit immediate to xd. -/
  | cAddi (d : XReg) (i : BitVec 5) (m : Bool)
  /-- R104: One guarded transport from a source code to a non-trigger destination, converted by class, with byte-lane guarding for vector destinations. -/
  | toWord (s : Src) (d : Dst) (g : Guard) (m : Bool)
  /-- R105: Two unguarded transports in one slot, both sources read before either write; a trigger destination fires op 0 of its unit. -/
  | t2 (s : Src) (d : Dst) (a : Src) (b : Dst) (m : Bool)
  /-- R106: Delivers the sign-extended 12-bit immediate to a destination, or triggers the operation op8 of a unit with it. -/
  | ti (d : Dst) (i : BitVec 12) (m : Bool)
  /-- R107: Loads the sign-extended 21-bit immediate into xd. -/
  | li (d : XReg) (i : BitVec 21) (m : Bool)
  /-- R107: Shifts xd left by 21 bits and ORs in the zero-extended 21-bit immediate. -/
  | lh (d : XReg) (i : BitVec 21) (m : Bool)
  /-- R288: Loads one byte and sign-extends it into x[r]. -/
  | ldb (r b : XReg) (i : BitVec 12) (m : Bool)
  /-- R288: Loads two bytes and sign-extends them into x[r]. -/
  | ldh (r b : XReg) (i : BitVec 12) (m : Bool)
  /-- R288: Loads four bytes and sign-extends them into x[r]. -/
  | ldw (r b : XReg) (i : BitVec 12) (m : Bool)
  /-- R288: Loads eight bytes into x[r]. -/
  | ldd (r b : XReg) (i : BitVec 12) (m : Bool)
  /-- R288: Loads one byte and zero-extends it into x[r]. -/
  | ldbz (r b : XReg) (i : BitVec 12) (m : Bool)
  /-- R288: Loads two bytes and zero-extends them into x[r]. -/
  | ldhz (r b : XReg) (i : BitVec 12) (m : Bool)
  /-- R288: Loads four bytes and zero-extends them into x[r]. -/
  | ldwz (r b : XReg) (i : BitVec 12) (m : Bool)
  /-- R288: Loads 16 bytes into the even register pair x[r], x[r+1]. -/
  | ldq (r : Fin 16) (b : XReg) (i : BitVec 12) (m : Bool)
  /-- R288: Loads 32 bytes per gang member into a v register. -/
  | ldv (r : VReg) (b : XReg) (i : BitVec 12) (m : Bool)
  /-- R288: Loads a transport form into an f register, checked against the window capacity at the marker. -/
  | ldf (r : FReg) (b : XReg) (i : BitVec 12) (m : Bool)
  /-- R280: Aligned 8-byte acquire load read at the home at dev scope. -/
  | ldacq (r b : XReg) (i : BitVec 12) (m : Bool)
  /-- R304: Keeping load of two cells returning each cell's highest-dot value, setting sib and joining the dots into the enrolment clock. -/
  | ldk (r b : XReg) (i : BitVec 12) (m : Bool)
  /-- R286: Eight-byte load through the board's read-only cache, not reached by write-update. -/
  | ldro (r b : XReg) (i : BitVec 12) (m : Bool)
  /-- R304: Keeping load of eight cells per gang member into a v register, setting sib and joining dots. -/
  | ldkv (r : VReg) (b : XReg) (i : BitVec 12) (m : Bool)
  /-- R289: Stores the low byte of x[r]. -/
  | stb (r b : XReg) (i : BitVec 12) (m : Bool)
  /-- R289: Stores the low two bytes of x[r]. -/
  | sth (r b : XReg) (i : BitVec 12) (m : Bool)
  /-- R289: Stores the low four bytes of x[r]. -/
  | stw (r b : XReg) (i : BitVec 12) (m : Bool)
  /-- R289: Stores the eight bytes of x[r]. -/
  | std (r b : XReg) (i : BitVec 12) (m : Bool)
  /-- R289: Stores the even register pair x[r], x[r+1] as 16 bytes. -/
  | stq (r : Fin 16) (b : XReg) (i : BitVec 12) (m : Bool)
  /-- R289: Stores a v register, 32 bytes per gang member. -/
  | stv (r : VReg) (b : XReg) (i : BitVec 12) (m : Bool)
  /-- R289: Stores the transport form of an f register, read through the window stack. -/
  | stf (r : FReg) (b : XReg) (i : BitVec 12) (m : Bool)
  /-- R280: Aligned 8-byte release store at dev scope, attaching the writer's clock on KEEP pages. -/
  | strel (r b : XReg) (i : BitVec 12) (m : Bool)
  /-- R285: Non-temporal 8-byte store that allocates no board cache line. -/
  | stnt (r b : XReg) (i : BitVec 12) (m : Bool)
  /-- R285: Non-temporal store of a v register. -/
  | stvnt (r : VReg) (b : XReg) (i : BitVec 12) (m : Bool)
  /-- R111: Guarded relative branch by off19 × 2. -/
  | b (g : Guard) (o : BitVec 19) (m : Bool)
  /-- R111: Guarded relative branch that writes the link pc + 4 to x31 when taken. -/
  | bl (g : Guard) (o : BitVec 19) (m : Bool)
  /-- R113: Enters a loop-buffer body of len + 1 words with the count read from xc, or skips it; traps on a fourth level or an overrunning inner body. -/
  | loop (g : Guard) (l : BitVec 8) (c : XReg) (m : Bool)
  /-- R112: Guarded jump to the address in xt, with an alignment check on the target. -/
  | jr (g : Guard) (t : XReg) (m : Bool)
  /-- R112: Guarded jump to the address in xt that writes the link to x31. -/
  | jlr (g : Guard) (t : XReg) (m : Bool)
  /-- R290: Orders the watch's accesses by kind (full, acq, rel, eng) at a scope, with its status landing in sy.r. -/
  | fence (k p : BitVec 3) (m : Bool)
  /-- R148: Sets a pause count so that the watch is PAUSED for that many cycles after this region's marker. -/
  | pause (a : XReg) (i : BitVec 9) (m : Bool)
  /-- R416: Discards the core's fetch buffer and inactive loop-buffer entries, and orders later fetch after earlier loads. -/
  | isync (m : Bool)
  /-- R291: Discards every line of the board's read-only cache. -/
  | roinv (m : Bool)
  /-- R377: Reads the CSR numbered by imm9 into x[a], trapping on an unassigned number. -/
  | csrr (a : XReg) (n : BitVec 9) (m : Bool)
  /-- R377: Writes x[a] to the RW fields of the CSR numbered by imm9, trapping on an unassigned number or a handler-only write in user mode. -/
  | csrw (a : XReg) (n : BitVec 9) (m : Bool)
  /-- R158: Sets the bead count to x[a] + imm9, clamped to 1..52. -/
  | bcs (a : XReg) (i : BitVec 9) (m : Bool)
  /-- R159: Sets the rounding-mode field of fst. -/
  | rms (o : BitVec 3) (m : Bool)
  /-- R164: Pushes a bead window of p pips per register with every register unbound, trapping on a full stack of 16. -/
  | wnd (p : BitVec 2) (m : Bool)
  /-- R165: Pops the top bead window, returning its pips or freeing its spill space, and traps on the base window. -/
  | wpop (m : Bool)
  /-- R194: Claims an aligned gang span of the rod and waits for every follower before forming the gang. -/
  | glead (c : BitVec 3) (m : Bool)
  /-- R194: Offers the watch to the claim holding its core, parking until the gang forms. -/
  | gfollow (m : Bool)
  /-- R199: Parks every member as a marker does and dissolves the gang, each member resuming at its own continuation. -/
  | gend (m : Bool)
  /-- R146: Retires the task: issue stops, results drain, loops end, windows pop, the launch counter takes −1 and the slot is freed. -/
  | done (m : Bool)
  /-- R147: Retires the task and requeues its slot as a new entry of the same handler with arguments from x1–x4. -/
  | reque (m : Bool)
  /-- R380: Raises the software trap with imm9 in tval, or a debug halt of the partition in handler mode. -/
  | trap (n : BitVec 9) (m : Bool)
  /-- R381: Returns from the handler, restoring the saved port image and resuming at tnext, or abandons the task if a cancel notice arrived. -/
  | tret (m : Bool)
  /-- R292: Writes a range back from the slices to the DRAM tier behind it. -/
  | wb (a b : XReg) (m : Bool)
  /-- R382: Ends the handler by abandoning the interrupted task and discarding its image. -/
  | idle (m : Bool)
  /-- R32: Cancels the launch, graph, phase or job named by xa and the level, with status in sy.r. -/
  | cancel (a : XReg) (l : BitVec 2) (m : Bool)
  /-- R109: ia addition A + B modulo 2^64, or its 32-bit form. -/
  | iaAdd (s : Src) (g : Guard) (w : Bool) (m : Bool)
  /-- R109: ia subtraction A − B. -/
  | iaSub (s : Src) (g : Guard) (w : Bool) (m : Bool)
  /-- R109: ia bitwise AND. -/
  | iaAnd (s : Src) (g : Guard) (m : Bool)
  /-- R109: ia bitwise OR. -/
  | iaOr (s : Src) (g : Guard) (m : Bool)
  /-- R109: ia bitwise XOR. -/
  | iaXor (s : Src) (g : Guard) (m : Bool)
  /-- R109: ia A & ~B. -/
  | iaAndn (s : Src) (g : Guard) (m : Bool)
  /-- R109: ia left shift of A. -/
  | iaShl (s : Src) (g : Guard) (w : Bool) (m : Bool)
  /-- R109: ia logical right shift of A. -/
  | iaShr (s : Src) (g : Guard) (w : Bool) (m : Bool)
  /-- R109: ia arithmetic right shift of A. -/
  | iaSar (s : Src) (g : Guard) (w : Bool) (m : Bool)
  /-- R109: ia left rotation of A. -/
  | iaRol (s : Src) (g : Guard) (w : Bool) (m : Bool)
  /-- R109: ia signed minimum. -/
  | iaMin (s : Src) (g : Guard) (w : Bool) (m : Bool)
  /-- R109: ia signed maximum. -/
  | iaMax (s : Src) (g : Guard) (w : Bool) (m : Bool)
  /-- R109: ia unsigned minimum. -/
  | iaMinn (s : Src) (g : Guard) (w : Bool) (m : Bool)
  /-- R109: ia unsigned maximum. -/
  | iaMaxn (s : Src) (g : Guard) (w : Bool) (m : Bool)
  /-- R109: ia signed less-than, giving 1 or 0. -/
  | iaSlt (s : Src) (g : Guard) (w : Bool) (m : Bool)
  /-- R109: ia unsigned less-than, giving 1 or 0. -/
  | iaSltn (s : Src) (g : Guard) (w : Bool) (m : Bool)
  /-- R109: ia equality test. -/
  | iaSeq (s : Src) (g : Guard) (w : Bool) (m : Bool)
  /-- R109: ia inequality test. -/
  | iaSne (s : Src) (g : Guard) (w : Bool) (m : Bool)
  /-- R109: ia count of leading zeros of B. -/
  | iaClz (s : Src) (g : Guard) (w : Bool) (m : Bool)
  /-- R109: ia index of B's lowest set bit. -/
  | iaFfs (s : Src) (g : Guard) (w : Bool) (m : Bool)
  /-- R109: ia population count of B. -/
  | iaPop (s : Src) (g : Guard) (w : Bool) (m : Bool)
  /-- R109: ia byte reversal of B. -/
  | iaBsw (s : Src) (g : Guard) (m : Bool)
  /-- R109: ia bit-field extract from A. -/
  | iaBxt (s : Src) (g : Guard) (m : Bool)
  /-- R109: ia sign extension of A from n bits. -/
  | iaSxt (s : Src) (g : Guard) (m : Bool)
  /-- R109: ia saturating signed addition. -/
  | iaAdds (s : Src) (g : Guard) (w : Bool) (m : Bool)
  /-- R109: ia saturating signed subtraction. -/
  | iaSubs (s : Src) (g : Guard) (w : Bool) (m : Bool)
  /-- R109: ia saturating absolute value of B. -/
  | iaAbs (s : Src) (g : Guard) (w : Bool) (m : Bool)
  /-- R110: im low half of the product, latency 3. -/
  | imMul (s : Src) (g : Guard) (w : Bool) (m : Bool)
  /-- R110: im high half of the signed product. -/
  | imMulh (s : Src) (g : Guard) (w : Bool) (m : Bool)
  /-- R110: im high half of the unsigned product. -/
  | imMulhn (s : Src) (g : Guard) (w : Bool) (m : Bool)
  /-- R110: im signed division truncated toward zero, latency 24. -/
  | imDiv (s : Src) (g : Guard) (w : Bool) (m : Bool)
  /-- R110: im unsigned division. -/
  | imDivn (s : Src) (g : Guard) (w : Bool) (m : Bool)
  /-- R110: im signed remainder. -/
  | imRem (s : Src) (g : Guard) (w : Bool) (m : Bool)
  /-- R110: im unsigned remainder. -/
  | imRemn (s : Src) (g : Guard) (w : Bool) (m : Bool)
  /-- R184: fa fused A × B + C rounded once to bc. -/
  | faFma (s : Src) (g : Guard) (m : Bool)
  /-- R184: fa fused A × B − C. -/
  | faFms (s : Src) (g : Guard) (m : Bool)
  /-- R184: fa fused C − A × B. -/
  | faFnma (s : Src) (g : Guard) (m : Bool)
  /-- R184: fa A + C rounded to bc. -/
  | faFadd (s : Src) (g : Guard) (m : Bool)
  /-- R184: fa A − C rounded to bc. -/
  | faFsub (s : Src) (g : Guard) (m : Bool)
  /-- R184: fa A × C rounded to bc. -/
  | faFmul (s : Src) (g : Guard) (m : Bool)
  /-- R185: fa lesser of A and B, rounded to bc. -/
  | faFmin (s : Src) (g : Guard) (m : Bool)
  /-- R185: fa greater of A and B, rounded to bc. -/
  | faFmax (s : Src) (g : Guard) (m : Bool)
  /-- R185: fa C with its sign cleared. -/
  | faFabs (s : Src) (g : Guard) (m : Bool)
  /-- R185: fa C with its sign inverted. -/
  | faFneg (s : Src) (g : Guard) (m : Bool)
  /-- R185: fa |A| with the sign of C. -/
  | faFsgn (s : Src) (g : Guard) (m : Bool)
  /-- R186: fa compare A < C, giving 1 or 0. -/
  | faFclt (s : Src) (g : Guard) (m : Bool)
  /-- R186: fa compare A ≤ C. -/
  | faFcle (s : Src) (g : Guard) (m : Bool)
  /-- R186: fa compare A = C. -/
  | faFceq (s : Src) (g : Guard) (m : Bool)
  /-- R186: fa unordered test of A and C. -/
  | faFcun (s : Src) (g : Guard) (m : Bool)
  /-- R184: fa rounds C to bc in the current mode. -/
  | faFrnd (s : Src) (g : Guard) (m : Bool)
  /-- R184: fa rounds C to bc by round-to-odd. -/
  | faFrto (s : Src) (g : Guard) (m : Bool)
  /-- R187: fa converts C to a signed 64-bit integer, saturating. -/
  | faFcvi (s : Src) (g : Guard) (m : Bool)
  /-- R188: fa converts the signed integer C to a bead value at bc. -/
  | faFicv (s : Src) (g : Guard) (m : Bool)
  /-- R184: fa scales A by 2^C with C read as an integer. -/
  | faFexa (s : Src) (g : Guard) (m : Bool)
  /-- R189: fd quotient A / C rounded to bc. -/
  | fdFdiv (s : Src) (g : Guard) (m : Bool)
  /-- R189: fd square root of C rounded to bc. -/
  | fdFsqrt (s : Src) (g : Guard) (m : Bool)
  /-- R191: sf correctly rounded sine of C. -/
  | sfSin (s : Src) (g : Guard) (m : Bool)
  /-- R191: sf correctly rounded cosine of C. -/
  | sfCos (s : Src) (g : Guard) (m : Bool)
  /-- R191: sf 2^C. -/
  | sfExp2 (s : Src) (g : Guard) (m : Bool)
  /-- R191: sf log2 C. -/
  | sfLog2 (s : Src) (g : Guard) (m : Bool)
  /-- R191: sf reciprocal of C. -/
  | sfRcp (s : Src) (g : Guard) (m : Bool)
  /-- R191: sf reciprocal square root of C. -/
  | sfRsqrt (s : Src) (g : Guard) (m : Bool)
  /-- R191: sf hyperbolic tangent of C. -/
  | sfTanh (s : Src) (g : Guard) (m : Bool)
  /-- R191: sf logistic sigmoid of C. -/
  | sfSigm (s : Src) (g : Guard) (m : Bool)
  /-- R191: sf 2^(C − A). -/
  | sfExd (s : Src) (g : Guard) (m : Bool)
  /-- R205: va element-wise A × B + C, fused for float types. -/
  | vaMad (s : Src) (t : VTy) (g : Guard) (m : Bool)
  /-- R205: va element-wise A + C. -/
  | vaAdd (s : Src) (t : VTy) (g : Guard) (m : Bool)
  /-- R205: va element-wise A − C. -/
  | vaSub (s : Src) (t : VTy) (g : Guard) (m : Bool)
  /-- R205: va element-wise A × C. -/
  | vaMul (s : Src) (t : VTy) (g : Guard) (m : Bool)
  /-- R205: va element-wise minimum. -/
  | vaMin (s : Src) (t : VTy) (g : Guard) (m : Bool)
  /-- R205: va element-wise maximum. -/
  | vaMax (s : Src) (t : VTy) (g : Guard) (m : Bool)
  /-- R205: va element-wise unsigned minimum. -/
  | vaMinn (s : Src) (t : VTy) (g : Guard) (m : Bool)
  /-- R205: va element-wise unsigned maximum. -/
  | vaMaxn (s : Src) (t : VTy) (g : Guard) (m : Bool)
  /-- R205: va bitwise AND. -/
  | vaAnd (s : Src) (t : VTy) (g : Guard) (m : Bool)
  /-- R205: va bitwise OR. -/
  | vaOr (s : Src) (t : VTy) (g : Guard) (m : Bool)
  /-- R205: va bitwise XOR. -/
  | vaXor (s : Src) (t : VTy) (g : Guard) (m : Bool)
  /-- R205: va element-wise left shift. -/
  | vaShl (s : Src) (t : VTy) (g : Guard) (m : Bool)
  /-- R205: va element-wise logical right shift. -/
  | vaShr (s : Src) (t : VTy) (g : Guard) (m : Bool)
  /-- R205: va element-wise arithmetic right shift. -/
  | vaSar (s : Src) (t : VTy) (g : Guard) (m : Bool)
  /-- R205: va element-wise absolute value. -/
  | vaAbs (s : Src) (t : VTy) (g : Guard) (m : Bool)
  /-- R205: va element-wise negation. -/
  | vaNeg (s : Src) (t : VTy) (g : Guard) (m : Bool)
  /-- R205: va compare A < C into element masks. -/
  | vaClt (s : Src) (t : VTy) (g : Guard) (m : Bool)
  /-- R205: va compare A ≤ C into element masks. -/
  | vaCle (s : Src) (t : VTy) (g : Guard) (m : Bool)
  /-- R205: va compare A = C into element masks. -/
  | vaCeq (s : Src) (t : VTy) (g : Guard) (m : Bool)
  /-- R205: va unsigned compare A < C. -/
  | vaCltn (s : Src) (t : VTy) (g : Guard) (m : Bool)
  /-- R206: va conversion of C from the source type in A to the target type, by part. -/
  | vaCvt (s : Src) (t : VTy) (g : Guard) (m : Bool)
  /-- R206: va conversion to a float type by round-to-odd. -/
  | vaCvto (s : Src) (t : VTy) (g : Guard) (m : Bool)
  /-- R207: va loop-bound mask: element i set when A + i < C. -/
  | vaWhile (s : Src) (t : VTy) (g : Guard) (m : Bool)
  /-- R205: va element-wise leading-zero count. -/
  | vaClz (s : Src) (t : VTy) (g : Guard) (m : Bool)
  /-- R205: va element-wise index of the lowest set bit. -/
  | vaFfs (s : Src) (t : VTy) (g : Guard) (m : Bool)
  /-- R205: va element-wise population count. -/
  | vaPop (s : Src) (t : VTy) (g : Guard) (m : Bool)
  /-- R205: va element-wise correctly rounded 2^C, latency 8. -/
  | vaExp2 (s : Src) (t : VTy) (g : Guard) (m : Bool)
  /-- R205: va element-wise reciprocal. -/
  | vaRcp (s : Src) (t : VTy) (g : Guard) (m : Bool)
  /-- R205: va element-wise reciprocal square root. -/
  | vaRsq (s : Src) (t : VTy) (g : Guard) (m : Bool)
  /-- R205: va selects A or C per element by the top bit of B. -/
  | vaSel (s : Src) (t : VTy) (g : Guard) (m : Bool)
  /-- R205: va fills elements with C element 0 plus the gang-global index. -/
  | vaIota (s : Src) (t : VTy) (g : Guard) (m : Bool)
  /-- R205: va broadcasts one C element selected by A to every element. -/
  | vaDup (s : Src) (t : VTy) (g : Guard) (m : Bool)
  /-- R208: vx gang-wide permutation of C by indices in A. -/
  | vxPerm (s : Src) (g : Guard) (m : Bool)
  /-- R208: vx gang-wide rotation of C by s. -/
  | vxRot (s : Src) (g : Guard) (m : Bool)
  /-- R208: vx gang-wide shift of C by s with zero fill. -/
  | vxShift (s : Src) (g : Guard) (m : Bool)
  /-- R208: vx interleaves halves of A and C. -/
  | vxZip (s : Src) (g : Guard) (m : Bool)
  /-- R208: vx de-interleaves A and C. -/
  | vxUnzip (s : Src) (g : Guard) (m : Bool)
  /-- R209: vx gang-wide sum of C by a fixed tree. -/
  | vxRsum (s : Src) (g : Guard) (m : Bool)
  /-- R209: vx gang-wide maximum of C. -/
  | vxRmax (s : Src) (g : Guard) (m : Bool)
  /-- R209: vx gang-wide minimum of C. -/
  | vxRmin (s : Src) (g : Guard) (m : Bool)
  /-- R209: vx gang-wide inclusive prefix sum of C. -/
  | vxScan (s : Src) (g : Guard) (m : Bool)
  /-- R208: vx gang-wide maximum with its index in vx.q. -/
  | vxAmax (s : Src) (g : Guard) (m : Bool)
  /-- R208: vx compresses the masked elements of C with their count in vx.q. -/
  | vxCmpr (s : Src) (g : Guard) (m : Bool)
  /-- R208: vx expands C into the masked positions. -/
  | vxExpd (s : Src) (g : Guard) (m : Bool)
  /-- R210: vx requests a lent v register of a neighbour core's watch for each member. -/
  | vxNbr (s : Src) (g : Guard) (m : Bool)
  /-- R213: vx clears the top-k state and sets its type and limit k. -/
  | vxTkclr (s : Src) (g : Guard) (m : Bool)
  /-- R213: vx merges the gang vector C with indices into the top-k pairs. -/
  | vxTk (s : Src) (g : Guard) (m : Bool)
  /-- R213: vx reads ranked top-k values into vx.r and indices into vx.q. -/
  | vxTkrd (s : Src) (g : Guard) (m : Bool)
  /-- R233: Rod operation running row-buffer rows through a slot into the accumulators. -/
  | mxMmul (s : Src) (g : Guard) (m : Bool)
  /-- R232: Rod operation filling row-buffer rows from an F8 tensor. -/
  | mxRowld (s : Src) (g : Guard) (m : Bool)
  /-- R231: Rod operation loading a tile slot of each core with weights, masks, scales and checksums. -/
  | mxWld (s : Src) (g : Guard) (m : Bool)
  /-- R234: Rod operation making activation vectors resident in VEC slots of every core. -/
  | mxMvset (s : Src) (g : Guard) (m : Bool)
  /-- R235: Rod operation streaming weight rows past resident vectors into accumulators. -/
  | mxMmv (s : Src) (g : Guard) (m : Bool)
  /-- R236: Reads an accumulator row into eight v registers. -/
  | mxAread (s : Src) (g : Guard) (m : Bool)
  /-- R236: Clears the accumulator rows named by a mask. -/
  | mxAclr (s : Src) (g : Guard) (m : Bool)
  /-- R236: Returns a macro-check counter or slot spare record by selector. -/
  | mxMchk (s : Src) (g : Guard) (m : Bool)
  /-- R258: Loads one tensor element and widens it exactly to a transport form. -/
  | lsLdt (s : Src) (g : Guard) (m : Bool)
  /-- R258: Narrows a transport form and stores it into one tensor element. -/
  | lsStt (s : Src) (g : Guard) (m : Bool)
  /-- R259: Pins a cache line in its way for the watch within its quota. -/
  | lsPin (s : Src) (g : Guard) (m : Bool)
  /-- R259: Releases the watch's pin on a line. -/
  | lsUnpin (s : Src) (g : Guard) (m : Bool)
  /-- R260: Starts a bulk prefetch of a range into its home slices with a token cell. -/
  | lsPfr (s : Src) (g : Guard) (m : Bool)
  /-- R261: Reserves the tail slot of a FIFO bank, parking until it is FREE. -/
  | lsPush (s : Src) (g : Guard) (m : Bool)
  /-- R262: Releases the oldest taken slot and/or takes the head slot of a local FIFO bank once COMPLETE. -/
  | lsPop (s : Src) (g : Guard) (m : Bool)
  /-- R263: Changes the mode of one bank of the board, subject to pins and FIFO emptiness. -/
  | lsBmode (s : Src) (g : Guard) (m : Bool)
  /-- R312: Atomic add at the home returning the old value. -/
  | atAadd (s : Src) (g : Guard) (m : Bool)
  /-- R312: Atomic AND returning the old value. -/
  | atAand (s : Src) (g : Guard) (m : Bool)
  /-- R312: Atomic OR returning the old value. -/
  | atAor (s : Src) (g : Guard) (m : Bool)
  /-- R312: Atomic XOR returning the old value. -/
  | atAxor (s : Src) (g : Guard) (m : Bool)
  /-- R312: Atomic signed minimum. -/
  | atAmin (s : Src) (g : Guard) (m : Bool)
  /-- R312: Atomic signed maximum. -/
  | atAmax (s : Src) (g : Guard) (m : Bool)
  /-- R312: Atomic unsigned minimum. -/
  | atAminn (s : Src) (g : Guard) (m : Bool)
  /-- R312: Atomic unsigned maximum. -/
  | atAmaxn (s : Src) (g : Guard) (m : Bool)
  /-- R312: Atomic exchange. -/
  | atAxch (s : Src) (g : Guard) (m : Bool)
  /-- R312: Atomic compare-and-swap. -/
  | atAcas (s : Src) (g : Guard) (m : Bool)
  /-- R312: Atomic binary32 add rounded by RNE. -/
  | atAfadd (s : Src) (g : Guard) (m : Bool)
  /-- R318: Collapses the siblings of a group of KEEP cells by an operator into one value with the reconciler's dot. -/
  | atRecon (s : Src) (g : Guard) (m : Bool)
  /-- R319: Reads the sibling of rank k of a cell with its dot, joining the dot. -/
  | atLdsib (s : Src) (g : Guard) (m : Bool)
  /-- R320: Copies a 64-byte line read at its home at one instant into a board-store address. -/
  | atSnap (s : Src) (g : Guard) (m : Bool)
  /-- R321: Enrols the watch in a keeping region's lowest free writer slot. -/
  | atWslot (s : Src) (g : Guard) (m : Bool)
  /-- R321: Ends the watch's enrolment in a region, retiring its slot. -/
  | atWdrop (s : Src) (g : Guard) (m : Bool)
  /-- R128: Sends a TASK message to a destination core. -/
  | msSend (s : Src) (g : Guard) (m : Bool)
  /-- R128: Sends a CALL message naming a target and a continuation. -/
  | msCallat (s : Src) (g : Guard) (m : Bool)
  /-- R128: Sends a REPLY message to a continuation. -/
  | msReply (s : Src) (g : Guard) (m : Bool)
  /-- R128: Sends a CODE message carrying up to five words of code. -/
  | msSendc (s : Src) (g : Guard) (m : Bool)
  /-- R135: Sends a deposit into one slot of an object, with residual class and optional wake. -/
  | msDep (s : Src) (g : Guard) (m : Bool)
  /-- R145: Hands a collective entry to the die's collective engine for a group. -/
  | msColl (s : Src) (g : Guard) (m : Bool)
  /-- R145: Defines a group number of the partition from a group descriptor. -/
  | msGrp (s : Src) (g : Guard) (m : Bool)
  /-- R142: Reads a launch descriptor and installs a new launch in the pending-launch store, returning its handle. -/
  | msLaunch (s : Src) (g : Guard) (m : Bool)
  /-- R145: Copies one PAD tile to the same offset in the masked neighbouring boards. -/
  | msMcast (s : Src) (g : Guard) (m : Bool)
  /-- R344: Captures and appends linked command-chain entries to a copy engine chain. -/
  | ceTail (s : Src) (g : Guard) (m : Bool)
  /-- R345: Reads a chain's done as an acquire. -/
  | ceSeq (s : Src) (g : Guard) (m : Bool)
  /-- R345: Parks the watch until a chain's done reaches a sequence number. -/
  | ceWseq (s : Src) (g : Guard) (m : Bool)
  /-- R346: Arms a night-copy flip of a pair at bell time T from the watch. -/
  | cePub (s : Src) (g : Guard) (m : Bool)
  /-- R347: Stops a copy chain, ending unstarted entries HALTED. -/
  | ceHalt (s : Src) (g : Guard) (m : Bool)
  /-- R243: Checks a tensor header and binds it to a tensor id. -/
  | tbTbind (s : Src) (g : Guard) (m : Bool)
  /-- R243: Unbinds a tensor id. -/
  | tbTfree (s : Src) (g : Guard) (m : Bool)
  /-- R243: Stores a bound tensor entry to memory. -/
  | tbTget (s : Src) (g : Guard) (m : Bool)
  /-- R243: Replaces the base, scale or kv field of a bound tensor entry. -/
  | tbTset (s : Src) (g : Guard) (m : Bool)
  /-- R378: Reads the CSR with a computed number into sy.r. -/
  | syRd (s : Src) (g : Guard) (m : Bool)
  /-- R378: Writes sy.a to the CSR with a computed number, reporting BAD or PRIV. -/
  | syWr (s : Src) (g : Guard) (m : Bool)
  /-- R407: Power-on reset zeroes bell time and runs the ROM boot: record check, repairs, training, domain forming, extensions. -/
  | powerOnReset
  /-- R406: Firmware restarts, rewrites completions after cph and completes unfinished commands RESTARTED. -/
  | firmwareRestart
  /-- R395: Host write of a BAR register that has no behaviour of its own. -/
  | registerWrite
  /-- R144: An 8-byte write to a notify page's ring field admits index tasks of the bound launch. -/
  | ringWrite
  /-- R405: Firmware command returning enabled parts, domain registers, granule table or link state. -/
  | query
  /-- R405: Firmware command creating a partition of rods with its domain, tables, bank modes and attributes. -/
  | pcreate
  /-- R405: Firmware command destroying a partition. -/
  | pdestroy
  /-- R405: Firmware command setting a partition's window, link-loss and keeping-debug attributes. -/
  | setattr
  /-- R405: Firmware command starting a job with a dusk budget and completion cell. -/
  | job
  /-- R405: Firmware command opening or closing a phase. -/
  | phase
  /-- R29: Firmware command installing launches into a graph and optionally closing it. -/
  | graph
  /-- R32: Firmware command cancelling a level as cancel does. -/
  | fwCancel
  /-- R367: Firmware command writing a page-table entry and invalidating TLBs. -/
  | map
  /-- R367: Firmware command removing a page-table entry and invalidating TLBs. -/
  | unmap
  /-- R134: Firmware command installing a type entry image at a type id. -/
  | type
  /-- R143: Firmware command binding a notify page to a launch. -/
  | notify
  /-- R337: Firmware command creating or destroying a night-copy pair. -/
  | pair
  /-- R309: Firmware command reading a keeping region's multi-value lists. -/
  | klist
  /-- R309: Firmware command resetting a fully reconciled keeping region's dots, slots and enrolments. -/
  | kreset
  /-- R362: Firmware command splitting members and granules of a domain into a new domain at a phase boundary. -/
  | split
  /-- R386: Firmware command arming a gang switch at bell time T and reserving save frames. -/
  | switch
  /-- R389: Firmware command arming a resume of a stopped or switched partition. -/
  | resume
  /-- R383: Firmware command stopping a partition through its halt tree. -/
  | stop
  /-- R391: Firmware command discarding a dumped partition and returning its frames. -/
  | discard
  /-- R392: Firmware command adding cycles to a job's dusk budget. -/
  | duskadd
  /-- R390: Firmware command adding HBM save frames to the free list. -/
  | frames
  /-- R410: Firmware command returning a signed attestation report. -/
  | attest
  /-- R408: Firmware command accepting a newer vendor-signed configuration record. -/
  | cfgwrite
  /-- R410: Firmware command loading a vendor-signed firmware extension. -/
  | extload
  /-- R400: Firmware command resetting a link that was declared down. -/
  | linkreset
  /-- R23: The work slice places a started launch's indices as launch cursors at cores once they have room. -/
  | indexPlacement
  /-- R119: A FREE watch takes the selected eligible run-queue entry and loads its registers. -/
  | taskDispatch
  /-- R119: Six cycles after dispatch the watch becomes READY. -/
  | watchReady
  /-- R63: A parked watch or gang is released once every result of its region has landed, zeroing ports and making parked results readable. -/
  | markerRelease
  /-- R148: A PAUSED watch's pause count elapses and it becomes READY. -/
  | pauseExpiry
  /-- R40: Each full 4,096 ticks a queued entry has waited promotes it one class. -/
  | agingStep
  /-- R58: A timed unit's result lands in its port and register after its latency in slots. -/
  | resultLanding
  /-- R62: A MEM load's value is delivered into its data register. -/
  | loadDeliver
  /-- R99: An instruction line arrives in the fetch buffer, ending a fetch stall. -/
  | fetchFill
  /-- R113: After a body's last word, the level's count decrements and the body repeats or the level ends. -/
  | loopPassEnd
  /-- R21: A retired task's outstanding results land and its watch becomes FREE. -/
  | watchFree
  /-- R130: A message arriving at its destination core is placed in a free slot or behind others in the overflow area. -/
  | messageAccept
  /-- R130: A message that has waited 1,024 cycles in the router goes to the board's overflow area. -/
  | overflowTimeout
  /-- R130: When a core slot frees, the oldest overflow message for that core moves into it. -/
  | overflowDrain
  /-- R131: Every 1,024 cycles the home offers a waiting wake entry again until room takes it. -/
  | wakeRetry
  /-- R135: A DEP message is applied atomically at the object's home, or dropped at a marked slot. -/
  | depositApply
  /-- R33: A core receiving a cancel notice discards queued entries of the cancelled lineages and marks running tasks. -/
  | cancelNotice
  /-- R26: A launch whose counter reached zero records its completion: cell add, continuation, entry freed, successors released. -/
  | launchComplete
  /-- R28: A continuation waiting at the work slice obtains a pending-launch entry and starts. -/
  | continuationStart
  /-- R30: A closed phase whose graphs and engine chains have all ended completes. -/
  | phaseComplete
  /-- R138: At each convergence-window boundary every board forwards its deposit counts. -/
  | windowBoundary
  /-- R139: 256 ticks after a boundary the convergence register pair reports the ended window. -/
  | cvrUpdate
  /-- R194: When every core of a claimed span holds a gfollow watch, the gang forms and every member is released. -/
  | gangForm
  /-- R210: A neighbour read is served when the lending watch is READY or ISSUING with its lend bit set. -/
  | nbrServed
  /-- R210: A neighbour read not served within nbt cycles returns zero and a clear success mask. -/
  | nbrTimeout
  /-- R217: When all 32 cores have joined a rod operation it starts after the rod checks. -/
  | rodOpStart
  /-- R237: A rod operation completes and its result awaits the next marker. -/
  | rodOpEnd
  /-- R246: A board-store access is served or refused by the bank controller in the bank's current mode. -/
  | bankAccess
  /-- R252: A waiting reservation takes the tail slot once it is FREE. -/
  | fifoReserve
  /-- R253: A parked take is served when the head slot becomes COMPLETE. -/
  | fifoTake
  /-- R251: A bank mode change takes effect at the bank controller after any write-back, ending parked takes. -/
  | modeChange
  /-- R256: A bulk prefetch finishes and adds its token to its cell. -/
  | prefetchDone
  /-- R271: A write-combining line drains to its home, at the latest 512 cycles after its last write. -/
  | wcbDrain
  /-- R270: A store is applied at its home and forwarded to every sharer board. -/
  | storeApply
  /-- R270: A sharer board applies forwarded written words. -/
  | updateApply
  /-- R270: The home acknowledges a store once every sharer has applied it. -/
  | storeAck
  /-- R356: A fill from DRAM arrives at a slice and its recorded requests are served in arrival order. -/
  | missFill
  /-- R300: The home decides a stamped KEEP store, keeping uncovered or marked values as siblings. -/
  | keepStoreDecide
  /-- R301: A store refused for an unknown clock key pushes its writer clock to the home and retries. -/
  | clockPush
  /-- R307: A refused KEEP store is retried after 64 × 2^i cycles, up to eight times. -/
  | keepRetry
  /-- R312: An atomic request is performed at its home as one single-copy-atomic access. -/
  | atomicApply
  /-- R366: A board TLB miss takes a walker that reads the page-table levels. -/
  | tlbWalk
  /-- R332: Engine entry copying a byte range to a destination or FIFO slot. -/
  | entryCopy
  /-- R333: Engine entry gathering converted tensor rows by an index list. -/
  | entryGather
  /-- R334: Engine entry gathering whole KV blocks into an F8 buffer. -/
  | entrySelgather
  /-- R333: Engine entry scattering converted tensor rows by an index list. -/
  | entryScatter
  /-- R332: Engine entry filling a range with an 8-byte pattern. -/
  | entryFill
  /-- R333: Engine entry converting every element of a tensor into another format. -/
  | entryConvert
  /-- R340: Engine entry arming a SNAP hold of a set of objects at bell time T. -/
  | entrySnap
  /-- R339: Engine entry arming a night-copy flip of a pair at bell time T. -/
  | entryPublish
  /-- R336: Engine entry holding later entries until earlier ones have ended and performed at a scope. -/
  | entryFence
  /-- R336: Engine entry holding its chain until another chain's done reaches a number. -/
  | entryWait
  /-- R332: Engine entry performing a bulk prefetch of a range without a token. -/
  | entryPrefetch
  /-- R342: Collective entry giving every member every rank's source block. -/
  | allgather
  /-- R342: Collective entry reducing block r of every rank into member r. -/
  | redscat
  /-- R342: Collective entry exchanging blocks between all ranks. -/
  | alltoall
  /-- R342: Collective entry that moves nothing and ends when every member has joined. -/
  | entryBarrier
  /-- R342: A collective starts once every member has appended its k-th entry, or ends MISMATCH. -/
  | collectiveStart
  /-- R329: An engine entry ends: status words, errs and then done written as a release. -/
  | entryEnd
  /-- R339: At the armed bell time the day and night sides of a pair exchange at every home. -/
  | dawnSwap
  /-- R340: At bell time T host cores stop dispatching and homes defer deposits for the SNAP set. -/
  | snapHold
  /-- R340: After the records are copied, deferred deposits are applied and dispatch resumes. -/
  | snapRelease
  /-- R362: At the armed bell time every router installs the new granule table and domain registers. -/
  | splitSwitch
  /-- R363: A request answered REMAP is recomputed and replayed by its requester. -/
  | remapReplay
  /-- R392: The dusk register reaches zero and the partition stops with a deadline overrun. -/
  | duskExpiry
  /-- R387: At the armed bell time every core stops and the partition's state is saved into frames. -/
  | gangSwitch
  /-- R389: At the resume bell time saved state is restored and every watch continues at its saved slot. -/
  | resumeAtT
  /-- R412: A core power-gates after 2,048 consecutive idle cycles. -/
  | powerGate
  /-- R413: A gated core wakes on an eligible entry, met condition, cancel notice, stop or switch. -/
  | coreWake
  /-- R411: Firmware lowers or raises the arithmetic clock in 100 MHz steps on temperature or power. -/
  | clockThrottle
  /-- R399: A link that cannot complete a retry or loses lock retrains, holding traffic and fences. -/
  | linkRetrain
  /-- R399: A retraining link returns within 200 µs and replays its flits, completing waiting fences OK. -/
  | linkReturn
  /-- R400: A link not back within 200 µs is declared down with its lost window recorded. -/
  | linkDown
  /-- R396: A host CXL.mem read is served at the line's home as an acquire read. -/
  | cxlMemRead
  /-- R396: A host CXL.mem write is applied at the home and forwarded to sharers before completion. -/
  | cxlMemWrite
  /-- R397: A host snoop to a HOST-C line held by the bridge returns its bytes after any pending atomic. -/
  | hostSnoop
  /-- R402: A remote RDMA write lands in device memory as a CXL.mem write does. -/
  | rdmaWrite
  /-- R401: A load from a core of a peer package arrives over a span link and is served at the line's home in this package. -/
  | peerLoad
  /-- R410: Firmware takes a command whose opcode lies in 0x80..0xFF, which a loaded extension serves and which otherwise completes BAD. -/
  | extensionCommand
deriving DecidableEq, Repr

end Sys2Proof
end

