-- ==== Sys2Proof/WellFormed.lean ====
section
/-!
DEFINITION. Which instructions a word of the instruction stream can hold: the checks of R48 on the syntax.
-/
namespace Sys2Proof

/-- The four classes of sources and destinations (R52). -/
inductive Cls where
  | scalar | float | vector | predicate
deriving DecidableEq, Repr

/-- The function unit an operation belongs to (R50). -/
def UOp.unit : UOp → FUnit
  | .ia _ => .ia | .im _ => .im | .fa _ => .fa | .fd _ => .fd | .sf _ => .sf | .va _ _ => .va | .vx _ => .vx
  | .mx _ => .mx | .ls _ => .ls | .at _ => .at | .ms _ => .ms | .ce _ => .ce | .tb _ => .tb | .sy _ => .sy

/-- The class of a source (R52). -/
def Src.cls : Src → Cls
  | .x _ => .scalar | .f _ => .float | .v _ => .vector | .g _ => .predicate
  | .port p => match p with
    | .va | .vx | .vxq => .vector
    | _ => .scalar
  | .special _ => .scalar | .const _ => .scalar

/-- The class of a destination (R52). -/
def Dst.cls : Dst → Cls
  | .x _ => .scalar | .f _ => .float | .v _ => .vector | .g _ => .predicate
  | .latch l => match l with
    | .vaA | .vaB | .vxA | .vxB => .vector
    | _ => .scalar
  | .trig o => match o.unit with
    | .va | .vx => .vector
    | _ => .scalar

/-- Whether a transport converts between two classes (R53). -/
def Cls.converts : Cls → Cls → Bool
  | .float, .vector | .float, .predicate | .vector, .float | .predicate, .float => false
  | _, _ => true

/-- A transport uses the vector bus if its source or its destination is of the vector class (R53). -/
def vectorBus (s : Src) (d : Dst) : Bool := s.cls = .vector || d.cls = .vector

/-- The types a vector operation is assigned with (R68). -/
def VaOp.hasTy (o : VaOp) (t : VTy) : Bool :=
  let int : Bool := match t with
    | .i8 | .i16 | .i32 | .i64 => true
    | _ => false
  match o with
  | .minn | .maxn | .andOp | .orOp | .xor | .shl | .shr | .sar | .cltn | .whileOp | .clz | .ffs | .pop => int
  | .cvto | .exp2 | .rcp | .rsq => !int
  | _ => true

/-- The operation is assigned an op8 value (R67, R68, R69). -/
def UOp.assigned : UOp → Bool
  | .va o t => o.hasTy t
  | _ => true

/-- The operation a T2 fires: op 0 of the unit (R50). -/
def FUnit.op0 : FUnit → UOp
  | .ia => .ia .add | .im => .im .mul | .fa => .fa .fma | .fd => .fd .fdiv | .sf => .sf .sin | .va => .va .mad .i8
  | .vx => .vx .perm | .mx => .mx .mmul | .ls => .ls .ldt | .at => .at .aadd | .ms => .ms .send | .ce => .ce .tail
  | .tb => .tb .tbind | .sy => .sy .rd

/-- The guard code is not the reserved one (R65). -/
def Guard.ok (g : Guard) : Bool := !(g.neg && g.sel = 0)

/-- A destination names something: a trigger port's operation is an assigned one. -/
def Dst.ok : Dst → Bool
  | .trig o => o.assigned
  | _ => true

/-- The half of the destination space, 0..63 or 64..127, that a T2 can name together (R47). -/
def Dst.upper : Dst → Bool
  | .x _ | .f _ | .v _ => false
  | _ => true

/-- Whether a destination is a trigger port. -/
def Dst.isTrig : Dst → Bool
  | .trig _ => true
  | _ => false

/-- A T2 destination: not a trigger port, or a trigger port with op 0 (R50). -/
def Dst.t2ok : Dst → Bool
  | .trig o => o = o.unit.op0
  | _ => true

/-- A transport converts its classes (R53). -/
def converts (s : Src) (d : Dst) : Bool := s.cls.converts d.cls

/-- A `to` word on a trigger port: guard, conversion and assignment (R48). -/
def unitOk (o : UOp) (s : Src) (g : Guard) : Bool := g.ok && o.assigned && converts s (.trig o)

/-- The two transports of a T2 (R48, R56). -/
def t2Ok (s : Src) (d : Dst) (a : Src) (b : Dst) : Bool :=
  converts s d && converts a b && d.t2ok && b.t2ok && (d.upper = b.upper) &&
  !(vectorBus s d && vectorBus a b) && !(decide (d = b))

/-- Whether the device could have read this instruction from an encoding that passes the checks of R48. The rows
without an encoding carry no field, and are well formed. -/
def WellFormed (i : Instr) : Bool :=
  match i with
  | .cCp _ _ _ => true
  | .cAdd _ _ _ => true
  | .cSub _ _ _ => true
  | .cAnd _ _ _ => true
  | .cOr _ _ _ => true
  | .cXor _ _ _ => true
  | .cShl _ _ _ => true
  | .cShr _ _ _ => true
  | .cSar _ _ _ => true
  | .cMul _ _ _ => true
  | .cMin _ _ _ => true
  | .cMax _ _ _ => true
  | .cMinn _ _ _ => true
  | .cMaxn _ _ _ => true
  | .cAndn _ _ _ => true
  | .cAddi _ _ _ => true
  | .toWord s d g _ => g.ok && !d.isTrig && converts s d
  | .t2 s d a b _ => t2Ok s d a b
  | .ti d _ _ => d.ok
  | .li _ _ _ => true
  | .lh _ _ _ => true
  | .ldb _ _ _ _ => true
  | .ldh _ _ _ _ => true
  | .ldw _ _ _ _ => true
  | .ldd _ _ _ _ => true
  | .ldbz _ _ _ _ => true
  | .ldhz _ _ _ _ => true
  | .ldwz _ _ _ _ => true
  | .ldq _ _ _ _ => true
  | .ldv _ _ _ _ => true
  | .ldf _ _ _ _ => true
  | .ldacq _ _ _ _ => true
  | .ldk _ _ _ _ => true
  | .ldro _ _ _ _ => true
  | .ldkv _ _ _ _ => true
  | .stb _ _ _ _ => true
  | .sth _ _ _ _ => true
  | .stw _ _ _ _ => true
  | .std _ _ _ _ => true
  | .stq _ _ _ _ => true
  | .stv _ _ _ _ => true
  | .stf _ _ _ _ => true
  | .strel _ _ _ _ => true
  | .stnt _ _ _ _ => true
  | .stvnt _ _ _ _ => true
  | .b g _ _ => g.ok
  | .bl g _ _ => g.ok
  | .loop g _ _ _ => g.ok
  | .jr g _ _ => g.ok
  | .jlr g _ _ => g.ok
  | .fence k p _ => decide (k.toNat < 4) && decide (p.toNat < 7)
  | .pause _ _ _ => true
  | .isync _ => true
  | .roinv _ => true
  | .csrr _ _ _ => true
  | .csrw _ _ _ => true
  | .bcs _ _ _ => true
  | .rms o _ => decide (o.toNat < 5)
  | .wnd _ _ => true
  | .wpop _ => true
  | .glead c _ => decide (c.toNat < 6)
  | .gfollow _ => true
  | .gend _ => true
  | .done _ => true
  | .reque _ => true
  | .trap _ _ => true
  | .tret _ => true
  | .wb _ _ _ => true
  | .idle _ => true
  | .cancel _ _ _ => true
  | .iaAdd s g _ _ => unitOk (.ia .add) s g
  | .iaSub s g _ _ => unitOk (.ia .sub) s g
  | .iaAnd s g _ => unitOk (.ia .andOp) s g
  | .iaOr s g _ => unitOk (.ia .orOp) s g
  | .iaXor s g _ => unitOk (.ia .xor) s g
  | .iaAndn s g _ => unitOk (.ia .andn) s g
  | .iaShl s g _ _ => unitOk (.ia .shl) s g
  | .iaShr s g _ _ => unitOk (.ia .shr) s g
  | .iaSar s g _ _ => unitOk (.ia .sar) s g
  | .iaRol s g _ _ => unitOk (.ia .rol) s g
  | .iaMin s g _ _ => unitOk (.ia .min) s g
  | .iaMax s g _ _ => unitOk (.ia .max) s g
  | .iaMinn s g _ _ => unitOk (.ia .minn) s g
  | .iaMaxn s g _ _ => unitOk (.ia .maxn) s g
  | .iaSlt s g _ _ => unitOk (.ia .slt) s g
  | .iaSltn s g _ _ => unitOk (.ia .sltn) s g
  | .iaSeq s g _ _ => unitOk (.ia .seq) s g
  | .iaSne s g _ _ => unitOk (.ia .sne) s g
  | .iaClz s g _ _ => unitOk (.ia .clz) s g
  | .iaFfs s g _ _ => unitOk (.ia .ffs) s g
  | .iaPop s g _ _ => unitOk (.ia .pop) s g
  | .iaBsw s g _ => unitOk (.ia .bsw) s g
  | .iaBxt s g _ => unitOk (.ia .bxt) s g
  | .iaSxt s g _ => unitOk (.ia .sxt) s g
  | .iaAdds s g _ _ => unitOk (.ia .adds) s g
  | .iaSubs s g _ _ => unitOk (.ia .subs) s g
  | .iaAbs s g _ _ => unitOk (.ia .abs) s g
  | .imMul s g _ _ => unitOk (.im .mul) s g
  | .imMulh s g _ _ => unitOk (.im .mulh) s g
  | .imMulhn s g _ _ => unitOk (.im .mulhn) s g
  | .imDiv s g _ _ => unitOk (.im .div) s g
  | .imDivn s g _ _ => unitOk (.im .divn) s g
  | .imRem s g _ _ => unitOk (.im .rem) s g
  | .imRemn s g _ _ => unitOk (.im .remn) s g
  | .faFma s g _ => unitOk (.fa .fma) s g
  | .faFms s g _ => unitOk (.fa .fms) s g
  | .faFnma s g _ => unitOk (.fa .fnma) s g
  | .faFadd s g _ => unitOk (.fa .fadd) s g
  | .faFsub s g _ => unitOk (.fa .fsub) s g
  | .faFmul s g _ => unitOk (.fa .fmul) s g
  | .faFmin s g _ => unitOk (.fa .fmin) s g
  | .faFmax s g _ => unitOk (.fa .fmax) s g
  | .faFabs s g _ => unitOk (.fa .fabs) s g
  | .faFneg s g _ => unitOk (.fa .fneg) s g
  | .faFsgn s g _ => unitOk (.fa .fsgn) s g
  | .faFclt s g _ => unitOk (.fa .fclt) s g
  | .faFcle s g _ => unitOk (.fa .fcle) s g
  | .faFceq s g _ => unitOk (.fa .fceq) s g
  | .faFcun s g _ => unitOk (.fa .fcun) s g
  | .faFrnd s g _ => unitOk (.fa .frnd) s g
  | .faFrto s g _ => unitOk (.fa .frto) s g
  | .faFcvi s g _ => unitOk (.fa .fcvi) s g
  | .faFicv s g _ => unitOk (.fa .ficv) s g
  | .faFexa s g _ => unitOk (.fa .fexa) s g
  | .fdFdiv s g _ => unitOk (.fd .fdiv) s g
  | .fdFsqrt s g _ => unitOk (.fd .fsqrt) s g
  | .sfSin s g _ => unitOk (.sf .sin) s g
  | .sfCos s g _ => unitOk (.sf .cos) s g
  | .sfExp2 s g _ => unitOk (.sf .exp2) s g
  | .sfLog2 s g _ => unitOk (.sf .log2) s g
  | .sfRcp s g _ => unitOk (.sf .rcp) s g
  | .sfRsqrt s g _ => unitOk (.sf .rsqrt) s g
  | .sfTanh s g _ => unitOk (.sf .tanh) s g
  | .sfSigm s g _ => unitOk (.sf .sigm) s g
  | .sfExd s g _ => unitOk (.sf .exd) s g
  | .vaMad s t g _ => unitOk (.va .mad t) s g
  | .vaAdd s t g _ => unitOk (.va .add t) s g
  | .vaSub s t g _ => unitOk (.va .sub t) s g
  | .vaMul s t g _ => unitOk (.va .mul t) s g
  | .vaMin s t g _ => unitOk (.va .min t) s g
  | .vaMax s t g _ => unitOk (.va .max t) s g
  | .vaMinn s t g _ => unitOk (.va .minn t) s g
  | .vaMaxn s t g _ => unitOk (.va .maxn t) s g
  | .vaAnd s t g _ => unitOk (.va .andOp t) s g
  | .vaOr s t g _ => unitOk (.va .orOp t) s g
  | .vaXor s t g _ => unitOk (.va .xor t) s g
  | .vaShl s t g _ => unitOk (.va .shl t) s g
  | .vaShr s t g _ => unitOk (.va .shr t) s g
  | .vaSar s t g _ => unitOk (.va .sar t) s g
  | .vaAbs s t g _ => unitOk (.va .abs t) s g
  | .vaNeg s t g _ => unitOk (.va .neg t) s g
  | .vaClt s t g _ => unitOk (.va .clt t) s g
  | .vaCle s t g _ => unitOk (.va .cle t) s g
  | .vaCeq s t g _ => unitOk (.va .ceq t) s g
  | .vaCltn s t g _ => unitOk (.va .cltn t) s g
  | .vaCvt s t g _ => unitOk (.va .cvt t) s g
  | .vaCvto s t g _ => unitOk (.va .cvto t) s g
  | .vaWhile s t g _ => unitOk (.va .whileOp t) s g
  | .vaClz s t g _ => unitOk (.va .clz t) s g
  | .vaFfs s t g _ => unitOk (.va .ffs t) s g
  | .vaPop s t g _ => unitOk (.va .pop t) s g
  | .vaExp2 s t g _ => unitOk (.va .exp2 t) s g
  | .vaRcp s t g _ => unitOk (.va .rcp t) s g
  | .vaRsq s t g _ => unitOk (.va .rsq t) s g
  | .vaSel s t g _ => unitOk (.va .sel t) s g
  | .vaIota s t g _ => unitOk (.va .iota t) s g
  | .vaDup s t g _ => unitOk (.va .dup t) s g
  | .vxPerm s g _ => unitOk (.vx .perm) s g
  | .vxRot s g _ => unitOk (.vx .rot) s g
  | .vxShift s g _ => unitOk (.vx .shift) s g
  | .vxZip s g _ => unitOk (.vx .zip) s g
  | .vxUnzip s g _ => unitOk (.vx .unzip) s g
  | .vxRsum s g _ => unitOk (.vx .rsum) s g
  | .vxRmax s g _ => unitOk (.vx .rmax) s g
  | .vxRmin s g _ => unitOk (.vx .rmin) s g
  | .vxScan s g _ => unitOk (.vx .scan) s g
  | .vxAmax s g _ => unitOk (.vx .amax) s g
  | .vxCmpr s g _ => unitOk (.vx .cmpr) s g
  | .vxExpd s g _ => unitOk (.vx .expd) s g
  | .vxNbr s g _ => unitOk (.vx .nbr) s g
  | .vxTkclr s g _ => unitOk (.vx .tkclr) s g
  | .vxTk s g _ => unitOk (.vx .tk) s g
  | .vxTkrd s g _ => unitOk (.vx .tkrd) s g
  | .mxMmul s g _ => unitOk (.mx .mmul) s g
  | .mxRowld s g _ => unitOk (.mx .rowld) s g
  | .mxWld s g _ => unitOk (.mx .wld) s g
  | .mxMvset s g _ => unitOk (.mx .mvset) s g
  | .mxMmv s g _ => unitOk (.mx .mmv) s g
  | .mxAread s g _ => unitOk (.mx .aread) s g
  | .mxAclr s g _ => unitOk (.mx .aclr) s g
  | .mxMchk s g _ => unitOk (.mx .mchk) s g
  | .lsLdt s g _ => unitOk (.ls .ldt) s g
  | .lsStt s g _ => unitOk (.ls .stt) s g
  | .lsPin s g _ => unitOk (.ls .pin) s g
  | .lsUnpin s g _ => unitOk (.ls .unpin) s g
  | .lsPfr s g _ => unitOk (.ls .pfr) s g
  | .lsPush s g _ => unitOk (.ls .push) s g
  | .lsPop s g _ => unitOk (.ls .pop) s g
  | .lsBmode s g _ => unitOk (.ls .bmode) s g
  | .atAadd s g _ => unitOk (.at .aadd) s g
  | .atAand s g _ => unitOk (.at .aand) s g
  | .atAor s g _ => unitOk (.at .aor) s g
  | .atAxor s g _ => unitOk (.at .axor) s g
  | .atAmin s g _ => unitOk (.at .amin) s g
  | .atAmax s g _ => unitOk (.at .amax) s g
  | .atAminn s g _ => unitOk (.at .aminn) s g
  | .atAmaxn s g _ => unitOk (.at .amaxn) s g
  | .atAxch s g _ => unitOk (.at .axch) s g
  | .atAcas s g _ => unitOk (.at .acas) s g
  | .atAfadd s g _ => unitOk (.at .afadd) s g
  | .atRecon s g _ => unitOk (.at .recon) s g
  | .atLdsib s g _ => unitOk (.at .ldsib) s g
  | .atSnap s g _ => unitOk (.at .snap) s g
  | .atWslot s g _ => unitOk (.at .wslot) s g
  | .atWdrop s g _ => unitOk (.at .wdrop) s g
  | .msSend s g _ => unitOk (.ms .send) s g
  | .msCallat s g _ => unitOk (.ms .callat) s g
  | .msReply s g _ => unitOk (.ms .reply) s g
  | .msSendc s g _ => unitOk (.ms .sendc) s g
  | .msDep s g _ => unitOk (.ms .dep) s g
  | .msColl s g _ => unitOk (.ms .coll) s g
  | .msGrp s g _ => unitOk (.ms .grp) s g
  | .msLaunch s g _ => unitOk (.ms .launch) s g
  | .msMcast s g _ => unitOk (.ms .mcast) s g
  | .ceTail s g _ => unitOk (.ce .tail) s g
  | .ceSeq s g _ => unitOk (.ce .seq) s g
  | .ceWseq s g _ => unitOk (.ce .wseq) s g
  | .cePub s g _ => unitOk (.ce .pub) s g
  | .ceHalt s g _ => unitOk (.ce .halt) s g
  | .tbTbind s g _ => unitOk (.tb .tbind) s g
  | .tbTfree s g _ => unitOk (.tb .tfree) s g
  | .tbTget s g _ => unitOk (.tb .tget) s g
  | .tbTset s g _ => unitOk (.tb .tset) s g
  | .syRd s g _ => unitOk (.sy .rd) s g
  | .syWr s g _ => unitOk (.sy .wr) s g
  | .powerOnReset => true
  | .firmwareRestart => true
  | .registerWrite => true
  | .ringWrite => true
  | .query => true
  | .pcreate => true
  | .pdestroy => true
  | .setattr => true
  | .job => true
  | .phase => true
  | .graph => true
  | .fwCancel => true
  | .map => true
  | .unmap => true
  | .type => true
  | .notify => true
  | .pair => true
  | .klist => true
  | .kreset => true
  | .split => true
  | .switch => true
  | .resume => true
  | .stop => true
  | .discard => true
  | .duskadd => true
  | .frames => true
  | .attest => true
  | .cfgwrite => true
  | .extload => true
  | .linkreset => true
  | .indexPlacement => true
  | .taskDispatch => true
  | .watchReady => true
  | .markerRelease => true
  | .pauseExpiry => true
  | .agingStep => true
  | .resultLanding => true
  | .loadDeliver => true
  | .fetchFill => true
  | .loopPassEnd => true
  | .watchFree => true
  | .messageAccept => true
  | .overflowTimeout => true
  | .overflowDrain => true
  | .wakeRetry => true
  | .depositApply => true
  | .cancelNotice => true
  | .launchComplete => true
  | .continuationStart => true
  | .phaseComplete => true
  | .windowBoundary => true
  | .cvrUpdate => true
  | .gangForm => true
  | .nbrServed => true
  | .nbrTimeout => true
  | .rodOpStart => true
  | .rodOpEnd => true
  | .bankAccess => true
  | .fifoReserve => true
  | .fifoTake => true
  | .modeChange => true
  | .prefetchDone => true
  | .wcbDrain => true
  | .storeApply => true
  | .updateApply => true
  | .storeAck => true
  | .missFill => true
  | .keepStoreDecide => true
  | .clockPush => true
  | .keepRetry => true
  | .atomicApply => true
  | .tlbWalk => true
  | .entryCopy => true
  | .entryGather => true
  | .entrySelgather => true
  | .entryScatter => true
  | .entryFill => true
  | .entryConvert => true
  | .entrySnap => true
  | .entryPublish => true
  | .entryFence => true
  | .entryWait => true
  | .entryPrefetch => true
  | .allgather => true
  | .redscat => true
  | .alltoall => true
  | .entryBarrier => true
  | .collectiveStart => true
  | .entryEnd => true
  | .dawnSwap => true
  | .snapHold => true
  | .snapRelease => true
  | .splitSwitch => true
  | .remapReplay => true
  | .duskExpiry => true
  | .gangSwitch => true
  | .resumeAtT => true
  | .powerGate => true
  | .coreWake => true
  | .clockThrottle => true
  | .linkRetrain => true
  | .linkReturn => true
  | .linkDown => true
  | .cxlMemRead => true
  | .cxlMemWrite => true
  | .hostSnoop => true
  | .rdmaWrite => true
  | .peerLoad => true
  | .extensionCommand => true

end Sys2Proof
end

