-- ==== Sys2Proof/Decode.lean ====
section
/-!
DEFINITION. Decoding and encoding: the bit layouts of R46 and R47, the code spaces of R49 and R50, the opcode maps of
R67 to R72, the checks of R48 in their order, and the firmware ring entry of R403.
-/
namespace Sys2Proof

/-- Why a word is refused, in the order of R48, or why no whole word stands at the end of the bytes. -/
inductive DecodeError where
  /-- check 1 of R48, cause 0x01 -/
  | illegalInstruction
  /-- check 2 of R48, cause 0x02 -/
  | illegalTransport
  /-- fewer bytes than the word has -/
  | truncated
deriving DecidableEq, Repr

/-- Operations of `ia` in op8 order (R67). -/
def IaOp.all : List IaOp :=
  [.add, .sub, .andOp, .orOp, .xor, .andn, .shl, .shr, .sar, .rol, .min, .max, .minn, .maxn, .slt, .sltn,
   .seq, .sne, .clz, .ffs, .pop, .bsw, .bxt, .sxt, .adds, .subs, .abs]

/-- Operations of `im` in op8 order (R67). -/
def ImOp.all : List ImOp :=
  [.mul, .mulh, .mulhn, .div, .divn, .rem, .remn]

/-- Operations of `fa` in op8 order (R67). -/
def FaOp.all : List FaOp :=
  [.fma, .fms, .fnma, .fadd, .fsub, .fmul, .fmin, .fmax, .fabs, .fneg, .fsgn, .fclt, .fcle, .fceq, .fcun,
   .frnd, .frto, .fcvi, .ficv, .fexa]

/-- Operations of `fd` in op8 order (R67). -/
def FdOp.all : List FdOp :=
  [.fdiv, .fsqrt]

/-- Operations of `sf` in op8 order (R67). -/
def SfOp.all : List SfOp :=
  [.sin, .cos, .exp2, .log2, .rcp, .rsqrt, .tanh, .sigm, .exd]

/-- Operations of `va` in op8 order (R68). -/
def VaOp.all : List VaOp :=
  [.mad, .add, .sub, .mul, .min, .max, .minn, .maxn, .andOp, .orOp, .xor, .shl, .shr, .sar, .abs, .neg,
   .clt, .cle, .ceq, .cltn, .cvt, .cvto, .whileOp, .clz, .ffs, .pop, .exp2, .rcp, .rsq, .sel, .iota, .dup]

/-- Operations of `vx` in op8 order (R69). -/
def VxOp.all : List VxOp :=
  [.perm, .rot, .shift, .zip, .unzip, .rsum, .rmax, .rmin, .scan, .amax, .cmpr, .expd, .nbr, .tkclr, .tk,
   .tkrd]

/-- Operations of `mx` in op8 order (R69). -/
def MxOp.all : List MxOp :=
  [.mmul, .rowld, .wld, .mvset, .mmv, .aread, .aclr, .mchk]

/-- Operations of `ls` in op8 order (R69). -/
def LsOp.all : List LsOp :=
  [.ldt, .stt, .pin, .unpin, .pfr, .push, .pop, .bmode]

/-- Operations of `at` in op8 order (R69). -/
def AtOp.all : List AtOp :=
  [.aadd, .aand, .aor, .axor, .amin, .amax, .aminn, .amaxn, .axch, .acas, .afadd, .recon, .ldsib, .snap,
   .wslot, .wdrop]

/-- Operations of `ms` in op8 order (R69). -/
def MsOp.all : List MsOp :=
  [.send, .callat, .reply, .sendc, .dep, .coll, .grp, .launch, .mcast]

/-- Operations of `ce` in op8 order (R69). -/
def CeOp.all : List CeOp :=
  [.tail, .seq, .wseq, .pub, .halt]

/-- Operations of `tb` in op8 order (R69). -/
def TbOp.all : List TbOp :=
  [.tbind, .tfree, .tget, .tset]

/-- Operations of `sy` in op8 order (R69). -/
def SyOp.all : List SyOp :=
  [.rd, .wr]

/-- Vector types in code order (R68). -/
def VTy.all : List VTy := [.i8, .i16, .i32, .i64, .w16, .w32, .w64, .f8]

/-- Units in trigger-code order from 112 (R50). -/
def FUnit.all : List FUnit := [.ia, .im, .fa, .fd, .sf, .va, .vx, .mx, .ls, .at, .ms, .ce, .tb, .sy]

/-- Result ports in source-code order from 72 (R49). -/
def RPort.all : List RPort := [.ia, .im, .fa, .fd, .sf, .va, .vx, .vxq, .mx, .ls, .at, .ms, .ce, .tb, .sy]

/-- Special registers in source-code order from 96 (R49). -/
def Special.all : List Special :=
  [.cid, .wid, .gp, .gs, .vw, .bc, .fst, .sib, .bell, .cyc, .lc0, .lc1, .lc2, .mp, .pst, .oid]

/-- Operand latches with their destination codes (R50). -/
def Latch.table : List (Latch × Nat) :=
  [(.iaA, 72), (.imA, 74), (.faA, 76), (.faB, 77), (.fdA, 79), (.sfA, 81), (.vaA, 82), (.vaB, 83), (.vxA, 85),
   (.vxB, 86), (.mxA, 87), (.mxB, 88), (.mxC, 89), (.lsA, 90), (.lsB, 91), (.lsC, 92), (.atA, 93), (.atB, 94),
   (.atC, 95), (.msA, 96), (.msB, 97), (.msC, 98), (.ceA, 100), (.ceB, 101), (.tbA, 102), (.tbB, 103), (.syA, 104),
   (.syB, 105)]

/-- The destination code of an operand latch. -/
def Latch.code (l : Latch) : Nat := ((Latch.table.find? (fun e => e.1 = l)).map Prod.snd).getD 0

/-- The operand latch with a destination code. -/
def Latch.ofCode (c : Nat) : Option Latch := (Latch.table.find? (fun e => e.2 = c)).map Prod.fst

/-- The op8 value of an operation (R67, R68, R69). -/
def UOp.code : UOp → BitVec 8
  | .ia o => BitVec.ofNat 8 (IaOp.all.idxOf o) | .im o => BitVec.ofNat 8 (ImOp.all.idxOf o)
  | .fa o => BitVec.ofNat 8 (FaOp.all.idxOf o) | .fd o => BitVec.ofNat 8 (FdOp.all.idxOf o)
  | .sf o => BitVec.ofNat 8 (SfOp.all.idxOf o) | .va o t => BitVec.ofNat 8 (VTy.all.idxOf t * 32 + VaOp.all.idxOf o)
  | .vx o => BitVec.ofNat 8 (VxOp.all.idxOf o) | .mx o => BitVec.ofNat 8 (MxOp.all.idxOf o)
  | .ls o => BitVec.ofNat 8 (LsOp.all.idxOf o) | .at o => BitVec.ofNat 8 (AtOp.all.idxOf o)
  | .ms o => BitVec.ofNat 8 (MsOp.all.idxOf o) | .ce o => BitVec.ofNat 8 (CeOp.all.idxOf o)
  | .tb o => BitVec.ofNat 8 (TbOp.all.idxOf o) | .sy o => BitVec.ofNat 8 (SyOp.all.idxOf o)

/-- The operation of a unit with an op8 value, if one is assigned (R67, R68, R69). -/
def UOp.ofCode (u : FUnit) (c : BitVec 8) : Option UOp :=
  let n := c.toNat
  match u with
  | .ia => (IaOp.all[n]?).map .ia | .im => (ImOp.all[n]?).map .im | .fa => (FaOp.all[n]?).map .fa
  | .fd => (FdOp.all[n]?).map .fd | .sf => (SfOp.all[n]?).map .sf
  | .va => (VaOp.all[n % 32]?).bind fun o => (VTy.all[n / 32]?).bind fun t => if o.hasTy t then some (.va o t) else none
  | .vx => (VxOp.all[n]?).map .vx | .mx => (MxOp.all[n]?).map .mx | .ls => (LsOp.all[n]?).map .ls
  | .at => (AtOp.all[n]?).map .at | .ms => (MsOp.all[n]?).map .ms | .ce => (CeOp.all[n]?).map .ce
  | .tb => (TbOp.all[n]?).map .tb | .sy => (SyOp.all[n]?).map .sy

/-- The trigger code of a unit (R50). -/
def FUnit.trigCode (u : FUnit) : BitVec 7 := BitVec.ofNat 7 (112 + FUnit.all.idxOf u)

/-- The source code of a source (R49). -/
def Src.code : Src → BitVec 7
  | .x r => BitVec.ofNat 7 r.val
  | .f r => BitVec.ofNat 7 (32 + r.val)
  | .v r => BitVec.ofNat 7 (48 + r.val)
  | .g r => BitVec.ofNat 7 (64 + r.val)
  | .port p => BitVec.ofNat 7 (72 + RPort.all.idxOf p)
  | .special p => BitVec.ofNat 7 (96 + Special.all.idxOf p)
  | .const c => BitVec.ofNat 7 (112 + c.val)

/-- The source with a source code; codes 87..95 are reserved (R49). -/
def Src.ofCode (c : BitVec 7) : Option Src :=
  let n := c.toNat
  if n < 32 then some (.x (Fin.ofNat 32 n))
  else if n < 48 then some (.f (Fin.ofNat 16 (n - 32)))
  else if n < 64 then some (.v (Fin.ofNat 16 (n - 48)))
  else if n < 72 then some (.g (Fin.ofNat 8 (n - 64)))
  else if n < 87 then (RPort.all[n - 72]?).map .port
  else if n < 96 then none
  else if n < 112 then (Special.all[n - 96]?).map .special
  else some (.const (Fin.ofNat 16 (n - 112)))

/-- The destination code of a destination (R50). -/
def Dst.code : Dst → BitVec 7
  | .x r => BitVec.ofNat 7 r.val
  | .f r => BitVec.ofNat 7 (32 + r.val)
  | .v r => BitVec.ofNat 7 (48 + r.val)
  | .g r => BitVec.ofNat 7 (64 + r.val)
  | .latch l => BitVec.ofNat 7 l.code
  | .trig o => o.unit.trigCode

/-- The register or operand latch with a destination code below 112; the others are reserved (R50). -/
def Dst.ofCode (c : BitVec 7) : Option Dst :=
  let n := c.toNat
  if n < 32 then some (.x (Fin.ofNat 32 n))
  else if n < 48 then some (.f (Fin.ofNat 16 (n - 32)))
  else if n < 64 then some (.v (Fin.ofNat 16 (n - 48)))
  else if n < 72 then some (.g (Fin.ofNat 8 (n - 64)))
  else (Latch.ofCode n).map .latch

/-- The unit whose trigger port has this destination code (R50). -/
def FUnit.ofTrig (c : BitVec 7) : Option FUnit := if 112 ≤ c.toNat then FUnit.all[c.toNat - 112]? else none

/-- The guard field (R65). -/
def Guard.code (g : Guard) : BitVec 4 := BitVec.ofNat 4 ((if g.neg then 8 else 0) + g.sel.val)

/-- The guard with a guard field. -/
def Guard.ofCode (c : BitVec 4) : Guard := ⟨c.getLsbD 3, Fin.ofNat 8 (c.toNat % 8)⟩

/-- The `to` word on a trigger port, as the row of the opcode table that the operation has. -/
def Instr.ofUnit (o : UOp) (s : Src) (g : Guard) (w m : Bool) : Instr :=
  match o with
  | .ia .add => .iaAdd s g w m
  | .ia .sub => .iaSub s g w m
  | .ia .andOp => .iaAnd s g m
  | .ia .orOp => .iaOr s g m
  | .ia .xor => .iaXor s g m
  | .ia .andn => .iaAndn s g m
  | .ia .shl => .iaShl s g w m
  | .ia .shr => .iaShr s g w m
  | .ia .sar => .iaSar s g w m
  | .ia .rol => .iaRol s g w m
  | .ia .min => .iaMin s g w m
  | .ia .max => .iaMax s g w m
  | .ia .minn => .iaMinn s g w m
  | .ia .maxn => .iaMaxn s g w m
  | .ia .slt => .iaSlt s g w m
  | .ia .sltn => .iaSltn s g w m
  | .ia .seq => .iaSeq s g w m
  | .ia .sne => .iaSne s g w m
  | .ia .clz => .iaClz s g w m
  | .ia .ffs => .iaFfs s g w m
  | .ia .pop => .iaPop s g w m
  | .ia .bsw => .iaBsw s g m
  | .ia .bxt => .iaBxt s g m
  | .ia .sxt => .iaSxt s g m
  | .ia .adds => .iaAdds s g w m
  | .ia .subs => .iaSubs s g w m
  | .ia .abs => .iaAbs s g w m
  | .im .mul => .imMul s g w m
  | .im .mulh => .imMulh s g w m
  | .im .mulhn => .imMulhn s g w m
  | .im .div => .imDiv s g w m
  | .im .divn => .imDivn s g w m
  | .im .rem => .imRem s g w m
  | .im .remn => .imRemn s g w m
  | .fa .fma => .faFma s g m
  | .fa .fms => .faFms s g m
  | .fa .fnma => .faFnma s g m
  | .fa .fadd => .faFadd s g m
  | .fa .fsub => .faFsub s g m
  | .fa .fmul => .faFmul s g m
  | .fa .fmin => .faFmin s g m
  | .fa .fmax => .faFmax s g m
  | .fa .fabs => .faFabs s g m
  | .fa .fneg => .faFneg s g m
  | .fa .fsgn => .faFsgn s g m
  | .fa .fclt => .faFclt s g m
  | .fa .fcle => .faFcle s g m
  | .fa .fceq => .faFceq s g m
  | .fa .fcun => .faFcun s g m
  | .fa .frnd => .faFrnd s g m
  | .fa .frto => .faFrto s g m
  | .fa .fcvi => .faFcvi s g m
  | .fa .ficv => .faFicv s g m
  | .fa .fexa => .faFexa s g m
  | .fd .fdiv => .fdFdiv s g m
  | .fd .fsqrt => .fdFsqrt s g m
  | .sf .sin => .sfSin s g m
  | .sf .cos => .sfCos s g m
  | .sf .exp2 => .sfExp2 s g m
  | .sf .log2 => .sfLog2 s g m
  | .sf .rcp => .sfRcp s g m
  | .sf .rsqrt => .sfRsqrt s g m
  | .sf .tanh => .sfTanh s g m
  | .sf .sigm => .sfSigm s g m
  | .sf .exd => .sfExd s g m
  | .va .mad t => .vaMad s t g m
  | .va .add t => .vaAdd s t g m
  | .va .sub t => .vaSub s t g m
  | .va .mul t => .vaMul s t g m
  | .va .min t => .vaMin s t g m
  | .va .max t => .vaMax s t g m
  | .va .minn t => .vaMinn s t g m
  | .va .maxn t => .vaMaxn s t g m
  | .va .andOp t => .vaAnd s t g m
  | .va .orOp t => .vaOr s t g m
  | .va .xor t => .vaXor s t g m
  | .va .shl t => .vaShl s t g m
  | .va .shr t => .vaShr s t g m
  | .va .sar t => .vaSar s t g m
  | .va .abs t => .vaAbs s t g m
  | .va .neg t => .vaNeg s t g m
  | .va .clt t => .vaClt s t g m
  | .va .cle t => .vaCle s t g m
  | .va .ceq t => .vaCeq s t g m
  | .va .cltn t => .vaCltn s t g m
  | .va .cvt t => .vaCvt s t g m
  | .va .cvto t => .vaCvto s t g m
  | .va .whileOp t => .vaWhile s t g m
  | .va .clz t => .vaClz s t g m
  | .va .ffs t => .vaFfs s t g m
  | .va .pop t => .vaPop s t g m
  | .va .exp2 t => .vaExp2 s t g m
  | .va .rcp t => .vaRcp s t g m
  | .va .rsq t => .vaRsq s t g m
  | .va .sel t => .vaSel s t g m
  | .va .iota t => .vaIota s t g m
  | .va .dup t => .vaDup s t g m
  | .vx .perm => .vxPerm s g m
  | .vx .rot => .vxRot s g m
  | .vx .shift => .vxShift s g m
  | .vx .zip => .vxZip s g m
  | .vx .unzip => .vxUnzip s g m
  | .vx .rsum => .vxRsum s g m
  | .vx .rmax => .vxRmax s g m
  | .vx .rmin => .vxRmin s g m
  | .vx .scan => .vxScan s g m
  | .vx .amax => .vxAmax s g m
  | .vx .cmpr => .vxCmpr s g m
  | .vx .expd => .vxExpd s g m
  | .vx .nbr => .vxNbr s g m
  | .vx .tkclr => .vxTkclr s g m
  | .vx .tk => .vxTk s g m
  | .vx .tkrd => .vxTkrd s g m
  | .mx .mmul => .mxMmul s g m
  | .mx .rowld => .mxRowld s g m
  | .mx .wld => .mxWld s g m
  | .mx .mvset => .mxMvset s g m
  | .mx .mmv => .mxMmv s g m
  | .mx .aread => .mxAread s g m
  | .mx .aclr => .mxAclr s g m
  | .mx .mchk => .mxMchk s g m
  | .ls .ldt => .lsLdt s g m
  | .ls .stt => .lsStt s g m
  | .ls .pin => .lsPin s g m
  | .ls .unpin => .lsUnpin s g m
  | .ls .pfr => .lsPfr s g m
  | .ls .push => .lsPush s g m
  | .ls .pop => .lsPop s g m
  | .ls .bmode => .lsBmode s g m
  | .at .aadd => .atAadd s g m
  | .at .aand => .atAand s g m
  | .at .aor => .atAor s g m
  | .at .axor => .atAxor s g m
  | .at .amin => .atAmin s g m
  | .at .amax => .atAmax s g m
  | .at .aminn => .atAminn s g m
  | .at .amaxn => .atAmaxn s g m
  | .at .axch => .atAxch s g m
  | .at .acas => .atAcas s g m
  | .at .afadd => .atAfadd s g m
  | .at .recon => .atRecon s g m
  | .at .ldsib => .atLdsib s g m
  | .at .snap => .atSnap s g m
  | .at .wslot => .atWslot s g m
  | .at .wdrop => .atWdrop s g m
  | .ms .send => .msSend s g m
  | .ms .callat => .msCallat s g m
  | .ms .reply => .msReply s g m
  | .ms .sendc => .msSendc s g m
  | .ms .dep => .msDep s g m
  | .ms .coll => .msColl s g m
  | .ms .grp => .msGrp s g m
  | .ms .launch => .msLaunch s g m
  | .ms .mcast => .msMcast s g m
  | .ce .tail => .ceTail s g m
  | .ce .seq => .ceSeq s g m
  | .ce .wseq => .ceWseq s g m
  | .ce .pub => .cePub s g m
  | .ce .halt => .ceHalt s g m
  | .tb .tbind => .tbTbind s g m
  | .tb .tfree => .tbTfree s g m
  | .tb .tget => .tbTget s g m
  | .tb .tset => .tbTset s g m
  | .sy .rd => .syRd s g m
  | .sy .wr => .syWr s g m

/-- Whether an operation has a 32-bit form (R67). -/
def UOp.hasW : UOp → Bool
  | .ia o => match o with
    | .andOp | .orOp | .xor | .andn | .bsw | .bxt | .sxt => false
    | _ => true
  | .im _ => true
  | _ => false

/-- Bits `lo` to `lo + n - 1` of a word. -/
abbrev fld {k : Nat} (w : BitVec k) (lo n : Nat) : BitVec n := BitVec.extractLsb' lo n w

/-- One bit of a word. -/
abbrev bit {k : Nat} (w : BitVec k) (n : Nat) : Bool := w.getLsbD n

/-- A register field. -/
abbrev xfld {k : Nat} (w : BitVec k) (lo : Nat) : XReg := (fld w lo 5).toFin

/-- A 16-bit word; every op4 value is assigned (R46). -/
def decode16 (h : BitVec 16) : Instr :=
  let d := xfld h 7
  let s := xfld h 2
  let m := bit h 1
  match (fld h 12 4).toNat with
  | 0 => .cCp d s m
  | 1 => .cAdd d s m
  | 2 => .cSub d s m
  | 3 => .cAnd d s m
  | 4 => .cOr d s m
  | 5 => .cXor d s m
  | 6 => .cShl d s m
  | 7 => .cShr d s m
  | 8 => .cSar d s m
  | 9 => .cMul d s m
  | 10 => .cMin d s m
  | 11 => .cMax d s m
  | 12 => .cMinn d s m
  | 13 => .cMaxn d s m
  | 14 => .cAndn d s m
  | _ => .cAddi d (fld h 2 5) m

/-- Format 0, `to` (R47, R48, R55). -/
def decodeTo (w : BitVec 32) : Except DecodeError Instr :=
  let s7 := fld w 25 7
  let d7 := fld w 18 7
  let op := fld w 10 8
  let g := Guard.ofCode (fld w 6 4)
  let wf := bit w 5
  let m := bit w 1
  match FUnit.ofTrig d7 with
  | some u =>
    match UOp.ofCode u op with
    | none => .error .illegalInstruction
    | some o =>
      if !g.ok || (wf && !o.hasW) then .error .illegalInstruction
      else match Src.ofCode s7 with
        | none => .error .illegalTransport
        | some s => if converts s (.trig o) then .ok (.ofUnit o s g wf m) else .error .illegalTransport
  | none =>
    if !g.ok || (wf && decide (d7.toNat < 112)) then .error .illegalInstruction
    else match Src.ofCode s7, Dst.ofCode d7 with
      | some s, some d => if op = 0 ∧ converts s d then .ok (.toWord s d g m) else .error .illegalTransport
      | _, _ => .error .illegalTransport

/-- A T2 destination: z × 64 + d, a trigger port firing op 0 (R47, R50). -/
def t2Dst (c : BitVec 7) : Option Dst :=
  match FUnit.ofTrig c with
  | some u => some (.trig u.op0)
  | none => Dst.ofCode c

/-- Format 1, `t2` (R47, R48). -/
def decodeT2 (w : BitVec 32) : Except DecodeError Instr :=
  let z := fld w 5 1
  match Src.ofCode (fld w 25 7), t2Dst (z ++ fld w 19 6), Src.ofCode (fld w 12 7), t2Dst (z ++ fld w 6 6) with
  | some s, some d, some a, some b => if t2Ok s d a b then .ok (.t2 s d a b (bit w 1)) else .error .illegalTransport
  | _, _, _, _ => .error .illegalTransport

/-- Format 2, `ti` (R47, R48). -/
def decodeTi (w : BitVec 32) : Except DecodeError Instr :=
  let d7 := fld w 25 7
  let op := fld w 17 8
  match FUnit.ofTrig d7 with
  | some u =>
    match UOp.ofCode u op with
    | none => .error .illegalInstruction
    | some o => .ok (.ti (.trig o) (fld w 5 12) (bit w 1))
  | none =>
    match Dst.ofCode d7 with
    | some d => if op = 0 then .ok (.ti d (fld w 5 12) (bit w 1)) else .error .illegalTransport
    | none => .error .illegalTransport

/-- Format 3, `li` and `lh` (R47). -/
def decodeLi (w : BitVec 32) : Instr :=
  if bit w 26 then .lh (xfld w 27) (fld w 5 21) (bit w 1) else .li (xfld w 27) (fld w 5 21) (bit w 1)

/-- An even x register pair field (R70). -/
def pairFld (r : BitVec 5) : Option (Fin 16) := if r.getLsbD 0 then none else some (Fin.ofNat 16 (r.toNat / 2))

/-- A v or f register field, whose top bit must be 0 (R70). -/
def lowFld (r : BitVec 5) : Option (Fin 16) := if r.getLsbD 4 then none else some (Fin.ofNat 16 r.toNat)

/-- Format 4, loads and stores (R47, R70). -/
def decodeMem (w : BitVec 32) : Except DecodeError Instr :=
  let r5 := fld w 22 5
  let r := xfld w 22
  let b := xfld w 17
  let i := fld w 5 12
  let m := bit w 1
  let low (k : Fin 16 → Instr) : Except DecodeError Instr :=
    match lowFld r5 with
    | some v => .ok (k v)
    | none => .error .illegalInstruction
  let pair (k : Fin 16 → Instr) : Except DecodeError Instr :=
    match pairFld r5 with
    | some v => .ok (k v)
    | none => .error .illegalInstruction
  match (fld w 27 5).toNat with
  | 0 => .ok (.ldb r b i m)
  | 1 => .ok (.ldh r b i m)
  | 2 => .ok (.ldw r b i m)
  | 3 => .ok (.ldd r b i m)
  | 4 => .ok (.ldbz r b i m)
  | 5 => .ok (.ldhz r b i m)
  | 6 => .ok (.ldwz r b i m)
  | 7 => pair (fun q => .ldq q b i m)
  | 8 => low (fun q => .ldv q b i m)
  | 9 => low (fun q => .ldf q b i m)
  | 10 => .ok (.ldacq r b i m)
  | 11 => .ok (.ldk r b i m)
  | 12 => .ok (.ldro r b i m)
  | 13 => low (fun q => .ldkv q b i m)
  | 16 => .ok (.stb r b i m)
  | 17 => .ok (.sth r b i m)
  | 18 => .ok (.stw r b i m)
  | 19 => .ok (.std r b i m)
  | 20 => pair (fun q => .stq q b i m)
  | 21 => low (fun q => .stv q b i m)
  | 22 => low (fun q => .stf q b i m)
  | 23 => .ok (.strel r b i m)
  | 24 => .ok (.stnt r b i m)
  | 25 => low (fun q => .stvnt q b i m)
  | _ => .error .illegalInstruction

/-- Format 5, branches (R47, R71). -/
def decodeBr (w : BitVec 32) : Except DecodeError Instr :=
  let g := Guard.ofCode (fld w 24 4)
  let m := bit w 1
  if !g.ok then .error .illegalInstruction
  else match (fld w 28 4).toNat with
  | 0 => .ok (.b g (fld w 5 19) m)
  | 1 => .ok (.bl g (fld w 5 19) m)
  | 2 => if bit w 23 = false ∧ fld w 5 5 = 0 then .ok (.loop g (fld w 15 8) (xfld w 10) m) else .error .illegalInstruction
  | 3 => if fld w 10 14 = 0 then .ok (.jr g (xfld w 5) m) else .error .illegalInstruction
  | 4 => if fld w 10 14 = 0 then .ok (.jlr g (xfld w 5) m) else .error .illegalInstruction
  | _ => .error .illegalInstruction

/-- Format 6, system words (R47, R72): the fields listed as "must be 0" are checked. -/
def decodeSys (w : BitVec 32) : Except DecodeError Instr :=
  let a := xfld w 19
  let b := xfld w 14
  let n := fld w 5 9
  let m := bit w 1
  let a0 := fld w 19 5 = 0
  let b0 := fld w 14 5 = 0
  let when (p : Bool) (i : Instr) : Except DecodeError Instr := if p then .ok i else .error .illegalInstruction
  match (fld w 24 8).toNat with
  | 0x00 => when (decide a0 && decide b0 && decide ((fld w 11 3).toNat < 4) && decide (fld w 8 3 = 0) &&
      decide ((fld w 5 3).toNat < 7)) (.fence (fld w 11 3) (fld w 5 3) m)
  | 0x01 => when b0 (.pause a n m)
  | 0x02 => when (decide a0 && decide b0 && decide (n = 0)) (.isync m)
  | 0x03 => when (decide a0 && decide b0 && decide (n = 0)) (.roinv m)
  | 0x04 => when b0 (.csrr a n m)
  | 0x05 => when b0 (.csrw a n m)
  | 0x06 => when b0 (.bcs a n m)
  | 0x07 => when (decide a0 && decide b0 && decide (fld w 8 6 = 0) && decide ((fld w 5 3).toNat < 5)) (.rms (fld w 5 3) m)
  | 0x08 => when (decide a0 && decide b0 && decide (fld w 7 7 = 0)) (.wnd (fld w 5 2) m)
  | 0x09 => when (decide a0 && decide b0 && decide (n = 0)) (.wpop m)
  | 0x0A => when (decide a0 && decide b0 && decide (fld w 8 6 = 0) && decide ((fld w 5 3).toNat < 6)) (.glead (fld w 5 3) m)
  | 0x0B => when (decide a0 && decide b0 && decide (n = 0)) (.gfollow m)
  | 0x0C => when (decide a0 && decide b0 && decide (n = 0)) (.gend m)
  | 0x0D => when (decide a0 && decide b0 && decide (n = 0)) (.done m)
  | 0x0E => when (decide a0 && decide b0 && decide (n = 0)) (.reque m)
  | 0x0F => when (decide a0 && decide b0) (.trap n m)
  | 0x10 => when (decide a0 && decide b0 && decide (n = 0)) (.tret m)
  | 0x11 => when (n = 0) (.wb a b m)
  | 0x12 => when (decide a0 && decide b0 && decide (n = 0)) (.idle m)
  | 0x13 => when (decide b0 && decide (fld w 7 7 = 0)) (.cancel a (fld w 5 2) m)
  | _ => .error .illegalInstruction

/-- A 32-bit word, by its format code (R47); format 7 is reserved. -/
def decode32 (w : BitVec 32) : Except DecodeError Instr :=
  match (fld w 2 3).toNat with
  | 0 => decodeTo w
  | 1 => decodeT2 w
  | 2 => decodeTi w
  | 3 => .ok (decodeLi w)
  | 4 => decodeMem w
  | 5 => decodeBr w
  | 6 => decodeSys w
  | _ => .error .illegalInstruction

/-- The first word of a list of bytes: the instruction and its length in bytes, or why there is none (R44). -/
def decode : List Byte → Except DecodeError (Instr × Nat)
  | b0 :: b1 :: rest =>
    if b0.getLsbD 0 then
      match rest with
      | b2 :: b3 :: _ => (decode32 (b3 ++ b2 ++ b1 ++ b0)).map (fun i => (i, 4))
      | _ => .error .truncated
    else .ok (decode16 (b1 ++ b0), 2)
  | _ => .error .truncated

/-- The instruction of a table row: its bits as the table numbers them, stored as the hardware stores them. -/
def decodeTableWord (nbits w : Nat) : Option Instr :=
  let v := w % 2 ^ nbits
  match decode [BitVec.ofNat 8 v, BitVec.ofNat 8 (v / 2 ^ 8), BitVec.ofNat 8 (v / 2 ^ 16), BitVec.ofNat 8 (v / 2 ^ 24)] with
  | .ok (i, _) => some i
  | .error _ => none

/-! ## Encoding -/

/-- An encoded word of the instruction stream (R44). -/
inductive Enc where
  | half (h : BitVec 16)
  | word (w : BitVec 32)
deriving DecidableEq, Repr

/-- The bytes of an encoded word, lowest address first (R2, R44). -/
def Enc.bytes : Enc → List Byte
  | .half h => [fld h 0 8, fld h 8 8]
  | .word w => [fld w 0 8, fld w 8 8, fld w 16 8, fld w 24 8]

/-- One bit. -/
abbrev b1 (b : Bool) : BitVec 1 := BitVec.ofBool b

/-- A register number as a field. -/
abbrev rx (r : XReg) : BitVec 5 := BitVec.ofFin r

/-- The C2 layout (R46). -/
def encC (op : BitVec 4) (d s : BitVec 5) (m : Bool) : Enc := .half (op ++ d ++ s ++ b1 m ++ 0#1)

/-- The TO layout (R47). -/
def encTo (s d : BitVec 7) (op : BitVec 8) (g : Guard) (w m : Bool) : Enc :=
  .word (s ++ d ++ op ++ g.code ++ b1 w ++ 0#3 ++ b1 m ++ 1#1)

/-- A `to` word on a trigger port (R50). -/
def encUnit (o : UOp) (s : Src) (g : Guard) (w m : Bool) : Enc := encTo s.code o.unit.trigCode o.code g w m

/-- The MEM layout (R47). -/
def encMem (op r : BitVec 5) (b : XReg) (i : BitVec 12) (m : Bool) : Enc :=
  .word (op ++ r ++ rx b ++ i ++ 4#3 ++ b1 m ++ 1#1)

/-- The BR layout (R47). -/
def encBr (op : BitVec 4) (g : Guard) (o : BitVec 19) (m : Bool) : Enc :=
  .word (op ++ g.code ++ o ++ 5#3 ++ b1 m ++ 1#1)

/-- The SYS layout (R47). -/
def encSys (op : BitVec 8) (a b : BitVec 5) (n : BitVec 9) (m : Bool) : Enc :=
  .word (op ++ a ++ b ++ n ++ 6#3 ++ b1 m ++ 1#1)

/-- The op8 field of a TI word: the trigger operation's, else 0 (R55). -/
def Dst.op8 : Dst → BitVec 8
  | .trig o => o.code
  | _ => 0

/-- The T2 layout (R47): the two destinations share the bit z. -/
def encT2 (s : Src) (d : Dst) (a : Src) (b : Dst) (m : Bool) : Enc :=
  .word (s.code ++ fld d.code 0 6 ++ a.code ++ fld b.code 0 6 ++ b1 d.upper ++ 1#3 ++ b1 m ++ 1#1)

/-- The word of an instruction of the instruction stream; none for the rows that have no encoding. -/
def encode (i : Instr) : Option Enc :=
  match i with
  | .cCp d s m => some (encC 0 (rx d) (rx s) m)
  | .cAdd d s m => some (encC 1 (rx d) (rx s) m)
  | .cSub d s m => some (encC 2 (rx d) (rx s) m)
  | .cAnd d s m => some (encC 3 (rx d) (rx s) m)
  | .cOr d s m => some (encC 4 (rx d) (rx s) m)
  | .cXor d s m => some (encC 5 (rx d) (rx s) m)
  | .cShl d s m => some (encC 6 (rx d) (rx s) m)
  | .cShr d s m => some (encC 7 (rx d) (rx s) m)
  | .cSar d s m => some (encC 8 (rx d) (rx s) m)
  | .cMul d s m => some (encC 9 (rx d) (rx s) m)
  | .cMin d s m => some (encC 10 (rx d) (rx s) m)
  | .cMax d s m => some (encC 11 (rx d) (rx s) m)
  | .cMinn d s m => some (encC 12 (rx d) (rx s) m)
  | .cMaxn d s m => some (encC 13 (rx d) (rx s) m)
  | .cAndn d s m => some (encC 14 (rx d) (rx s) m)
  | .cAddi d i m => some (encC 15 (rx d) i m)
  | .toWord s d g m => some (encTo s.code d.code 0 g false m)
  | .t2 s d a b m => some (encT2 s d a b m)
  | .ti d i m => some (.word (d.code ++ d.op8 ++ i ++ 2#3 ++ b1 m ++ 1#1))
  | .li d i m => some (.word (rx d ++ 0#1 ++ i ++ 3#3 ++ b1 m ++ 1#1))
  | .lh d i m => some (.word (rx d ++ 1#1 ++ i ++ 3#3 ++ b1 m ++ 1#1))
  | .ldb r b i m => some (encMem 0 (rx r) b i m)
  | .ldh r b i m => some (encMem 1 (rx r) b i m)
  | .ldw r b i m => some (encMem 2 (rx r) b i m)
  | .ldd r b i m => some (encMem 3 (rx r) b i m)
  | .ldbz r b i m => some (encMem 4 (rx r) b i m)
  | .ldhz r b i m => some (encMem 5 (rx r) b i m)
  | .ldwz r b i m => some (encMem 6 (rx r) b i m)
  | .ldq r b i m => some (encMem 7 (BitVec.ofNat 5 (2 * r.val)) b i m)
  | .ldv r b i m => some (encMem 8 (BitVec.ofNat 5 r.val) b i m)
  | .ldf r b i m => some (encMem 9 (BitVec.ofNat 5 r.val) b i m)
  | .ldacq r b i m => some (encMem 10 (rx r) b i m)
  | .ldk r b i m => some (encMem 11 (rx r) b i m)
  | .ldro r b i m => some (encMem 12 (rx r) b i m)
  | .ldkv r b i m => some (encMem 13 (BitVec.ofNat 5 r.val) b i m)
  | .stb r b i m => some (encMem 16 (rx r) b i m)
  | .sth r b i m => some (encMem 17 (rx r) b i m)
  | .stw r b i m => some (encMem 18 (rx r) b i m)
  | .std r b i m => some (encMem 19 (rx r) b i m)
  | .stq r b i m => some (encMem 20 (BitVec.ofNat 5 (2 * r.val)) b i m)
  | .stv r b i m => some (encMem 21 (BitVec.ofNat 5 r.val) b i m)
  | .stf r b i m => some (encMem 22 (BitVec.ofNat 5 r.val) b i m)
  | .strel r b i m => some (encMem 23 (rx r) b i m)
  | .stnt r b i m => some (encMem 24 (rx r) b i m)
  | .stvnt r b i m => some (encMem 25 (BitVec.ofNat 5 r.val) b i m)
  | .b g o m => some (encBr 0 g o m)
  | .bl g o m => some (encBr 1 g o m)
  | .loop g l c m => some (encBr 2 g (0#1 ++ l ++ rx c ++ 0#5) m)
  | .jr g t m => some (encBr 3 g (0#14 ++ rx t) m)
  | .jlr g t m => some (encBr 4 g (0#14 ++ rx t) m)
  | .fence k p m => some (encSys 0x00 0 0 (k ++ 0#3 ++ p) m)
  | .pause a i m => some (encSys 0x01 (rx a) 0 i m)
  | .isync m => some (encSys 0x02 0 0 0 m)
  | .roinv m => some (encSys 0x03 0 0 0 m)
  | .csrr a n m => some (encSys 0x04 (rx a) 0 n m)
  | .csrw a n m => some (encSys 0x05 (rx a) 0 n m)
  | .bcs a i m => some (encSys 0x06 (rx a) 0 i m)
  | .rms o m => some (encSys 0x07 0 0 (0#6 ++ o) m)
  | .wnd p m => some (encSys 0x08 0 0 (0#7 ++ p) m)
  | .wpop m => some (encSys 0x09 0 0 0 m)
  | .glead c m => some (encSys 0x0a 0 0 (0#6 ++ c) m)
  | .gfollow m => some (encSys 0x0b 0 0 0 m)
  | .gend m => some (encSys 0x0c 0 0 0 m)
  | .done m => some (encSys 0x0d 0 0 0 m)
  | .reque m => some (encSys 0x0e 0 0 0 m)
  | .trap n m => some (encSys 0x0f 0 0 n m)
  | .tret m => some (encSys 0x10 0 0 0 m)
  | .wb a b m => some (encSys 0x11 (rx a) (rx b) 0 m)
  | .idle m => some (encSys 0x12 0 0 0 m)
  | .cancel a l m => some (encSys 0x13 (rx a) 0 (0#7 ++ l) m)
  | .iaAdd s g w m => some (encUnit (.ia .add) s g w m)
  | .iaSub s g w m => some (encUnit (.ia .sub) s g w m)
  | .iaAnd s g m => some (encUnit (.ia .andOp) s g false m)
  | .iaOr s g m => some (encUnit (.ia .orOp) s g false m)
  | .iaXor s g m => some (encUnit (.ia .xor) s g false m)
  | .iaAndn s g m => some (encUnit (.ia .andn) s g false m)
  | .iaShl s g w m => some (encUnit (.ia .shl) s g w m)
  | .iaShr s g w m => some (encUnit (.ia .shr) s g w m)
  | .iaSar s g w m => some (encUnit (.ia .sar) s g w m)
  | .iaRol s g w m => some (encUnit (.ia .rol) s g w m)
  | .iaMin s g w m => some (encUnit (.ia .min) s g w m)
  | .iaMax s g w m => some (encUnit (.ia .max) s g w m)
  | .iaMinn s g w m => some (encUnit (.ia .minn) s g w m)
  | .iaMaxn s g w m => some (encUnit (.ia .maxn) s g w m)
  | .iaSlt s g w m => some (encUnit (.ia .slt) s g w m)
  | .iaSltn s g w m => some (encUnit (.ia .sltn) s g w m)
  | .iaSeq s g w m => some (encUnit (.ia .seq) s g w m)
  | .iaSne s g w m => some (encUnit (.ia .sne) s g w m)
  | .iaClz s g w m => some (encUnit (.ia .clz) s g w m)
  | .iaFfs s g w m => some (encUnit (.ia .ffs) s g w m)
  | .iaPop s g w m => some (encUnit (.ia .pop) s g w m)
  | .iaBsw s g m => some (encUnit (.ia .bsw) s g false m)
  | .iaBxt s g m => some (encUnit (.ia .bxt) s g false m)
  | .iaSxt s g m => some (encUnit (.ia .sxt) s g false m)
  | .iaAdds s g w m => some (encUnit (.ia .adds) s g w m)
  | .iaSubs s g w m => some (encUnit (.ia .subs) s g w m)
  | .iaAbs s g w m => some (encUnit (.ia .abs) s g w m)
  | .imMul s g w m => some (encUnit (.im .mul) s g w m)
  | .imMulh s g w m => some (encUnit (.im .mulh) s g w m)
  | .imMulhn s g w m => some (encUnit (.im .mulhn) s g w m)
  | .imDiv s g w m => some (encUnit (.im .div) s g w m)
  | .imDivn s g w m => some (encUnit (.im .divn) s g w m)
  | .imRem s g w m => some (encUnit (.im .rem) s g w m)
  | .imRemn s g w m => some (encUnit (.im .remn) s g w m)
  | .faFma s g m => some (encUnit (.fa .fma) s g false m)
  | .faFms s g m => some (encUnit (.fa .fms) s g false m)
  | .faFnma s g m => some (encUnit (.fa .fnma) s g false m)
  | .faFadd s g m => some (encUnit (.fa .fadd) s g false m)
  | .faFsub s g m => some (encUnit (.fa .fsub) s g false m)
  | .faFmul s g m => some (encUnit (.fa .fmul) s g false m)
  | .faFmin s g m => some (encUnit (.fa .fmin) s g false m)
  | .faFmax s g m => some (encUnit (.fa .fmax) s g false m)
  | .faFabs s g m => some (encUnit (.fa .fabs) s g false m)
  | .faFneg s g m => some (encUnit (.fa .fneg) s g false m)
  | .faFsgn s g m => some (encUnit (.fa .fsgn) s g false m)
  | .faFclt s g m => some (encUnit (.fa .fclt) s g false m)
  | .faFcle s g m => some (encUnit (.fa .fcle) s g false m)
  | .faFceq s g m => some (encUnit (.fa .fceq) s g false m)
  | .faFcun s g m => some (encUnit (.fa .fcun) s g false m)
  | .faFrnd s g m => some (encUnit (.fa .frnd) s g false m)
  | .faFrto s g m => some (encUnit (.fa .frto) s g false m)
  | .faFcvi s g m => some (encUnit (.fa .fcvi) s g false m)
  | .faFicv s g m => some (encUnit (.fa .ficv) s g false m)
  | .faFexa s g m => some (encUnit (.fa .fexa) s g false m)
  | .fdFdiv s g m => some (encUnit (.fd .fdiv) s g false m)
  | .fdFsqrt s g m => some (encUnit (.fd .fsqrt) s g false m)
  | .sfSin s g m => some (encUnit (.sf .sin) s g false m)
  | .sfCos s g m => some (encUnit (.sf .cos) s g false m)
  | .sfExp2 s g m => some (encUnit (.sf .exp2) s g false m)
  | .sfLog2 s g m => some (encUnit (.sf .log2) s g false m)
  | .sfRcp s g m => some (encUnit (.sf .rcp) s g false m)
  | .sfRsqrt s g m => some (encUnit (.sf .rsqrt) s g false m)
  | .sfTanh s g m => some (encUnit (.sf .tanh) s g false m)
  | .sfSigm s g m => some (encUnit (.sf .sigm) s g false m)
  | .sfExd s g m => some (encUnit (.sf .exd) s g false m)
  | .vaMad s t g m => some (encUnit (.va .mad t) s g false m)
  | .vaAdd s t g m => some (encUnit (.va .add t) s g false m)
  | .vaSub s t g m => some (encUnit (.va .sub t) s g false m)
  | .vaMul s t g m => some (encUnit (.va .mul t) s g false m)
  | .vaMin s t g m => some (encUnit (.va .min t) s g false m)
  | .vaMax s t g m => some (encUnit (.va .max t) s g false m)
  | .vaMinn s t g m => some (encUnit (.va .minn t) s g false m)
  | .vaMaxn s t g m => some (encUnit (.va .maxn t) s g false m)
  | .vaAnd s t g m => some (encUnit (.va .andOp t) s g false m)
  | .vaOr s t g m => some (encUnit (.va .orOp t) s g false m)
  | .vaXor s t g m => some (encUnit (.va .xor t) s g false m)
  | .vaShl s t g m => some (encUnit (.va .shl t) s g false m)
  | .vaShr s t g m => some (encUnit (.va .shr t) s g false m)
  | .vaSar s t g m => some (encUnit (.va .sar t) s g false m)
  | .vaAbs s t g m => some (encUnit (.va .abs t) s g false m)
  | .vaNeg s t g m => some (encUnit (.va .neg t) s g false m)
  | .vaClt s t g m => some (encUnit (.va .clt t) s g false m)
  | .vaCle s t g m => some (encUnit (.va .cle t) s g false m)
  | .vaCeq s t g m => some (encUnit (.va .ceq t) s g false m)
  | .vaCltn s t g m => some (encUnit (.va .cltn t) s g false m)
  | .vaCvt s t g m => some (encUnit (.va .cvt t) s g false m)
  | .vaCvto s t g m => some (encUnit (.va .cvto t) s g false m)
  | .vaWhile s t g m => some (encUnit (.va .whileOp t) s g false m)
  | .vaClz s t g m => some (encUnit (.va .clz t) s g false m)
  | .vaFfs s t g m => some (encUnit (.va .ffs t) s g false m)
  | .vaPop s t g m => some (encUnit (.va .pop t) s g false m)
  | .vaExp2 s t g m => some (encUnit (.va .exp2 t) s g false m)
  | .vaRcp s t g m => some (encUnit (.va .rcp t) s g false m)
  | .vaRsq s t g m => some (encUnit (.va .rsq t) s g false m)
  | .vaSel s t g m => some (encUnit (.va .sel t) s g false m)
  | .vaIota s t g m => some (encUnit (.va .iota t) s g false m)
  | .vaDup s t g m => some (encUnit (.va .dup t) s g false m)
  | .vxPerm s g m => some (encUnit (.vx .perm) s g false m)
  | .vxRot s g m => some (encUnit (.vx .rot) s g false m)
  | .vxShift s g m => some (encUnit (.vx .shift) s g false m)
  | .vxZip s g m => some (encUnit (.vx .zip) s g false m)
  | .vxUnzip s g m => some (encUnit (.vx .unzip) s g false m)
  | .vxRsum s g m => some (encUnit (.vx .rsum) s g false m)
  | .vxRmax s g m => some (encUnit (.vx .rmax) s g false m)
  | .vxRmin s g m => some (encUnit (.vx .rmin) s g false m)
  | .vxScan s g m => some (encUnit (.vx .scan) s g false m)
  | .vxAmax s g m => some (encUnit (.vx .amax) s g false m)
  | .vxCmpr s g m => some (encUnit (.vx .cmpr) s g false m)
  | .vxExpd s g m => some (encUnit (.vx .expd) s g false m)
  | .vxNbr s g m => some (encUnit (.vx .nbr) s g false m)
  | .vxTkclr s g m => some (encUnit (.vx .tkclr) s g false m)
  | .vxTk s g m => some (encUnit (.vx .tk) s g false m)
  | .vxTkrd s g m => some (encUnit (.vx .tkrd) s g false m)
  | .mxMmul s g m => some (encUnit (.mx .mmul) s g false m)
  | .mxRowld s g m => some (encUnit (.mx .rowld) s g false m)
  | .mxWld s g m => some (encUnit (.mx .wld) s g false m)
  | .mxMvset s g m => some (encUnit (.mx .mvset) s g false m)
  | .mxMmv s g m => some (encUnit (.mx .mmv) s g false m)
  | .mxAread s g m => some (encUnit (.mx .aread) s g false m)
  | .mxAclr s g m => some (encUnit (.mx .aclr) s g false m)
  | .mxMchk s g m => some (encUnit (.mx .mchk) s g false m)
  | .lsLdt s g m => some (encUnit (.ls .ldt) s g false m)
  | .lsStt s g m => some (encUnit (.ls .stt) s g false m)
  | .lsPin s g m => some (encUnit (.ls .pin) s g false m)
  | .lsUnpin s g m => some (encUnit (.ls .unpin) s g false m)
  | .lsPfr s g m => some (encUnit (.ls .pfr) s g false m)
  | .lsPush s g m => some (encUnit (.ls .push) s g false m)
  | .lsPop s g m => some (encUnit (.ls .pop) s g false m)
  | .lsBmode s g m => some (encUnit (.ls .bmode) s g false m)
  | .atAadd s g m => some (encUnit (.at .aadd) s g false m)
  | .atAand s g m => some (encUnit (.at .aand) s g false m)
  | .atAor s g m => some (encUnit (.at .aor) s g false m)
  | .atAxor s g m => some (encUnit (.at .axor) s g false m)
  | .atAmin s g m => some (encUnit (.at .amin) s g false m)
  | .atAmax s g m => some (encUnit (.at .amax) s g false m)
  | .atAminn s g m => some (encUnit (.at .aminn) s g false m)
  | .atAmaxn s g m => some (encUnit (.at .amaxn) s g false m)
  | .atAxch s g m => some (encUnit (.at .axch) s g false m)
  | .atAcas s g m => some (encUnit (.at .acas) s g false m)
  | .atAfadd s g m => some (encUnit (.at .afadd) s g false m)
  | .atRecon s g m => some (encUnit (.at .recon) s g false m)
  | .atLdsib s g m => some (encUnit (.at .ldsib) s g false m)
  | .atSnap s g m => some (encUnit (.at .snap) s g false m)
  | .atWslot s g m => some (encUnit (.at .wslot) s g false m)
  | .atWdrop s g m => some (encUnit (.at .wdrop) s g false m)
  | .msSend s g m => some (encUnit (.ms .send) s g false m)
  | .msCallat s g m => some (encUnit (.ms .callat) s g false m)
  | .msReply s g m => some (encUnit (.ms .reply) s g false m)
  | .msSendc s g m => some (encUnit (.ms .sendc) s g false m)
  | .msDep s g m => some (encUnit (.ms .dep) s g false m)
  | .msColl s g m => some (encUnit (.ms .coll) s g false m)
  | .msGrp s g m => some (encUnit (.ms .grp) s g false m)
  | .msLaunch s g m => some (encUnit (.ms .launch) s g false m)
  | .msMcast s g m => some (encUnit (.ms .mcast) s g false m)
  | .ceTail s g m => some (encUnit (.ce .tail) s g false m)
  | .ceSeq s g m => some (encUnit (.ce .seq) s g false m)
  | .ceWseq s g m => some (encUnit (.ce .wseq) s g false m)
  | .cePub s g m => some (encUnit (.ce .pub) s g false m)
  | .ceHalt s g m => some (encUnit (.ce .halt) s g false m)
  | .tbTbind s g m => some (encUnit (.tb .tbind) s g false m)
  | .tbTfree s g m => some (encUnit (.tb .tfree) s g false m)
  | .tbTget s g m => some (encUnit (.tb .tget) s g false m)
  | .tbTset s g m => some (encUnit (.tb .tset) s g false m)
  | .syRd s g m => some (encUnit (.sy .rd) s g false m)
  | .syWr s g m => some (encUnit (.sy .wr) s g false m)
  | .powerOnReset => none
  | .firmwareRestart => none
  | .registerWrite => none
  | .ringWrite => none
  | .query => none
  | .pcreate => none
  | .pdestroy => none
  | .setattr => none
  | .job => none
  | .phase => none
  | .graph => none
  | .fwCancel => none
  | .map => none
  | .unmap => none
  | .type => none
  | .notify => none
  | .pair => none
  | .klist => none
  | .kreset => none
  | .split => none
  | .switch => none
  | .resume => none
  | .stop => none
  | .discard => none
  | .duskadd => none
  | .frames => none
  | .attest => none
  | .cfgwrite => none
  | .extload => none
  | .linkreset => none
  | .indexPlacement => none
  | .taskDispatch => none
  | .watchReady => none
  | .markerRelease => none
  | .pauseExpiry => none
  | .agingStep => none
  | .resultLanding => none
  | .loadDeliver => none
  | .fetchFill => none
  | .loopPassEnd => none
  | .watchFree => none
  | .messageAccept => none
  | .overflowTimeout => none
  | .overflowDrain => none
  | .wakeRetry => none
  | .depositApply => none
  | .cancelNotice => none
  | .launchComplete => none
  | .continuationStart => none
  | .phaseComplete => none
  | .windowBoundary => none
  | .cvrUpdate => none
  | .gangForm => none
  | .nbrServed => none
  | .nbrTimeout => none
  | .rodOpStart => none
  | .rodOpEnd => none
  | .bankAccess => none
  | .fifoReserve => none
  | .fifoTake => none
  | .modeChange => none
  | .prefetchDone => none
  | .wcbDrain => none
  | .storeApply => none
  | .updateApply => none
  | .storeAck => none
  | .missFill => none
  | .keepStoreDecide => none
  | .clockPush => none
  | .keepRetry => none
  | .atomicApply => none
  | .tlbWalk => none
  | .entryCopy => none
  | .entryGather => none
  | .entrySelgather => none
  | .entryScatter => none
  | .entryFill => none
  | .entryConvert => none
  | .entrySnap => none
  | .entryPublish => none
  | .entryFence => none
  | .entryWait => none
  | .entryPrefetch => none
  | .allgather => none
  | .redscat => none
  | .alltoall => none
  | .entryBarrier => none
  | .collectiveStart => none
  | .entryEnd => none
  | .dawnSwap => none
  | .snapHold => none
  | .snapRelease => none
  | .splitSwitch => none
  | .remapReplay => none
  | .duskExpiry => none
  | .gangSwitch => none
  | .resumeAtT => none
  | .powerGate => none
  | .coreWake => none
  | .clockThrottle => none
  | .linkRetrain => none
  | .linkReturn => none
  | .linkDown => none
  | .cxlMemRead => none
  | .cxlMemWrite => none
  | .hostSnoop => none
  | .rdmaWrite => none
  | .peerLoad => none
  | .extensionCommand => none

/-- The length in bytes of a word of the instruction stream (R44); 0 for the rows that have no encoding. -/
def Instr.len (i : Instr) : Nat :=
  match encode i with
  | some (.half _) => 2
  | some (.word _) => 4
  | none => 0

/-- The encoding of a word, zero-extended, as `tval` holds it (R48). -/
def Instr.encoding (i : Instr) : Word :=
  match encode i with
  | some (.half h) => h.setWidth 64
  | some (.word w) => w.setWidth 64
  | none => 0

/-! ## Firmware ring entries -/

/-- The fields of a 64-byte command entry, given as eight words (R403). -/
def cmdOf (w0 : Word) (w : Vector Word 7) : Cmd :=
  { seq := (fld w0 32 32).toNat, part := (fld w0 16 8).toNat, rsv := (fld w0 24 8).toNat, op := (fld w0 0 16).toNat, w := w }

/-- The command of a ring entry; none for an opcode that no command has (R405, R410). -/
def decodeCmd (c : Cmd) : Option Instr :=
  match c.op with
  | 0x01 => some .query
  | 0x02 => some .pcreate
  | 0x03 => some .pdestroy
  | 0x04 => some .setattr
  | 0x05 => some .job
  | 0x06 => some .phase
  | 0x07 => some .graph
  | 0x08 => some .fwCancel
  | 0x09 => some .map
  | 0x0a => some .unmap
  | 0x0b => some .type
  | 0x0c => some .notify
  | 0x0d => some .pair
  | 0x0e => some .klist
  | 0x0f => some .kreset
  | 0x10 => some .split
  | 0x11 => some .switch
  | 0x12 => some .resume
  | 0x13 => some .stop
  | 0x14 => some .discard
  | 0x15 => some .duskadd
  | 0x16 => some .frames
  | 0x17 => some .attest
  | 0x18 => some .cfgwrite
  | 0x19 => some .extload
  | 0x1a => some .linkreset
  | n => if 0x80 ≤ n ∧ n ≤ 0xFF then some .extensionCommand else none

end Sys2Proof
end

