-- ==== Sys2Proof/Machine/Integer.lean ====
section
/-!
DEFINITION. The results of the integer units `ia` (R109) and `im` (R110), and of the C2 words that use them (R108).
-/
namespace Sys2Proof.Machine

/-- Clamp a signed value to `n` bits (R109). -/
def clampInt (n : Nat) (v : Int) : Int :=
  if v < -(2 ^ (n - 1)) then -(2 ^ (n - 1)) else if v > 2 ^ (n - 1) - 1 then 2 ^ (n - 1) - 1 else v

/-- Leading zeros (R109). -/
def clzBits {n : Nat} (b : BitVec n) : Nat := if b.toNat = 0 then n else n - 1 - b.toNat.log2

/-- Index of the lowest 1 bit, counted from `i`, looking at `fuel` bits (R109). -/
def ffsFrom {n : Nat} (b : BitVec n) : Nat → Nat → Nat
  | _, 0 => 64
  | i, fuel + 1 => if b.getLsbD i then i else ffsFrom b (i + 1) fuel

/-- Index of the lowest 1 bit, the width where there is none (R109). -/
def ffsBits {n : Nat} (b : BitVec n) : Nat := if b.toNat = 0 then n else ffsFrom b 0 n

/-- Number of 1 bits (R109). -/
def popBits {n : Nat} (b : BitVec n) : Nat := ((List.range n).filter (fun i => b.getLsbD i)).length

/-- The bytes in reverse order (R109). -/
def byteSwap (b : Word) : Word :=
  fld b 0 8 ++ fld b 8 8 ++ fld b 16 8 ++ fld b 24 8 ++ fld b 32 8 ++ fld b 40 8 ++ fld b 48 8 ++ fld b 56 8

/-- 1 or 0. -/
def ofBool {n : Nat} (p : Bool) : BitVec n := if p then 1 else 0

/-- The low `n` bits of `v`, sign-extended (R3). -/
def sextN (v : Word) (n : Nat) : Word := if n = 0 ∨ 64 ≤ n then v else BitVec.ofInt 64 ((BitVec.setWidth n v).toInt)

/-- The low `n` bits of `v`, zero-extended (R3). -/
def zextN (v : Word) (n : Nat) : Word := if n = 0 ∨ 64 ≤ n then v else BitVec.setWidth 64 (BitVec.setWidth n v)

/-- The result of an `ia` operation at one operand width, before the w form's sign extension (R109). The shift amount
is taken modulo the width. -/
def iaAt (n : Nat) (o : IaOp) (a b : BitVec n) : BitVec n :=
  let k := b.toNat % n
  match o with
  | .add => a + b
  | .sub => a - b
  | .andOp => a &&& b
  | .orOp => a ||| b
  | .xor => a ^^^ b
  | .andn => a &&& ~~~b
  | .shl => a <<< k
  | .shr => a >>> k
  | .sar => a.sshiftRight k
  | .rol => a.rotateLeft k
  | .min => if a.toInt ≤ b.toInt then a else b
  | .max => if a.toInt ≤ b.toInt then b else a
  | .minn => if a.toNat ≤ b.toNat then a else b
  | .maxn => if a.toNat ≤ b.toNat then b else a
  | .slt => ofBool (decide (a.toInt < b.toInt))
  | .sltn => ofBool (decide (a.toNat < b.toNat))
  | .seq => ofBool (decide (a = b))
  | .sne => ofBool (decide (a ≠ b))
  | .clz => BitVec.ofNat n (clzBits b)
  | .ffs => BitVec.ofNat n (ffsBits b)
  | .pop => BitVec.ofNat n (popBits b)
  | .adds => BitVec.ofInt n (clampInt n (a.toInt + b.toInt))
  | .subs => BitVec.ofInt n (clampInt n (a.toInt - b.toInt))
  | .abs => BitVec.ofInt n (clampInt n (b.toInt.natAbs : Int))
  | .bsw | .bxt | .sxt => 0

/-- The result of an `ia` operation (R109): the 64-bit form, or the w form sign-extended from bit 31. -/
def iaResult (o : IaOp) (w : Bool) (a b : Word) : Word :=
  if w then (iaAt 32 o (a.setWidth 32) (b.setWidth 32)).signExtend 64
  else match o with
    | .bsw => byteSwap b
    | .bxt => zextN (a >>> (b.toNat % 64)) ((b.toNat / 256) % 64)
    | .sxt => sextN a (b.toNat % 64)
    | _ => iaAt 64 o a b

/-- The result of an `im` operation at one operand width (R110). -/
def imAt (n : Nat) (o : ImOp) (a b : BitVec n) : BitVec n :=
  match o with
  | .mul => a * b
  | .mulh => BitVec.ofInt n ((a.toInt * b.toInt) >>> n)
  | .mulhn => BitVec.ofNat n ((a.toNat * b.toNat) >>> n)
  | .div => if b = 0 then BitVec.allOnes n else BitVec.ofInt n (a.toInt.tdiv b.toInt)
  | .divn => if b = 0 then BitVec.allOnes n else BitVec.ofNat n (a.toNat / b.toNat)
  | .rem => if b = 0 then a else BitVec.ofInt n (a.toInt.tmod b.toInt)
  | .remn => if b = 0 then a else BitVec.ofNat n (a.toNat % b.toNat)

/-- The result of an `im` operation (R110). -/
def imResult (o : ImOp) (w : Bool) (a b : Word) : Word :=
  if w then (imAt 32 o (a.setWidth 32) (b.setWidth 32)).signExtend 64 else imAt 64 o a b

/-- The latency in slots of an `im` operation (R58, R110). -/
def imLatency : ImOp → Nat
  | .mul | .mulh | .mulhn => 3
  | _ => 24

end Sys2Proof.Machine
end

