-- ==== Sys2Proof/Machine/Float.lean ====
section
/-!
DEFINITION. Floating-point values and rounding (R150 to R156), the operations of `fa`, `fd` and `sf` (R181 to R192), and
packed formats (R170 to R173, R201, R203, R214). A finite value is held exactly, as a sign and a natural number times a
power of two; `st` says that the magnitude lies strictly between that number and the next. Every result is rounded once.
-/
namespace Sys2Proof.Machine

/-- Rounding modes (R153). RTO is reached only through `frto`, `cvto` and the engine option (R159). -/
inductive RMode where
  | rne | rtz | rup | rdn | rna | rto
deriving DecidableEq, Repr

/-- The mode field's codes (R159, R178); a reserved code never stands in the field. -/
def RMode.ofCode : Nat → RMode
  | 1 => .rtz
  | 2 => .rup
  | 3 => .rdn
  | 4 => .rna
  | _ => .rne

/-- The flags an operation raises (R178). -/
structure FFlags where
  nv : Bool := false
  dz : Bool := false
  of : Bool := false
  uf : Bool := false
  nx : Bool := false
  rg : Bool := false
deriving DecidableEq, Repr

/-- No flag. -/
def FFlags.none : FFlags := {}

/-- The flags in the order NV, DZ, OF, UF, NX, RG from bit 0 (R180). -/
def FFlags.bits (f : FFlags) : BitVec 6 :=
  BitVec.ofBool f.rg ++ BitVec.ofBool f.nx ++ BitVec.ofBool f.uf ++ BitVec.ofBool f.of ++ BitVec.ofBool f.dz ++ BitVec.ofBool f.nv

/-- Both sets of flags. -/
def FFlags.or (a b : FFlags) : FFlags :=
  ⟨a.nv || b.nv, a.dz || b.dz, a.of || b.of, a.uf || b.uf, a.nx || b.nx, a.rg || b.rg⟩

/-- A floating value. A NaN keeps its sign and its fraction, bead 1 in bit 51. -/
inductive FVal where
  | nan (neg : Bool) (frac : Nat)
  | inf (neg : Bool)
  | zero (neg : Bool)
  | fin (neg : Bool) (m : Nat) (e : Int) (st : Bool)
deriving DecidableEq, Repr

/-- A format: exponent field width, beads, and whether the all-ones exponent holds numbers (E4M3, R201, R214). -/
structure FFmt where
  exp : Nat
  beads : Nat
  f8 : Bool := false
deriving DecidableEq, Repr

/-- The least normal exponent (R150, R170). -/
def FFmt.emin (f : FFmt) : Int := 2 - 2 ^ (f.exp - 1)

/-- The code of the largest finite magnitude (R152, R170, R203). -/
def FFmt.maxCode (f : FFmt) : Nat :=
  if f.f8 then (if f.beads = 3 then 126 else 2 ^ (f.exp + f.beads) - 1) else (2 ^ f.exp - 1) * 2 ^ f.beads - 1

/-- Binary64 and the transport form at `L` beads (R150, R151). -/
def FFmt.bead (l : Nat) : FFmt := ⟨11, l, false⟩

/-- Read a code of a format with `f.beads` fraction bits (R150, R170, R172, R201). -/
def FFmt.unpack (f : FFmt) (code : Nat) : FVal :=
  let neg := code.testBit (f.exp + f.beads)
  let frac := code % 2 ^ f.beads
  let field := (code / 2 ^ f.beads) % 2 ^ f.exp
  if f.f8 && field = 15 && frac = 7 then .nan neg (2 ^ 51)
  else if !f.f8 && field = 2 ^ f.exp - 1 then
    if frac = 0 then .inf neg else .nan neg (frac * 2 ^ (52 - f.beads))
  else if field = 0 then
    if frac = 0 then .zero neg else .fin neg frac (f.emin - f.beads) false
  else .fin neg (2 ^ f.beads + frac) (f.emin - f.beads + (field - 1 : Nat)) false

/-- An operand's 64 bits read as binary64 (R181). -/
def ofBits (w : Word) : FVal := (FFmt.bead 52).unpack w.toNat

/-- Round `m × 2^e`, or a value just above it where `st`, to a multiple of `2^q` (R153): the multiple, and whether the
rounding was inexact. -/
def roundAt (m : Nat) (e : Int) (st : Bool) (q : Int) (mode : RMode) (neg : Bool) : Nat × Bool :=
  if q ≤ e then (m * 2 ^ (e - q).toNat, st)
  else
    let k := min (q - e).toNat (m.log2 + 3)
    let lo := m / 2 ^ k
    let rem := m % 2 ^ k
    let half := 2 ^ (k - 1)
    if rem = 0 && !st then (lo, false)
    else
      let tie := rem = half && !st
      let above := half < rem || (rem = half && st)
      let up : Bool := match mode with
        | .rne => above || (tie && lo % 2 = 1)
        | .rna => above || tie
        | .rtz => false
        | .rup => !neg
        | .rdn => neg
        | .rto => lo % 2 = 0
      (if up then lo + 1 else lo, true)

/-- The result of rounding a finite value to a format: its magnitude code, or an overflow; and its flags. -/
structure Rounded where
  code : Nat
  huge : Bool
  fl : FFlags
deriving DecidableEq, Repr

/-- Round a finite nonzero value to a format (R153, R155); overflow is left to the caller (R154, R173, R203). -/
def roundFin (f : FFmt) (mode : RMode) (neg : Bool) (m : Nat) (e : Int) (st : Bool) : Rounded :=
  let lg : Int := m.log2 + e
  let ex := max lg f.emin
  let q := ex - f.beads
  let r := roundAt m e st q mode neg
  let code := (q - (f.emin - f.beads)).toNat * 2 ^ f.beads + r.1
  let tiny : Bool := lg < f.emin && (roundAt m e st (lg - f.beads) mode neg).1 < 2 ^ (f.emin - (lg - f.beads)).toNat
  if f.maxCode < code then ⟨f.maxCode, true, { of := true, nx := true }⟩
  else ⟨code, false, { uf := tiny && r.2, nx := r.2 }⟩

/-- Whether an overflow in this mode gives infinity rather than the largest finite magnitude (R154). -/
def overInf (mode : RMode) (neg : Bool) : Bool :=
  match mode with
  | .rne | .rna => true
  | .rtz | .rto => false
  | .rup => !neg
  | .rdn => neg

/-- What an overflowing or infinite result becomes: by R154, saturated as a bead array stores (R173), or as f8 (R203). -/
inductive OverRule where
  | ieee | store | f8
deriving DecidableEq, Repr

/-- A NaN's beads at length `L`, bead 1 set (R153). -/
def shortenFrac (l frac : Nat) : Nat := (frac / 2 ^ (52 - l)) * 2 ^ (52 - l) ||| 2 ^ 51

/-- Write a value into a format, rounding it (R153, R154, R173, R203). The code has `1 + f.exp + f.beads` bits. -/
def FFmt.pack (f : FFmt) (rule : OverRule) (mode : RMode) (v : FVal) : Nat × FFlags :=
  let sgn (neg : Bool) : Nat := if neg then 2 ^ (f.exp + f.beads) else 0
  let inf := (2 ^ f.exp - 1) * 2 ^ f.beads
  match v with
  | .nan neg frac => if f.f8 then (127, .none) else (sgn neg + inf + shortenFrac f.beads frac / 2 ^ (52 - f.beads), .none)
  | .inf neg => if f.f8 then (sgn neg + f.maxCode, .none) else (sgn neg + inf, .none)
  | .zero neg => (sgn neg, .none)
  | .fin neg m e st =>
    let r := roundFin f mode neg m e st
    if r.huge then
      (sgn neg + (if rule = .ieee && overInf mode neg then inf else f.maxCode), r.fl)
    else (sgn neg + r.code, r.fl)

/-- Round a value to `L` beads in the transport form (R151, R153). -/
def finishBead (l : Nat) (mode : RMode) (v : FVal) : Word × FFlags :=
  let r := (FFmt.bead l).pack .ieee mode v
  (BitVec.ofNat 64 (r.1 * 2 ^ (52 - l)), r.2)

/-! ## Exact operations -/

/-- The default NaN (R182). -/
def FVal.dflt : FVal := .nan false (2 ^ 51)

/-- The sign of a value. -/
def FVal.neg : FVal → Bool
  | .nan n _ | .inf n | .zero n | .fin n _ _ _ => n

/-- The value with its sign replaced. -/
def FVal.withSign (v : FVal) (n : Bool) : FVal :=
  match v with
  | .nan _ f => .nan n f
  | .inf _ => .inf n
  | .zero _ => .zero n
  | .fin _ m e st => .fin n m e st

/-- The value with its sign inverted. -/
def FVal.negate (v : FVal) : FVal := v.withSign !v.neg

/-- A NaN of either kind. -/
def FVal.isNan : FVal → Bool
  | .nan _ _ => true
  | _ => false

/-- A NaN whose bead 1 is 0 (R182). -/
def FVal.isSnan : FVal → Bool
  | .nan _ f => !f.testBit 51
  | _ => false

/-- An infinity. -/
def FVal.isInf : FVal → Bool
  | .inf _ => true
  | _ => false

/-- A zero. -/
def FVal.isZero : FVal → Bool
  | .zero _ => true
  | _ => false

/-- The signed multiple of `2^e` of an exact finite value, for `e` at most its exponent. -/
def FVal.scaled (v : FVal) (e : Int) : Int :=
  match v with
  | .fin n m ev _ => let k : Int := m * 2 ^ (ev - e).toNat; if n then -k else k
  | _ => 0

/-- The exponent of an exact finite value; a zero sets no bound. -/
def FVal.expo (v : FVal) (d : Int) : Int :=
  match v with
  | .fin _ _ e _ => e
  | _ => d

/-- The exact value `k × 2^e`, a zero with the sign given. -/
def ofInt (k : Int) (e : Int) (zneg : Bool) : FVal :=
  if k = 0 then .zero zneg else .fin (decide (k < 0)) k.natAbs e false

/-- The exact sum of two values that are no NaN (R183, R184); none where it is invalid. -/
def addVal (mode : RMode) (a b : FVal) : Option FVal :=
  match a, b with
  | .inf n, .inf k => if n = k then some (.inf n) else none
  | .inf n, _ => some (.inf n)
  | _, .inf n => some (.inf n)
  | .zero n, .zero k => some (.zero (if n = k then n else mode = .rdn))
  | a, b =>
    let e := min (a.expo (b.expo 0)) (b.expo (a.expo 0))
    some (ofInt (a.scaled e + b.scaled e) e (mode = .rdn))

/-- The exact product of two values that are no NaN (R183, R184); none where it is invalid. -/
def mulVal (a b : FVal) : Option FVal :=
  let n := xor a.neg b.neg
  match a, b with
  | .inf _, .zero _ | .zero _, .inf _ => none
  | .inf _, _ | _, .inf _ => some (.inf n)
  | .zero _, _ | _, .zero _ => some (.zero n)
  | .fin _ m e _, .fin _ k f _ => some (.fin n (m * k) (e + f) false)
  | _, _ => none

/-- The quotient of two finite nonzero magnitudes, with at least 64 bits and a sticky remainder. -/
def divMag (n : Bool) (m : Nat) (e : Int) (k : Nat) (f : Int) : FVal :=
  let sh := k.log2 + 70
  let num := m * 2 ^ sh
  .fin n (num / k) (e - f - sh) (decide (num % k ≠ 0))

/-- The integer square root, by Newton's iteration from above. -/
def isqrtLoop (n : Nat) : Nat → Nat → Nat
  | 0, x => x
  | fuel + 1, x => let y := (x + n / x) / 2; if y < x then isqrtLoop n fuel y else x

/-- The integer square root: the largest number whose square is at most `n`. -/
def isqrt (n : Nat) : Nat := if n = 0 then 0 else isqrtLoop n (n.log2 + 64) (2 ^ (n.log2 / 2 + 1))

/-- The square root of a positive finite magnitude, with at least 64 bits and a sticky remainder. -/
def sqrtMag (m : Nat) (e : Int) : FVal :=
  let sh : Nat := 140 + (e % 2).toNat
  let big := m * 2 ^ sh
  let r := isqrt big
  .fin false r ((e - sh) / 2) (decide (r * r ≠ big))

/-- The reciprocal square root of a positive finite magnitude. -/
def rsqrtMag (m : Nat) (e : Int) : FVal :=
  let m2 := m * 2 ^ (e % 2).toNat
  let e2 := e - (e % 2)
  let k := 80 + m2.log2
  let r := isqrt (2 ^ (2 * k) / m2)
  .fin false r (-(e2 / 2) - k) (decide (r * r * m2 ≠ 2 ^ (2 * k)))

/-- Order two values that are no NaN, with −0 equal to +0: less, equal or greater. -/
def cmpVal (a b : FVal) : Ordering :=
  let key (v : FVal) : Int := match v with
    | .inf n => if n then -2 else 2
    | .fin n _ _ _ => if n then -1 else 1
    | _ => 0
  match a, b with
  | .fin _ _ e _, .fin _ _ f _ => compare (a.scaled (min e f)) (b.scaled (min e f))
  | _, _ => compare (key a) (key b)

/-- The lesser of two values that are no NaN, −0 below +0 (R185). -/
def minVal (a b : FVal) : FVal :=
  match cmpVal a b with
  | .lt => a
  | .gt => b
  | .eq => if a.neg then a else b

/-- The greater of two values that are no NaN, −0 below +0 (R185). -/
def maxVal (a b : FVal) : FVal :=
  match cmpVal a b with
  | .lt => b
  | .gt => a
  | .eq => if a.neg then b else a

/-- The first NaN among the operands read, and whether any is signaling (R182). -/
def nanRule (ops : List FVal) : Option (FVal × Bool) :=
  match ops.find? FVal.isNan with
  | some v => some (v, ops.any FVal.isSnan)
  | none => none

/-- An operation whose result is a rounded value, by R182: the NaN rules, the invalid case, else the exact value. -/
def arith (l : Nat) (mode : RMode) (ops : List FVal) (exact : Option FVal) (fl : FFlags := .none) : Word × FFlags :=
  match nanRule ops with
  | some (v, s) => ((finishBead l mode v).1, { nv := s })
  | none =>
    match exact with
    | none => ((finishBead l mode .dflt).1, { nv := true })
    | some v => let r := finishBead l mode v; (r.1, r.2.or fl)

/-- A scaling by a power of two, the exponent kept within what still rounds alike. -/
def scaleVal (a : FVal) (k : Int) : FVal :=
  match a with
  | .fin n m e st => .fin n m (e + max (-5000) (min 5000 k)) st
  | v => v

/-- A value rounded to an integer in a mode (R187). -/
def toIntVal (mode : RMode) (v : FVal) : Int × Bool :=
  match v with
  | .fin n m e st => let r := roundAt m e st 0 mode n; ((if n then -(r.1 : Int) else r.1), r.2)
  | _ => (0, false)

/-- Conversion to a signed integer of `n` bits, saturating; a NaN gives the least number (R187, R206). -/
def toSigned (n : Nat) (mode : RMode) (v : FVal) : Int × FFlags :=
  let lo : Int := -(2 ^ (n - 1))
  let hi : Int := 2 ^ (n - 1) - 1
  match v with
  | .nan _ _ => (lo, { nv := true })
  | .inf s => (if s then lo else hi, { nv := true })
  | v =>
    let r := toIntVal mode v
    if r.1 > hi then (hi, { nv := true }) else if r.1 < lo then (lo, { nv := true }) else (r.1, { nx := r.2 })

/-- The result and flags of an `fa` operation at `L` beads in a mode (R184 to R188). -/
def faResult (o : FaOp) (l : Nat) (mode : RMode) (a b c : Word) : Word × FFlags :=
  let A := ofBits a
  let B := ofBits b
  let C := ofBits c
  let cmp (sig : Bool) (p : Ordering → Bool) : Word × FFlags :=
    if A.isNan || C.isNan then (0, { nv := sig || A.isSnan || C.isSnan }) else (ofBool (p (cmpVal A C)), .none)
  let pick (f : FVal → FVal → FVal) : Word × FFlags :=
    let v := if A.isNan then (if B.isNan then A else B) else if B.isNan then A else f A B
    let r := finishBead l mode v
    (r.1, r.2.or { nv := A.isSnan || B.isSnan })
  match o with
  | .fma => arith l mode [A, B, C] ((mulVal A B).bind (addVal mode · C))
  | .fms => arith l mode [A, B, C] ((mulVal A B).bind (addVal mode · C.negate))
  | .fnma => arith l mode [A, B, C] ((mulVal A B).bind (fun p => addVal mode C p.negate))
  | .fadd => arith l mode [A, C] (addVal mode A C)
  | .fsub => arith l mode [A, C] (addVal mode A C.negate)
  | .fmul => arith l mode [A, C] (mulVal A C)
  | .fmin => pick minVal
  | .fmax => pick maxVal
  | .fabs => finishBead l mode (C.withSign false)
  | .fneg => finishBead l mode C.negate
  | .fsgn => finishBead l mode (A.withSign C.neg)
  | .fclt => cmp true (· == .lt)
  | .fcle => cmp true (· != .gt)
  | .fceq => cmp false (· == .eq)
  | .fcun => (ofBool (A.isNan || C.isNan), { nv := A.isSnan || C.isSnan })
  | .frnd => arith l mode [C] (some C)
  | .frto => arith l .rto [C] (some C)
  | .fcvi => let r := toSigned 64 mode C; (BitVec.ofInt 64 r.1, r.2)
  | .ficv => finishBead l mode (ofInt c.toInt 0 false)
  | .fexa => arith l mode [A] (some (scaleVal A c.toInt))

/-- The result and flags of an `fd` operation (R189). -/
def fdResult (o : FdOp) (l : Nat) (mode : RMode) (a c : Word) : Word × FFlags :=
  let A := ofBits a
  let C := ofBits c
  let n := xor A.neg C.neg
  match o with
  | .fdiv =>
    match A, C with
    | .zero _, .zero _ | .inf _, .inf _ => arith l mode [A, C] none
    | .fin _ _ _ _, .zero _ => arith l mode [A, C] (some (.inf n)) { dz := true }
    | .inf _, _ => arith l mode [A, C] (some (.inf n))
    | .zero _, _ | _, .inf _ => arith l mode [A, C] (some (.zero n))
    | .fin _ m e _, .fin _ k f _ => arith l mode [A, C] (some (divMag n m e k f))
    | _, _ => arith l mode [A, C] none
  | .fsqrt =>
    match C with
    | .fin false m e _ => arith l mode [C] (some (sqrtMag m e))
    | .zero z => arith l mode [C] (some (.zero z))
    | .inf false => arith l mode [C] (some (.inf false))
    | _ => arith l mode [C] none

/-! ## Special functions

Each is bracketed by fixed-point arithmetic at a working precision `p`; the precision doubles until the bracket lies
strictly between two neighbouring 64-bit values, which fixes every rounding to at most 23 beads (R190). -/

/-- Working error bound, in units of the last place of the working precision. -/
def slack : Nat := 2 ^ 48

/-- Pin a magnitude `A × 2^e` known to within `slack` units between neighbouring 64-bit numbers. -/
def pinLoop (neg : Bool) (f : Nat → Nat × Int) : Nat → Nat → FVal
  | 0, p => let r := f p; .fin neg (max r.1 1) r.2 true
  | fuel + 1, p =>
    let r := f p
    let lo := r.1 - slack
    let k := lo.log2 - 63
    let m := lo / 2 ^ k
    if m ≠ 0 ∧ (r.1 + slack) / 2 ^ k = m ∧ lo ≠ m * 2 ^ k then .fin neg m (r.2 + k) true else pinLoop neg f fuel (2 * p)

/-- Pin a magnitude, starting from 256 bits. -/
def pin (neg : Bool) (f : Nat → Nat × Int) : FVal := pinLoop neg f 6 256

/-- The series of 2 × artanh(1/k) at precision `p`. -/
def atanhInvLoop (k2 : Nat) : Nat → Nat → Nat → Nat → Nat
  | 0, _, _, acc => acc
  | fuel + 1, t, j, acc => atanhInvLoop k2 fuel (t / k2) (j + 2) (acc + t / j)

/-- ln 2 at precision `p`: 2 × artanh(1/3). -/
def ln2At (p : Nat) : Nat := 2 * atanhInvLoop 9 (p / 3 + 4) (2 ^ p / 3) 1 0

/-- The alternating series of arctan(1/k). -/
def atanInvLoop (k2 : Nat) : Nat → Nat → Nat → Bool → Int → Int
  | 0, _, _, _, acc => acc
  | fuel + 1, t, j, s, acc => atanInvLoop k2 fuel (t / k2) (j + 2) (!s) (if s then acc - (t / j : Nat) else acc + (t / j : Nat))

/-- π at precision `p`, by Machin's formula. -/
def piAt (p : Nat) : Nat :=
  (16 * atanInvLoop 25 (p / 4 + 4) (2 ^ p / 5) 1 false 0 - 4 * atanInvLoop 57121 (p / 15 + 4) (2 ^ p / 239) 1 false 0).toNat

/-- The exponential series of `t / 2^p`, `t` below `2^p`. -/
def expLoop (p t : Nat) : Nat → Nat → Nat → Nat → Nat
  | 0, _, _, acc => acc
  | fuel + 1, term, j, acc => let n := term * t / 2 ^ p / j; expLoop p t fuel n (j + 1) (acc + n)

/-- e to the power `t / 2^p`, for `t` below `2^p`, at precision `p`. -/
def expAt (p t : Nat) : Nat := expLoop p t (p / 2 + 16) (2 ^ p) 1 (2 ^ p)

/-- The series of sine (starting from the term `t`) or cosine (from one), each term the last times `r²` over two
successive numbers, with alternating signs. -/
def trigLoop (p r2 : Nat) : Nat → Nat → Nat → Bool → Int → Int
  | 0, _, _, _, acc => acc
  | fuel + 1, term, j, s, acc =>
    let n := term * r2 / 2 ^ p / (j * (j + 1))
    trigLoop p r2 fuel n (j + 2) (!s) (if s then acc + (n : Nat) else acc - (n : Nat))

/-- sin of `r / 2^p`, for `r` below `2^(p+1)`. -/
def sinAt (p r : Nat) : Int := trigLoop p (r * r / 2 ^ p) (p / 4 + 16) r 2 false r

/-- cos of `r / 2^p`, for `r` below `2^(p+1)`. -/
def cosAt (p r : Nat) : Int := trigLoop p (r * r / 2 ^ p) (p / 4 + 16) (2 ^ p) 1 false ((2 ^ p : Nat) : Int)

/-- The series of artanh of `z / 2^p`. -/
def atanhLoop (p z2 : Nat) : Nat → Nat → Nat → Nat → Nat
  | 0, _, _, acc => acc
  | fuel + 1, t, j, acc => atanhLoop p z2 fuel (t * z2 / 2 ^ p) (j + 2) (acc + t / j)

/-- `m × 2^e` at precision `p`, rounded down. -/
def fixAt (m : Nat) (e : Int) (p : Nat) : Nat := if 0 ≤ e + p then m * 2 ^ (e + p).toNat else m / 2 ^ (-(e + p)).toNat

/-- A magnitude a little above `2^k`, or a little below. -/
def nearPow (neg : Bool) (k : Int) (above : Bool) : FVal :=
  if above then .fin neg (2 ^ 64) (k - 64) true else .fin neg (2 ^ 65 - 1) (k - 65) true

/-- A magnitude a little below `m × 2^e`. -/
def justBelow (neg : Bool) (m : Nat) (e : Int) : FVal :=
  let sh := 64 - m.log2
  .fin neg (m * 2 ^ sh - 1) (e - sh) true

/-- The power of two just above or equal to a magnitude bounds it: its binary exponent. -/
def magExp (m : Nat) (e : Int) : Int := m.log2 + e

/-- 2 to the power of an exact value (R191). -/
def exp2Val (v : FVal) : FVal :=
  match v with
  | .inf n => if n then .zero false else .inf false
  | .fin n m e _ =>
    if magExp m e < -70 then nearPow false 0 !n
    else if 12 < magExp m e then .fin false (2 ^ 64) (if n then -5000 else 5000) true
    else
      let k : Int := if n then -(m : Int) else m
      let i : Int := if 0 ≤ e then k * 2 ^ e.toNat else k / 2 ^ (-e).toNat
      let d : Nat := if 0 ≤ e then 0 else (k - i * 2 ^ (-e).toNat).toNat
      if d = 0 then .fin false 1 i false
      else if magExp d e < -70 then nearPow false i true
      else
        let d' := 2 ^ (-e).toNat - d
        if magExp d' e < -70 then nearPow false (i + 1) false
        else pin false (fun p => (expAt p (fixAt d e p * ln2At p / 2 ^ p), i - p))
  | _ => .fin false 1 0 false

/-- e to the power of a value: mantissa at precision `p` and exponent, for magnitudes below 2^12. -/
def expVal (p : Nat) (k : Int) (e : Int) : Nat × Int :=
  let q := p + 32
  let x : Int := if 0 ≤ e + q then k * 2 ^ (e + q).toNat else k / 2 ^ (-(e + q)).toNat
  let l := ln2At q
  let n : Int := x / l
  (expAt q (x - n * l).toNat, n - q)

/-- The sine (or cosine, `cosine`) of a finite nonzero value below 2^30 in magnitude (R191, R192). -/
def sinVal (cosine : Bool) (n : Bool) (m : Nat) (e : Int) : FVal :=
  if magExp m e < -70 then (if cosine then nearPow false 0 false else justBelow n m e)
  else
    let quad (p : Nat) : Nat × Nat :=
      let h := piAt p / 2
      let x := fixAt m e p
      (x / h % 4, x - (x / h) * h)
    let at_ (p : Nat) : Int :=
      let r := quad p
      match (r.1 + (if cosine then 1 else 0)) % 4 with
      | 0 => sinAt p r.2
      | 1 => cosAt p r.2
      | 2 => -(sinAt p r.2)
      | _ => -(cosAt p r.2)
    let neg := decide (at_ 256 < 0)
    pin (if cosine then neg else xor neg n) (fun p => ((at_ p).natAbs, -p))

/-- The binary logarithm of a positive finite value that is no power of two (R191). -/
def log2Val (m : Nat) (e : Int) : FVal :=
  let i : Int := magExp m e
  let at_ (p : Nat) : Int :=
    let one := 2 ^ p
    let x := fixAt m (e - i) p
    let z := (x - one) * one / (x + one)
    let ln := 2 * atanhLoop p (z * z / one) (p / 3 + 16) z 1 0
    i * one + (ln * one / ln2At p : Nat)
  pin (decide (at_ 256 < 0)) (fun p => ((at_ p).natAbs, -p))

/-- The hyperbolic tangent of a finite nonzero value (R191). -/
def tanhVal (n : Bool) (m : Nat) (e : Int) : FVal :=
  if magExp m e < -70 then justBelow n m e
  else if 6 ≤ magExp m e then nearPow n 0 false
  else pin n (fun p =>
    let r := expVal p (2 * (m : Int)) e
    let one := 2 ^ p
    let x := fixAt r.1 r.2 p
    ((x - one) * one / (x + one), -p))

/-- The logistic function of a finite nonzero value (R191). -/
def sigmVal (n : Bool) (m : Nat) (e : Int) : FVal :=
  if magExp m e < -70 then nearPow false (-1) !n
  else if 10 ≤ magExp m e then (if n then .fin false (2 ^ 64) (-5000) true else nearPow false 0 false)
  else if !n && 6 ≤ magExp m e then nearPow false 0 false
  else pin false (fun p =>
    let one := 2 ^ p
    let r := expVal p (if n then -(m : Int) else m) e
    let x := fixAt r.1 r.2 p
    if n then (r.1 * one / (one + x), r.2) else (x * one / (one + x), -p))

/-- The result of an `sf` operation on values, for a format: its exact or bracketed value, none where it is invalid, and
the flags that are not the rounding's (R190 to R192). -/
def sfVal (o : SfOp) (mode : RMode) (A C : FVal) : Option FVal × FFlags :=
  match o with
  | .sin | .cos =>
    match C with
    | .zero z => (some (if o = .cos then .fin false 1 0 false else .zero z), .none)
    | .fin n m e _ => if 30 ≤ magExp m e then (some .dflt, { rg := true }) else (some (sinVal (o = .cos) n m e), .none)
    | _ => (none, .none)
  | .exp2 => (some (exp2Val C), .none)
  | .log2 =>
    match C with
    | .zero _ => (some (.inf true), { dz := true })
    | .inf false => (some (.inf false), .none)
    | .fin false m e _ =>
      if m = 2 ^ m.log2 then (some (ofInt (magExp m e) 0 false), .none) else (some (log2Val m e), .none)
    | _ => (none, .none)
  | .rcp =>
    match C with
    | .zero z => (some (.inf z), { dz := true })
    | .inf z => (some (.zero z), .none)
    | .fin n m e _ => (some (divMag n 1 0 m e), .none)
    | _ => (none, .none)
  | .rsqrt =>
    match C with
    | .zero z => (some (.inf z), { dz := true })
    | .inf false => (some (.zero false), .none)
    | .fin false m e _ => (some (rsqrtMag m e), .none)
    | _ => (none, .none)
  | .tanh =>
    match C with
    | .zero z => (some (.zero z), .none)
    | .inf z => (some (.fin z 1 0 false), .none)
    | .fin n m e _ => (some (tanhVal n m e), .none)
    | _ => (none, .none)
  | .sigm =>
    match C with
    | .zero _ => (some (.fin false 1 (-1) false), .none)
    | .inf z => (some (if z then .zero false else .fin false 1 0 false), .none)
    | .fin n m e _ => (some (sigmVal n m e), .none)
    | _ => (none, .none)
  | .exd => ((addVal mode C A.negate).map exp2Val, .none)

/-- The result and flags of an `sf` operation at `L` beads (R190 to R192). -/
def sfResult (o : SfOp) (l : Nat) (mode : RMode) (a c : Word) : Word × FFlags :=
  let A := ofBits a
  let C := ofBits c
  let ops := if o = .exd then [A, C] else [C]
  if ops.any FVal.isNan then arith l mode ops none
  else let r := sfVal o mode A C; arith l mode ops r.1 r.2

/-- The latency in slots of an `fa` operation at a bead count (R58). -/
def faLatency (bc : Nat) : Nat := if bc ≤ 10 then 3 else if bc ≤ 23 then 4 else 6

/-- The latency in slots of an `fd` operation at a bead count (R58, R189). -/
def fdLatency (bc : Nat) : Nat := if bc ≤ 10 then 10 else if bc ≤ 23 then 14 else 24

end Sys2Proof.Machine
end

