-- ==== Sys2Proof/Machine/Lanes.lean ====
section
/-!
DEFINITION. Vector elements (R201), the element results of `va` (R203 to R207), and the cross-lane results of `vx`
(R208, R209) with the top-k selection (R212, R213). A gang's vector is the list of its members' elements in order.
-/
namespace Sys2Proof.Machine

/-- The element width in bits (R201). -/
def vtyWidth : VTy → Nat
  | .i8 | .f8 => 8
  | .i16 | .w16 => 16
  | .i32 | .w32 => 32
  | .i64 | .w64 => 64

/-- A float type (R201). -/
def vtyFloat : VTy → Bool
  | .w16 | .w32 | .w64 | .f8 => true
  | _ => false

/-- The bead capacity of a float type (R201). -/
def vtyCap : VTy → Nat
  | .w16 => 7
  | .w32 => 23
  | .w64 => 52
  | .f8 => 3
  | _ => 0

/-- The format of a float type at `L` beads: the element's own exponent range (R203). -/
def vtyFmt (t : VTy) (l : Nat) : FFmt :=
  match t with
  | .w64 => ⟨11, l, false⟩
  | .f8 => ⟨4, l, true⟩
  | _ => ⟨8, l, false⟩

/-- The default NaN of a float type (R201). -/
def vtyNan : VTy → Nat
  | .w16 => 0x7FC0
  | .w32 => 0x7FC00000
  | .w64 => 0x7FF8000000000000
  | .f8 => 0x7F
  | _ => 0

/-- The type of a code (R68, R208). -/
def vtyOf (c : Nat) : VTy := (VTy.all[c % 8]?).getD .i8

/-- The elements of a member's vector, element 0 in the low bits (R201). -/
def lanes (w : Nat) (v : Vec) : List Nat := (List.range (256 / w)).map fun j => (v >>> (j * w)).toNat % 2 ^ w

/-- The vector of a list of elements. -/
def join (w : Nat) (l : List Nat) : Vec :=
  BitVec.ofNat 256 (l.foldr (fun x acc => acc * 2 ^ w + x % 2 ^ w) 0)

/-- A code read as a signed integer of `w` bits. -/
def sgn (w x : Nat) : Int := if 2 ^ (w - 1) ≤ x then (x : Int) - 2 ^ w else x

/-- An integer as a code of `w` bits, modulo `2^w`. -/
def wrap (w : Nat) (x : Int) : Nat := (x % (2 ^ w : Int)).toNat

/-- All ones or all zeros across an element (R202). -/
def maskElem (w : Nat) (p : Bool) : Nat := if p then 2 ^ w - 1 else 0

/-- A float element's value. -/
def elemVal (t : VTy) (x : Nat) : FVal := (vtyFmt t (vtyCap t)).unpack x

/-- A value rounded into a float element at `L` beads (R203). -/
def rndElem (t : VTy) (l : Nat) (mode : RMode) (v : FVal) : Nat :=
  if v.isNan then vtyNan t
  else ((vtyFmt t l).pack (if t = .f8 then .f8 else .ieee) mode v).1 * 2 ^ (vtyCap t - l)

/-- An exact result, or the invalid case, as a float element. -/
def rndOpt (t : VTy) (l : Nat) (mode : RMode) (v : Option FVal) : Nat := rndElem t l mode (v.getD .dflt)

/-- Whether any of the operands is a NaN. -/
def anyNan (l : List FVal) : Bool := l.any FVal.isNan

/-- An `exp2`, `rcp` or `rsq` element; at w64 above 23 beads the result has 23 (R204, R205). -/
def specialElem (o : SfOp) (t : VTy) (l : Nat) (mode : RMode) (c : Nat) : Nat :=
  let v := elemVal t c
  if v.isNan then vtyNan t
  else rndOpt t (if t = .w64 && decide (23 < l) then 23 else l) mode (sfVal o mode v v).1

/-- The integer elements of `va` (R205). -/
def vaInt (o : VaOp) (w : Nat) (a b c : Nat) : Nat :=
  let k := c % w
  match o with
  | .mad => wrap w (a * b + c)
  | .add => wrap w (a + c)
  | .sub => wrap w ((a : Int) - c)
  | .mul => wrap w (a * c)
  | .min => if sgn w a ≤ sgn w c then a else c
  | .max => if sgn w a ≤ sgn w c then c else a
  | .minn => min a c
  | .maxn => max a c
  | .andOp => a &&& c
  | .orOp => a ||| c
  | .xor => a ^^^ c
  | .shl => wrap w (a * 2 ^ k)
  | .shr => a / 2 ^ k
  | .sar => wrap w (sgn w a / 2 ^ k)
  | .abs => wrap w (sgn w c).natAbs
  | .neg => wrap w (-(c : Int))
  | .clt => maskElem w (decide (sgn w a < sgn w c))
  | .cle => maskElem w (decide (sgn w a ≤ sgn w c))
  | .ceq => maskElem w (decide (a = c))
  | .cltn => maskElem w (decide (a < c))
  | .clz => clzBits (BitVec.ofNat w c)
  | .ffs => ffsBits (BitVec.ofNat w c)
  | .pop => popBits (BitVec.ofNat w c)
  | .sel => if 2 ^ (w - 1) ≤ b then a else c
  | _ => 0

/-- The float elements of `va` (R205). -/
def vaFloat (o : VaOp) (t : VTy) (l : Nat) (mode : RMode) (a b c : Nat) : Nat :=
  let w := vtyWidth t
  let A := elemVal t a
  let B := elemVal t b
  let C := elemVal t c
  let num (ops : List FVal) (v : Option FVal) : Nat := if anyNan ops then vtyNan t else rndOpt t l mode v
  let choose (lessWins : Bool) : Nat :=
    if A.isNan then (if C.isNan then vtyNan t else c)
    else if C.isNan then a
    else match cmpVal A C with
      | .lt => if lessWins then a else c
      | .gt => if lessWins then c else a
      | .eq => if A.neg = lessWins then a else c
  let cmp (p : Ordering → Bool) : Nat := if anyNan [A, C] then 0 else maskElem w (p (cmpVal A C))
  match o with
  | .mad => num [A, B, C] ((mulVal A B).bind (addVal mode · C))
  | .add => num [A, C] (addVal mode A C)
  | .sub => num [A, C] (addVal mode A C.negate)
  | .mul => num [A, C] (mulVal A C)
  | .min => choose true
  | .max => choose false
  | .abs => c % 2 ^ (w - 1)
  | .neg => c ^^^ 2 ^ (w - 1)
  | .clt => cmp (· == .lt)
  | .cle => cmp (· != .gt)
  | .ceq => cmp (· == .eq)
  | .exp2 => specialElem .exp2 t l mode c
  | .rcp => specialElem .rcp t l mode c
  | .rsq => specialElem .rsqrt t l mode c
  | .sel => if 2 ^ (w - 1) ≤ b then a else c
  | _ => 0

/-- One element converted from one type to another (R206). -/
def convElem (s t : VTy) (l : Nat) (mode : RMode) (x : Nat) : Nat :=
  let ws := vtyWidth s
  let wd := vtyWidth t
  if vtyFloat t then rndElem t l mode (if vtyFloat s then elemVal s x else ofInt (sgn ws x) 0 false)
  else if vtyFloat s then wrap wd (toSigned wd mode (elemVal s x)).1
  else wrap wd (clampInt wd (sgn ws x))

/-- The vector of `cvt` and `cvto` (R206); `mode` is RTO for `cvto`. -/
def cvtVec (t : VTy) (l : Nat) (mode : RMode) (a c : Vec) : Vec :=
  let s := vtyOf (a.toNat % 8)
  let p := (a.toNat / 8) % 8
  let ws := vtyWidth s
  let wd := vtyWidth t
  let src := lanes ws c
  if ws ≤ wd then
    let nd := 256 / wd
    join wd (((src.drop (p % (wd / ws) * nd)).take nd).map (convElem s t l mode))
  else
    let ns := 256 / ws
    join wd (List.replicate (p % (ws / wd) * ns) 0 ++ src.map (convElem s t l mode))

/-- The result of a `va` operation in member `mem` (R205 to R207). -/
def vaResult (o : VaOp) (t : VTy) (l : Nat) (mode : RMode) (mem : Nat) (a b c : Vec) : Vec :=
  let w := vtyWidth t
  let n := 256 / w
  let A := lanes w a
  let B := lanes w b
  let C := lanes w c
  let a0 := a.toNat % 2 ^ 64
  let c0 := C.headD 0
  match o with
  | .cvt => cvtVec t l mode a c
  | .cvto => cvtVec t l .rto a c
  | .whileOp => join w ((List.range n).map fun j =>
      maskElem w (decide (sgn 64 a0 + (mem * n + j : Nat) < sgn 64 (c.toNat % 2 ^ 64))))
  | .iota => join w ((List.range n).map fun j =>
      let i := mem * n + j
      if vtyFloat t then
        (if (elemVal t c0).isNan then vtyNan t else rndOpt t l mode (addVal mode (elemVal t c0) (ofInt i 0 false)))
      else wrap w (c0 + i))
  | .dup => join w (List.replicate n (C.getD (a0 % n) 0))
  | _ => join w ((List.range n).map fun j =>
      let x := A.getD j 0
      let y := B.getD j 0
      let z := C.getD j 0
      if vtyFloat t then vaFloat o t l mode x y z else vaInt o w x y z)

/-- Whether a `va` operation raises the precision-exhausted trap (R204). -/
def vaPrec (o : VaOp) (t : VTy) (bc : Nat) (sx : Bool) : Bool :=
  let rounds : Bool := match o with
    | .mad | .add | .sub | .mul | .exp2 | .rcp | .rsq | .iota | .cvt | .cvto => vtyFloat t
    | _ => false
  let special : Bool := match o with
    | .exp2 | .rcp | .rsq => true
    | _ => false
  (rounds && decide (vtyCap t < bc)) || (special && t = .w64 && decide (23 < bc) && !sx)

/-- The latency in slots of a `va` operation (R58, R205). -/
def vaLatency : VaOp → Nat
  | .exp2 | .rcp | .rsq => 8
  | _ => 4

/-! ## Across the lanes of a gang -/

/-- The control word of a `vx` operation (R208). -/
structure VxCtl where
  t : VTy
  s : Int
  vreg : Nat
  nw : Nat
deriving DecidableEq, Repr

/-- Read a control word (R208). -/
def vxCtl (k : Word) : VxCtl :=
  { t := vtyOf (k.toNat % 8), s := (fld k 8 24).toInt, vreg := (k.toNat / 2 ^ 32) % 16, nw := (k.toNat / 2 ^ 36) % 4 }

/-- Add two float elements, rounding once (R209). -/
def addElem (t : VTy) (l : Nat) (mode : RMode) (x y : Nat) : Nat :=
  if anyNan [elemVal t x, elemVal t y] then vtyNan t else rndOpt t l mode (addVal mode (elemVal t x) (elemVal t y))

/-- One level of the fixed tree: adjacent pairs added (R209). -/
def pairUp (f : Nat → Nat → Nat) : List Nat → List Nat
  | x :: y :: r => f x y :: pairUp f r
  | l => l

/-- The fixed tree of additions (R209). -/
def treeSum (f : Nat → Nat → Nat) : Nat → List Nat → Nat
  | 0, l => l.headD 0
  | fuel + 1, l => match l with
    | [x] => x
    | l => treeSum f fuel (pairUp f l)

/-- Partial sums from the left (R209). -/
def scanFrom (f : Nat → Nat → Nat) : Nat → List Nat → List Nat
  | _, [] => []
  | acc, x :: r => let y := f acc x; y :: scanFrom f y r

/-- A rank that orders elements as R209 does: integers signed, −0 below +0, NaN below every number. With `zeq`, −0 and
+0 rank alike (R212). -/
def rankElem (t : VTy) (zeq : Bool) (x : Nat) : Option Int :=
  let w := vtyWidth t
  if !vtyFloat t then some (sgn w x)
  else if (elemVal t x).isNan then none
  else
    let mag : Int := (x % 2 ^ (w - 1) : Nat)
    some (if 2 ^ (w - 1) ≤ x then (if zeq then -mag else -mag - 1) else mag)

/-- Whether one rank lies above another; NaN lies below every number. -/
def rankLt : Option Int → Option Int → Bool
  | none, some _ => true
  | some a, some b => decide (a < b)
  | _, none => false

/-- The first index whose element ranks highest (R209). -/
def argMaxFrom (t : VTy) : List Nat → Nat → Nat → Nat → Nat
  | [], _, best, _ => best
  | x :: r, i, best, bx => if rankLt (rankElem t false bx) (rankElem t false x) then argMaxFrom t r (i + 1) i x
      else argMaxFrom t r (i + 1) best bx

/-- The last index whose element ranks lowest (R209). -/
def argMinFrom (t : VTy) : List Nat → Nat → Nat → Nat → Nat
  | [], _, best, _ => best
  | x :: r, i, best, bx => if rankLt (rankElem t false bx) (rankElem t false x) then argMinFrom t r (i + 1) best bx
      else argMinFrom t r (i + 1) i x

/-- The elements packed by a mask, in order. -/
def packMask (w : Nat) : List Nat → List Nat → List Nat
  | m :: ms, x :: xs => if 2 ^ (w - 1) ≤ m then x :: packMask w ms xs else packMask w ms xs
  | _, _ => []

/-- The elements spread by a mask; 0 where it is clear. -/
def spreadMask (w : Nat) : List Nat → List Nat → List Nat
  | [], _ => []
  | m :: ms, xs => if 2 ^ (w - 1) ≤ m then xs.headD 0 :: spreadMask w ms xs.tail else 0 :: spreadMask w ms xs

/-- A result of a `vx` operation: the gang's `vx.r` elements, and the word every i32 element of `vx.q` takes where the
operation has one. -/
structure VxOut where
  r : List Nat
  q : Option Nat
deriving DecidableEq, Repr

/-- The cross-lane results of `vx`, on the gang's elements (R208, R209). The neighbour read and the top-k operations are
not among them. -/
def vxLanes (o : VxOp) (k : VxCtl) (l : Nat) (mode : RMode) (A C : List Nat) : VxOut :=
  let w := vtyWidth k.t
  let g := C.length
  let at_ (x : List Nat) (i : Nat) : Nat := x.getD i 0
  let gen (f : Nat → Nat) : List Nat := (List.range g).map f
  let add := if vtyFloat k.t then addElem k.t l mode else fun x y => wrap w (x + y)
  match o with
  | .perm => ⟨gen fun i => at_ C (at_ A i % g), none⟩
  | .rot => ⟨gen fun i => at_ C (((i : Int) - k.s) % (g : Int)).toNat, none⟩
  | .shift => ⟨gen fun i => let j : Int := (i : Int) - k.s; if 0 ≤ j ∧ j < g then at_ C j.toNat else 0, none⟩
  | .zip =>
    let h := (k.s % 2).toNat * (g / 2)
    ⟨gen fun i => if i % 2 = 0 then at_ A (h + i / 2) else at_ C (h + i / 2), none⟩
  | .unzip =>
    let b := (k.s % 2).toNat
    ⟨gen fun i => if i < g / 2 then at_ A (2 * i + b) else at_ C (2 * (i - g / 2) + b), none⟩
  | .rsum => ⟨List.replicate g (treeSum add 12 C), none⟩
  | .rmax => ⟨List.replicate g (at_ C (argMaxFrom k.t C 0 0 (C.headD 0))), none⟩
  | .rmin => ⟨List.replicate g (at_ C (argMinFrom k.t C 0 0 (C.headD 0))), none⟩
  | .scan =>
    match C with
    | [] => ⟨[], none⟩
    | x :: r =>
      let y := if vtyFloat k.t then rndElem k.t l mode (elemVal k.t x) else x
      ⟨y :: scanFrom add y r, none⟩
  | .amax => let i := argMaxFrom k.t C 0 0 (C.headD 0); ⟨List.replicate g (at_ C i), some i⟩
  | .cmpr => let p := packMask w A C; ⟨p ++ List.replicate (g - p.length) 0, some p.length⟩
  | .expd => ⟨spreadMask w A C, none⟩
  | .nbr | .tkclr | .tk | .tkrd => ⟨List.replicate g 0, some 0⟩

/-- Whether a `vx` operation raises the precision-exhausted trap (R204). -/
def vxPrec (o : VxOp) (k : VxCtl) (bc : Nat) : Bool :=
  match o with
  | .rsum | .scan => vtyFloat k.t && decide (vtyCap k.t < bc)
  | _ => false

/-- The latency in slots of a `vx` operation in a gang of `c` cores (R58, R208). -/
def vxLatency (c : Nat) : Nat := 6 + 2 * c.log2

/-! ## Top-k selection -/

/-- The top-k state of a watch: type, limit and ranked pairs (R212). -/
structure TopK where
  t : VTy
  k : Nat
  pairs : List (Nat × Nat)
deriving DecidableEq, Repr

/-- Whether pair `p` ranks above pair `q` (R212). -/
def pairAbove (t : VTy) (p q : Nat × Nat) : Bool :=
  let a := rankElem t true p.1
  let b := rankElem t true q.1
  rankLt b a || (!rankLt a b && decide (p.2 < q.2))

/-- Insert a pair into a ranked list, after those that rank alike. -/
def rankInsert (t : VTy) (p : Nat × Nat) : List (Nat × Nat) → List (Nat × Nat)
  | [] => [p]
  | q :: r => if pairAbove t p q then p :: q :: r else q :: rankInsert t p r

/-- The `k` highest-ranked pairs of the state's and the gang's candidates (R213). -/
def tkStep (s : TopK) (base : Nat) (C : List Nat) : TopK :=
  if s.k = 0 then s
  else { s with pairs := ((C.zipIdx).foldl (fun acc e =>
      let p := (e.1, (base + e.2) % 2 ^ 32)
      if acc.contains p then acc else (rankInsert s.t p acc).take s.k) s.pairs) }

/-- The values and indices that `tkrd` reads in member `mem` (R213). -/
def tkRead (s : TopK) (q : Nat) (mem : Nat) : Vec × Vec :=
  let w := vtyWidth s.t
  let n := 256 / w
  (join w ((List.range n).map fun j => ((s.pairs[q + mem * n + j]?).map Prod.fst).getD 0),
   join 32 ((List.range 8).map fun j => ((s.pairs[q + mem * 8 + j]?).map Prod.snd).getD 0xFFFFFFFF))

end Sys2Proof.Machine
end

