-- ==== Sys2Proof/Machine/State.lean ====
section
/-!
DEFINITION. The state of the machine, as plain data, its stops, and the state after power-on reset.
-/
namespace Sys2Proof.Machine

/-! ## Watches -/

/-- The states of a watch (R118). -/
inductive WSt where
  | free | ready | issuing | parked | paused | halted
deriving DecidableEq, Repr

/-- What follows once a parked watch's results have landed: the marker alone (R63), or what the word that parked it
does there (R146, R147, R194, R199, R381, R382). -/
inductive After where
  | marker | done | reque | gend | glead | gfollow | tret | idle
deriving DecidableEq, Repr

/-- A bead window: its capacity in pips, the values of its bound registers, and whether it is spilled (R161 to R167). -/
structure Window where
  cap : Nat
  vals : Vector (Option Word) 16
  spilled : Bool
deriving DecidableEq, Repr

/-- A timed result in flight: the slot it lands in, the unit, its value, the C2 register it also lands in, the flags it
raises, and the word and op8 that a trap on them names (R58, R108, R179, R180). -/
structure Flight where
  due : Nat
  unit : FUnit
  val : Word
  vec : Vec
  q : Option Vec
  xd : Option XReg
  fl : BitVec 6
  op8 : Nat
  pc : Word
deriving DecidableEq, Repr

/-- A parked trigger's result that awaits the marker (R61): its place in trigger order, its unit, value
and status, and the flags of an `stt` (R258). -/
structure ParkRes where
  ord : Nat
  unit : FUnit
  val : Word
  st : Nat
  fl : BitVec 6
  pc : Word
deriving DecidableEq, Repr

/-- A deferred fault of the region (R376): its place in trigger order, cause, trigger word and value. -/
structure Deferred where
  ord : Nat
  cause : Nat
  pc : Word
  val : Word
deriving DecidableEq, Repr

/-- An active loop level: its remaining passes, and its body as first word, last word and the word after (R113). -/
structure Loop where
  count : Word
  first : Word
  last : Word
  next : Word
deriving DecidableEq, Repr

/-- The data register of a load. -/
inductive LReg where
  | x (r : XReg) | v (r : VReg) | f (r : FReg) (depth : Nat)
deriving DecidableEq, Repr

/-- A register-delivered load of the region that has not been delivered (R62): its place in the region's order, its
register, its bytes, how many and whether they are sign-extended, its place `off` in the bytes of the word, how many
pieces of it have still to come, the byte lanes of a v register that no later write of the region has taken, none for an `ldf`
that a later transport has overtaken, and the word
and effective address of an `ldf` (R163). A pair load has two entries. -/
structure PLoad where
  ord : Nat
  reg : LReg
  raw : Vec
  size : Nat
  signed : Bool
  off : Nat
  need : Nat
  lanes : Pred
  pc : Word
  ea : Word
deriving DecidableEq, Repr

/-- The port image of a watch (R371). Scalar latches stand in the order of `Latch.table`; the vector latches are
`va.a`, `va.b`, `vx.a`, `vx.b`; the timed ports are `ia im fa fd sf` and `va.r vx.r vx.q`; the parked ports are
`mx ls at ms ce tb sy`. `waits` lists what
the marker still waits for, by ticket, with the unit of a parked trigger. `loops` holds the active levels, innermost
first, `csrs` the CSR writes of `sy.wr` that take effect when the region's parked results land (R378), `landed` the flags that
landed in the present slot (R179), `regs` the registers that the region's `aread` triggers write at its marker (R236). -/
structure Image where
  latch : Vector Word 28
  vlatch : Vector Vec 4
  tport : Vector Word 5
  vport : Vector Vec 3
  pport : Vector Word 7
  pst : Word
  flights : List Flight
  slot : Nat
  results : List ParkRes
  faults : List Deferred
  waits : List (Nat × Option FUnit)
  loops : List Loop
  csrs : List (Nat × Word)
  landed : BitVec 6
  regs : List PLoad
deriving DecidableEq, Repr

/-- A writer's enrolment in a keeping region (R294, R322): the region, its writer slot, its generation, and the clock,
one counter for each of the region's 64 slots. -/
structure Enrol where
  valid : Bool
  region : Nat
  slot : Nat
  gen : Nat
  clock : Tbl Nat
deriving DecidableEq, Repr

/-- The dot that a store has taken in a region when it issued, as its counter, with the enrolment as it stood before (R299). -/
structure Stamp where
  region : Nat
  cnt : Nat
  old : Enrol
deriving DecidableEq, Repr

/-- A tensor header: 64 bytes, byte 0 lowest (R175). -/
abbrev Header := BitVec 512

/-- A neighbour read in progress (R210): the cycle of its trigger, the core and watch asked, the v register, and the
flight that receives it. -/
structure NbrRead where
  since : Nat
  core : Nat
  wid : Nat
  vreg : Nat
  done : Bool
deriving DecidableEq, Repr

/-! ## Accesses of a watch on their way -/

/-- What tells the loads apart: bytes, sign extension, the alignment they demand, whether they are keeping loads, read at
the home as an acquire, read the read-only path, or may lie anywhere in its cells, as a bead element may (R174, R280, R286,
R288, R304). -/
structure LoadForm where
  size : Nat
  signed : Bool := false
  align : Nat := 1
  keep : Bool := false
  acquire : Bool := false
  readOnly : Bool := false
  loose : Bool := false
deriving DecidableEq, Repr

/-- What tells the stores apart (R280, R285, R289); a store of a bead element leaves `low` bits of its first byte and `high` bits
of its last one as they are, and may lie anywhere in its cells (R174). -/
structure StoreForm where
  align : Nat := 1
  release : Bool := false
  nt : Bool := false
  loose : Bool := false
  low : Nat := 0
  high : Nat := 0
deriving DecidableEq, Repr

/-- A datum in the class of its source (R52). -/
inductive Datum where
  | scalar (w : Word) | float (w : Word) | vector (v : Vec) | pred (p : Pred)
deriving DecidableEq, Repr

/-- Where an access goes: a page of memory, or a board's store (R245). -/
inductive Place where
  | mem (pa : Nat) (e : Word)
  | bank (board off : Nat)
  | slot (core off : Nat)
deriving DecidableEq, Repr

/-- An access or another thing that a core's memory path performs (R290): a load or a store with its address and its pieces, each
its place, address, place in the access and length, a load with the bytes that a flip has fixed for it (R338), a store with the dots
that it has taken (R299); a trigger of a parked unit with its datum, x1 to x4, the tensor that it names as it stood at the trigger
(R258) and the dots of its store; a fence with the links it waits on; a write-back; `roinv`. -/
inductive HeldAct where
  | load (f : LoadForm) (va : Nat) (ps : List (Place × Nat × Nat × Nat)) (old : List (Nat × Byte))
  | store (f : StoreForm) (va : Nat) (bytes : List Byte) (ps : List (Place × Nat × Nat × Nat)) (dots : List Stamp)
  | trig (o : UOp) (d : Datum) (xs : Vector Word 4) (h : Option Header) (dots : List Stamp)
  | fence (kind scope : Nat) (waited : List Nat)
  | wb (a n : Nat)
  | roinv
deriving DecidableEq, Repr

/-- What waits in the memory path, with the place in the region's order, the word, the scalar latches and the `fst` that it issued
with. -/
structure Held where
  ticket : Nat
  ord : Nat
  pc : Word
  latch : Vector Word 28
  fst : Word
  act : HeldAct
deriving DecidableEq, Repr

/-- A watch (R20, R21, R118). `part` is the partition of its task, `launch` the pending-launch entry of its lineage,
`ord` numbers the region's loads and parked triggers, `gang` is the leader watch's number (core × 4 + wid),
and `fseed` numbers the free values that its unbound f registers hold (R20, R162). `fpc` and
`floops` are where a gang follower goes on when its gang dissolves (R199), `rargs` the arguments of a `reque` (R147).
`appended` lists what the task has appended to chains, by header and sequence number (R33),
`path` holds, in order, the accesses that a fence, or a store of the watch's own, holds in
the core's memory path (R278, R290), `syncOrd` is the place in the region's order of its last `isync`, whose later fetches come after
the loads before it (R416), `passDue` is a body's last word that has issued and whose pass has not ended yet (R113), `markPc` the marker word it
parked at. `faultsDue` says that the saved region's marker has been performed, so that its faults are taken before `tnext`
issues (R376). -/
structure Watch where
  st : WSt
  prior : WSt
  readyAt : Option Nat
  pauseCnt : Nat
  pauseEnd : Nat
  after : After
  x : Vector Word 32
  v : Vector Vec 16
  g : Vector Pred 8
  windows : List Window
  fseed : Nat
  pc : Word
  img : Image
  saved : Option Image
  loads : List PLoad
  ord : Nat
  syncOrd : Nat
  path : List Held
  appended : List (Word × Nat)
  bc : Nat
  fst : Word
  sib : Word
  tk : TopK
  mp : Word
  oid : Word
  lnch : Word
  gph : Word
  part : Nat
  launch : Nat
  slotNo : Nat
  tcause : Word
  taddr : Word
  tnext : Word
  tval : Word
  hm : Bool
  marker : Bool
  dfr : Bool
  faultsDue : Bool
  tgang : Bool
  abn : Bool
  tsa0 : Word
  tsa1 : Word
  savedAfter : After
  fpTrap : Option Deferred
  nlend : BitVec 16
  nbt : BitVec 16
  quota : Nat
  pins : List (Nat × Nat)
  taken : List (Nat × Nat × Nat)
  kenr : Vector Enrol 4
  fpc : Word
  floops : List Loop
  rargs : Vector Word 4
  gang : Option Nat
  gp : Nat
  gs : Nat
  claim : Nat
  cancelled : Bool
  nbr : Option NbrRead
  passDue : Option Word
  markPc : Word
deriving DecidableEq, Repr

/-! ## Cores -/

/-- How a queued or running task came about (R122, R124). -/
inductive EKind where
  | index | notify | task | call | reply | code | wake
deriving DecidableEq, Repr

/-- A run-queue entry or the entry of a running task (R120, R122, R123): its kind, class now and when first queued, its
lineage, handler, arguments, object and code length, and when its age began, in cycles and in bell ticks, with the
promotions aging has made (R40). -/
structure Task where
  kind : EKind
  cls : Nat
  cls0 : Nat
  part : Nat
  launch : Nat
  gen : Nat
  handler : Word
  args : Vector Word 4
  oid : Word
  aux : Nat
  sinceC : Nat
  sinceB : Nat
  steps : Nat
deriving DecidableEq, Repr

/-- What holds one of a core's 64 slots (R120). A cursor stands for the indices `first`, `first + step`, … of a launch,
`left` of them. -/
inductive Slot where
  | free
  | queued (t : Task)
  | cursor (t : Task) (first step left : Nat)
  | running (t : Task)
deriving DecidableEq, Repr

/-- A line of the write-combining buffer: address, the bytes written, the watch and cycle of its last write (R271), and whether
its page is HOST-C (R397). -/
structure WcLine where
  line : Nat
  bytes : Tbl (Option Byte)
  wid : Nat
  since : Nat
  hostC : Bool
deriving DecidableEq, Repr

/-- A copied line of instruction memory (R99): a virtual line address and its 64 bytes. -/
structure FetchLine where
  line : Nat
  bytes : List Byte
deriving DecidableEq, Repr

/-- A TLB entry (R366): the partition and page it maps, the page's size in bytes, and the page-table entry. -/
structure TlbEntry where
  part : Nat
  page : Nat
  size : Nat
  pte : Word
  used : Nat
deriving DecidableEq, Repr
/-! ## Macros and rods -/

/-- The format a tile slot holds (R215). -/
inductive TileFmt where
  | empty | dense | sp48 | sp28 | vec
deriving DecidableEq, Repr

/-- A tile slot (R215, R216, R234). Weights stand by logical row × 64 + column; the vectors of a VEC slot by batch
× 1,024 + element. Scales stand by slice, for VEC by batch × 8 + slice, 1.0 where none is listed. `remap` lists the
column or batch paths mapped to spares; `setId` names the `mvset` that wrote a VEC slot. -/
structure Tile where
  fmt : TileFmt
  w : Tbl Byte
  masks : Tbl Byte
  scales : Tbl Nat
  kbase : Nat
  setId : Nat
  remap : List Nat
deriving DecidableEq, Repr

/-- A physical error still to show on one column or batch path of a slot: what it adds to the first and to the second
evaluation of the next row and slice, in units of 2^−18 (R225). Set from outside the machine. -/
structure ColErr where
  slot : Nat
  path : Nat
  first : Int
  second : Int
deriving DecidableEq, Repr

/-- A core's macro (R215, R216, R236). Accumulators stand by row × 64 + column as binary32. `lost` lists scale sequence
numbers that a coming fetch pairs wrongly, `bad` the slots (s) and accumulator rows (16 + r) with an uncorrectable
error: both are physical events from outside. `counts` are the counters of `mchk` selectors 0 to 4. -/
structure Mac where
  tiles : Tbl Tile
  acc : Tbl Nat
  errs : List ColErr
  lost : List Nat
  bad : List Nat
  seq : Nat
  counts : Vector Nat 5
deriving DecidableEq, Repr

/-- An `mx` trigger that has joined its rod's queue (R217): its core and watch, ticket, trigger order, word, operands. -/
structure MxTrig where
  core : Nat
  wid : Nat
  ticket : Nat
  ord : Nat
  pc : Word
  op : MxOp
  a : Word
  b : Word
  c : Word
  d : Word
deriving DecidableEq, Repr

/-- What a rod operation reports to one core (R218, R219, R226, R227): the trigger, `mx.r`, its status, a fault, and the
accumulator row an `aread` delivers from register `vd` on. -/
structure RodOut where
  trig : MxTrig
  val : Word
  st : Nat
  fault : Option (Nat × Word)
  regs : List (Nat × Vec)
deriving DecidableEq, Repr

/-- A rod operation under way: the cycle it can end in (R237), and what each core's trigger then receives. -/
structure RodRun where
  ends : Nat
  outs : List RodOut
deriving DecidableEq, Repr

/-- A rod (R215, R217): the row buffer by row × 128 + element, its scales, triggers waiting, operations running. -/
structure Rod where
  rows : Tbl Byte
  scales : Tbl Nat
  waiting : List MxTrig
  running : List RodRun
deriving DecidableEq, Repr

/-! ## Boards -/

/-- A 64-byte line, byte 0 lowest (R2). -/
abbrev Line := BitVec 512

/-- The states of a FIFO slot (R252): RESERVED with its byte count, TAKEN by a watch, in the order it was taken. -/
inductive FSlot where
  | free
  | reserved (count : Nat)
  | complete
  | taken (watch ord : Nat)
deriving DecidableEq, Repr

/-- A watch whose `push` or `pop` waits at a bank, or an engine chain whose reservation does (R252, R253): the watch
number, ticket and trigger order, and the window base its address is reported in. -/
structure Waiter where
  watch : Nat
  ticket : Nat
  ord : Nat
  base : Nat
deriving DecidableEq, Repr

/-- A mode change on its way to a bank controller (R251, R263). -/
structure ModeReq where
  mode : Nat
  z : Nat
  watch : Nat
  ticket : Nat
  ord : Nat
deriving DecidableEq, Repr

/-- A bank (R246, R247, R252): mode (0 WAY, 1 PAD, 2 FIFO, 3 KEEP), FIFO size code, lock, reserve mark, head and tail
indices, slot states (FREE where none is listed), waiting reservations and takes, and mode changes not yet effective. -/
structure Bank where
  mode : Nat
  z : Nat
  locked : Bool
  reserve : Bool
  head : Nat
  tail : Nat
  slots : Tbl FSlot
  pushes : List Waiter
  takes : List Waiter
  changes : List ModeReq
deriving DecidableEq, Repr

/-- A line in a WAY bank (R248, R255, R269, R270): its bank, its bytes, when it was last used, the watches that pin it, and
for each 4-byte word whether it is valid and whether it is dirty. -/
structure WayLine where
  bank : Nat
  data : Line
  used : Nat
  pins : List Nat
  valid : BitVec 16
  dirty : BitVec 16
deriving DecidableEq, Repr

/-- An unfinished bulk prefetch (R256, R260): its range, token cell, partition, and the watch whose accesses it makes. -/
structure Prefetch where
  ticket : Nat
  start : Word
  len : Nat
  cell : Word
  part : Nat
  core : Nat
deriving DecidableEq, Repr

/-- A 64-byte message on the mesh, in a router, in the overflow area or in fallout (R124, R130, R388). `launch` and
`part` give its lineage; `watch`, `ticket` and `ord` name the trigger that awaits its status; `router` is the board whose router
has a place for it and `since` the cycle it reaches that router (R12, R388), or, of a wake entry, that of its home's last offer
(R131). Tickets order the messages of one source (R41). -/
structure Msg where
  ticket : Nat
  words : Vector Word 8
  part : Nat
  launch : Nat
  gen : Nat
  watch : Nat
  ord : Nat
  router : Nat
  since : Nat
deriving DecidableEq, Repr

/-- Convergence counts: deposits counted and the largest magnitude of residual, in transport form (R138, R139). -/
structure Conv where
  count : Nat
  maxres : Word
deriving DecidableEq, Repr
/-! ## Memory on its way -/

/-- A store in flight from a core to its home (R270): the bytes by physical address, whether the home has applied it,
and the boards that hold the line and have not applied it yet. `nt` marks a non-temporal store (R285); `waits` names the
watch whose region waits for it under its ticket (R272), none for a drained line; `atHome` says that the home's line is in miss
and has recorded it (R356), `since` when it left its core, `hostC` that the bridge must own its line (R397). -/
structure StoreFl where
  ticket : Nat
  core : Nat
  bytes : List (Nat × Byte)
  applied : Bool
  sharers : List Nat
  nt : Bool
  waits : Option Nat
  atHome : Bool
  since : Nat
  hostC : Bool
deriving DecidableEq, Repr

/-- Words forwarded to a sharer board and not applied there yet (R270). -/
structure Update where
  ticket : Nat
  board : Nat
  bytes : List (Nat × Byte)
  since : Nat
deriving DecidableEq, Repr

/-- How a slice stores a line (R355). -/
inductive LineEnc where
  | raw | zero | rep8 | b4d1 | b8d2
deriving DecidableEq, Repr

/-- A slice's tag of a line (R354 to R358): the boards recorded as holding it (up to four exactly, else eight groups by
a mask), its valid and dirty 4-byte words (R269), when it was last used, the data entry it stands in, which half of it (none:
the whole), how it is stored, and whether it is of a KEEP page. -/
structure SliceLine where
  sharers : List Nat
  mask : Option Nat
  valid : BitVec 16
  dirty : BitVec 16
  used : Nat
  entry : Nat
  half : Option Bool
  enc : LineEnc
  keep : Bool
deriving DecidableEq, Repr

/-- A piece of a load of watch `watch` that has not been performed (R275, R356): its ticket, the load's place in the region's
order, word and form, the piece's virtual address, its place `lo` in the access, physical address, length and page entry,
the bytes that the core's own stores have given it (R268), and those that a flip has fixed for it (R338). -/
structure LoadReq where
  ticket : Nat
  watch : Nat
  ord : Nat
  pc : Word
  va : Word
  lo : Nat
  addr : Nat
  len : Nat
  pte : Word
  form : LoadForm
  got : List (Option Byte)
  old : List (Nat × Byte)
deriving DecidableEq, Repr

/-- A request recorded for a line in miss (R356): a load, or by its ticket a store with its bytes, a stamped store, or an
atomic with its operands. -/
inductive MissReq where
  | load (q : LoadReq) | store (ticket : Nat) | keep (ticket : Nat) | atomic (ticket : Nat)
deriving DecidableEq, Repr

/-- The route of a fill (R359 to R361): straight from the slice's own pseudo-channel, through its region's crossbar, over the
mesh to another slice's pseudo-channel, or to a channel of an LPDDR6 package. -/
inductive Route where
  | own (stack pc : Nat) | region (stack pc : Nat) | mesh (stack pc : Nat) | lpddr (package channel : Nat)
deriving DecidableEq, Repr

/-- A line being filled, the route of its fill, and up to eight requests recorded for it in arrival order (R356). -/
structure Miss where
  slice : Nat
  line : Nat
  route : Route
  reqs : List MissReq
deriving DecidableEq, Repr

/-- What a board-store access does (R246): a load of `len` bytes, or a store of the bytes given, of which it writes the bits that
the masks name (R174). -/
inductive BankAcc where
  | load
  | store (bytes masks : List Byte)
deriving DecidableEq, Repr

/-- A board-store access on its way to its bank controller, and the word it belongs to (R272): the watch, the place in
the region's order, the word, the address, board and offset, the piece's place `lo` and length in the word's bytes, and when it set
out (R273). -/
structure BankReq where
  ticket : Nat
  watch : Nat
  ord : Nat
  pc : Word
  va : Word
  board : Nat
  off : Nat
  lo : Nat
  len : Nat
  acc : BankAcc
  since : Nat
deriving DecidableEq, Repr
/-! ## Keeping memory -/

/-- One value of a KEEP cell: its bytes, its dot as writer slot and counter, the mark and ragged bits, and the clock a
`strel` attached (R296, R302, R315). -/
structure CellVal where
  val : BitVec 32
  slot : Nat
  cnt : Nat
  mark : Bool
  ragged : Bool
  clock : Option (Tbl Nat)
deriving DecidableEq, Repr

/-- States of a region's writer slot (R293, R294): HELD by a watch; HELD still, by an enrolment that has ended, for stores of its
that their homes have not decided (R321). -/
inductive KSlot where
  | free
  | held (watch : Nat)
  | leaving
  | retired
deriving DecidableEq, Repr

/-- A keeping region of a partition (R293, R308, R309): writer limit, slot states (FREE where none is listed) and
counters, compaction due, the mark that a slice's list overflowed
(R306; log 58), and its cells that a stamped store, an atomic or a reconcile has changed. -/
structure Region where
  limit : Nat
  slots : Tbl KSlot
  counters : Tbl Nat
  due : Bool
  scan : Bool
  cells : List Nat
deriving DecidableEq, Repr

/-- A writer clock a home caches, by partition, region, slot and generation (R301). -/
structure CachedClock where
  home : Nat
  part : Nat
  region : Nat
  slot : Nat
  gen : Nat
  clock : Tbl Nat
deriving DecidableEq, Repr

/-- A stamped store on its way to its home or refused and waiting to be retried (R299 to R301, R307). `masks` names the bits of each byte that it
writes (R174); `clock` is what the
core pushes; `pushed` says that it has; `due` is the cycle of the next retry, `tries` how many were made; `atHome` says that its
line is in miss and has recorded it (R356), `since` when it set out (R273). -/
structure KeepReq where
  ticket : Nat
  watch : Nat
  ord : Nat
  pc : Word
  va : Word
  bytes : List (Nat × Byte)
  masks : List Byte
  part : Nat
  region : Nat
  slot : Nat
  cnt : Nat
  gen : Nat
  clock : Tbl Nat
  attach : Bool
  pushed : Bool
  wantPush : Bool
  tries : Nat
  due : Nat
  atHome : Bool
  since : Nat
deriving DecidableEq, Repr

/-- An atomic, reconcile, sibling read or snap on its way to its home (R311 to R320). `keep` names the region of a KEEP
page, `slot` the reconciler's writer slot; `atHome` says that its line is in miss and has recorded it (R356). -/
structure AtReq where
  ticket : Nat
  watch : Nat
  ord : Nat
  pc : Word
  op : AtOp
  va : Word
  pa : Nat
  size : Nat
  b : Word
  c : Word
  part : Nat
  keep : Option Nat
  slot : Option Nat
  board : Bool
  atHome : Bool
deriving DecidableEq, Repr
/-! ## Engines -/

/-- How far a captured entry has come (R329): captured, started, its work done and not yet ended. -/
inductive EntSt where
  | captured | running | worked
deriving DecidableEq, Repr

/-- A captured command-chain entry (R326, R328): its address, sequence number, words 0 to 5 and copied tensor entries,
its state, and the status it will end with. `t` is a bell time it waits for, `slot` a FIFO slot it has reserved, and
`member` the rank that appended it to a collective chain. -/
structure ChEntry where
  addr : Word
  seq : Nat
  words : Vector Word 6
  src : Option Header
  dst : Option Header
  st : EntSt
  code : Nat
  flags : BitVec 6
  result : Word
  late : Bool
  t : Nat
  slot : Option Nat
  member : Nat
deriving DecidableEq, Repr

/-- A command chain (R325, R329): its header's address, its partition, the engine (a board, or 1,024 + die), the words
the engine keeps in the header, its entries that have not ended, for a group's chain the group, and whether it has been halted
since it last held no entry. -/
structure Chain where
  header : Word
  part : Nat
  eng : Nat
  done : Nat
  tseq : Nat
  errs : Word
  entries : List ChEntry
  group : Option Nat
  halted : Bool
deriving DecidableEq, Repr

/-- A group of a collective (R145, R341): its chain header and members in rank order. -/
structure Group where
  header : Word
  form : Nat
  members : List Nat
deriving DecidableEq, Repr

/-- A SNAP under way (R340): the entry that asked for it, its objects, destination, stride, hold time, whether the hold
has begun, and the deposits deferred, in arrival order. -/
structure Snap where
  part : Nat
  eng : Nat
  chain : Word
  seq : Nat
  ids : List Word
  dest : Word
  stride : Nat
  t : Nat
  held : Bool
  deferred : List Msg
deriving DecidableEq, Repr

/-- A watch that waits for a condition of an engine, a chain or a pair: `wseq`, `halt` or `pub` (R345 to R347). -/
structure CeWait where
  ticket : Nat
  watch : Nat
  ord : Nat
  pc : Word
  op : CeOp
  header : Word
  n : Word
deriving DecidableEq, Repr
/-! ## Slices, domains, requests to homes -/

/-- An interleave domain's registers (R352): count exponent, members, masks H0 to H5. -/
structure Domain where
  c : Nat
  members : List Nat
  masks : List Nat
deriving DecidableEq, Repr

/-- A domain split that has been armed (R362): the new registers and granules, and its bell time. -/
structure SplitReq where
  d : Nat
  e : Nat
  newD : Domain
  newE : Domain
  granules : List Nat
  t : Nat
  cmd : Nat
deriving DecidableEq, Repr

/-- What a request from outside does at its home: a read of a word, a write of bytes, an atomic of `n` bytes with its operands (R312,
R396, R401). -/
inductive OutAct where
  | read
  | write (bytes : List (Nat × Byte))
  | atomic (o : AtOp) (n : Nat) (b c : Word)
deriving DecidableEq, Repr

/-- A request from outside that reached a slice after the slice had switched (R363): who made it (0 the host, 1 a peer, 2 an Ethernet port), and what
it does at its home, to be replayed there. -/
structure Remap where
  requester : Nat
  addr : Nat
  act : OutAct
deriving DecidableEq, Repr

/-- An add of the device's own that waits for a link that retrains (R399): its partition, the cell's page entry and physical address,
what it adds. -/
structure DevAdd where
  part : Nat
  pte : Word
  addr : Nat
  val : Word
deriving DecidableEq, Repr

/-- A slice (R354 to R358): the tags of its lines by line number, its lines in miss, the secondary queue of up to 64 requests
to lines in miss, and those that the router holds at its edge port. -/
structure Slice where
  tags : Tbl SliceLine
  misses : List Miss
  queue : List (Nat × MissReq)
  port : List (Nat × MissReq)
deriving DecidableEq, Repr
/-! ## Work -/

/-- A pending-launch entry (R25, R26, R32, R140, R142): its generation (kept when it is free), descriptor words, graph and
index in it, whether it is bound to a notify page, its completion counter, and the cursors still to be placed as core,
first index, step and count. -/
structure Launch where
  used : Bool
  gen : Nat
  started : Bool
  cancelled : Bool
  desc : Vector Word 8
  graph : Nat
  idx : Option Nat
  notify : Bool
  counter : Nat
  toPlace : List (Nat × Nat × Nat × Nat)
deriving DecidableEq, Repr

/-- A graph (R29): in use, closed, cancelled, the indices taken, its unfinished launches, how each ended index ended
(1 normally, 2 cancelled), and the phase it belongs to. -/
structure Graph where
  used : Bool
  closed : Bool
  cancelled : Bool
  next : Nat
  unfinished : Nat
  ended : Tbl Nat
deriving DecidableEq, Repr

/-- A cancel notice on its way to the cores of a partition: the pending-launch entries, with their generations, that it
names, and the bell time at which it set out (R32, R33). -/
structure Notice where
  entries : List (Nat × Nat)
  since : Nat
deriving DecidableEq, Repr

/-- A continuation that waits for a pending-launch entry (R28). -/
structure Cont where
  desc : Vector Word 8
  graph : Nat
deriving DecidableEq, Repr

/-- A notify page (R143, R144): its physical address, launch entry, index count and admitted count, and the writes of its ring
field that have been seen and not acted on, in order. -/
structure NotifyPage where
  pa : Nat
  launch : Nat
  n : Nat
  adm : Nat
  seen : List Nat
deriving DecidableEq, Repr

/-- An armed flip of a night-copy pair (R339): its bell time, and the PUBLISH entry that armed it, if one did. -/
structure Flip where
  t : Nat
  eng : Nat
  chain : Word
  seq : Nat
deriving DecidableEq, Repr

/-- A night-copy pair (R337 to R339): its virtual range, the day and night buffers, the armed flip. -/
structure Pair where
  va : Word
  len : Nat
  day : Nat
  night : Nat
  flip : Option Flip
deriving DecidableEq, Repr

/-- A type-table entry: the image's address and its words as installed (R134). -/
structure TypeEnt where
  addr : Word
  handler : Word
  control : Word
deriving DecidableEq, Repr

/-- A convergence register pair (R139): window, deposits and largest residual. -/
structure Cvr where
  window : Nat
  deposits : Nat
  maxres : Word
deriving DecidableEq, Repr

/-- A partition's run state (R383, R387): running, stopped with a reason, stopped by a gang switch that has not saved it yet,
switched out into frames. -/
inductive Run where
  | running
  | stopped (reason : Nat)
  | leaving
  | switched
deriving DecidableEq, Repr

/-- The job of a partition (R31, R392): the JOB command's sequence number, the completion cell, a cancellation. -/
structure Job where
  cmd : Nat
  cell : Word
  cancelled : Bool
deriving DecidableEq, Repr

/-! ## Firmware and links -/

/-- A completion, as firmware logs it (R404, R406): its status, the sequence number of its command, two results. -/
structure Completion where
  status : Nat
  cmd : Nat
  r2 : Word
  r3 : Word
deriving DecidableEq, Repr

/-- The signed configuration record (R408): signed, serial number, version, disabled rods and slices, repaired columns as core,
column, the clock in 100 MHz steps, the voltage bin, the power cap in watts, the digests of the extensions it lists, the device's
identity certificate, and its own digest. -/
structure Record where
  signed : Bool
  serial : Nat
  version : Nat
  offRods : List Nat
  offSlices : List Nat
  repairs : List (Nat × Nat)
  clock : Nat
  volt : Nat
  cap : Nat
  exts : List (BitVec 256)
  cert : List Byte
  digest : BitVec 256
deriving DecidableEq, Repr

/-- A link (R399, R400): up, the bell time its retrain began, posted writes sent, and the lost window. -/
structure Link where
  up : Bool
  retrain : Option Nat
  sent : Nat
  acked : Nat
  lostFirst : Nat
  lost : Nat
deriving DecidableEq, Repr

/-- The management core and its register block (R395, R404 to R410): completions written, completions waiting for room,
commands taken and not finished, the configuration record in force, the one in boot flash and the extension images there, extensions loaded, save frames
free, interrupts sent, reports to the host as cause, partition and number, the peers of the span-link domain, and what the
last read from outside returned. -/
structure Firmware where
  part : Nat
  fwver : Nat
  rev : Nat
  fwst : Nat
  cqb : Word
  cpb : Word
  cqt : Nat
  fseen : Nat
  cph : Nat
  fcomp : Nat
  log : List Completion
  waiting : List Completion
  taken : List Nat
  record : Record
  flash : Record
  images : List (List Byte)
  exts : List (BitVec 256)
  frames : Nat
  msix : Nat
  reports : List (Nat × Nat × Nat)
  peers : List Nat
  readout : Word
  poison : Bool
deriving DecidableEq, Repr
/-- A core (R97, R120, R160, R215, R384): its watches, slots, buffers, micro-TLB, macro and counters. `loopTag` names
the watch and body whose words the loop buffer holds, by the address of each half (R117), `follows` its watches in `gfollow`, in order (R194), `owed` the
watches that were READY when a gang it follows ended a region, and that have not issued since (R39); `idle` is the cycle from which
it may have been quiet (R412). -/
structure Core where
  watches : Vector Watch 4
  issuing : Option Nat
  lastWid : Nat
  slots : Tbl Slot
  wcb : List WcLine
  fetch : List FetchLine
  loopTag : Option (Nat × Word)
  loopBuf : Tbl (BitVec 16)
  utlb : List TlbEntry
  spills : Nat
  reserve : Nat
  mac : Mac
  cycOff : Nat
  seq : Nat
  hcause : Word
  hbell : Word
  hissue : Nat
  hmsg : Word
  issued : Nat
  rcvd : Nat
  sent : Nat
  gated : Bool
  idle : Nat
  notices : Nat
  claims : List Nat
  follows : List Nat
  owed : List Nat
deriving DecidableEq, Repr

/-- A board (R7, R131, R138, R246 to R256, R264, R366, R388): its banks, cache lines and read-only lines by line number,
pin and bypass counters, TLB, overflow area, the fallout of its router, and the convergence counts of the current window by
partition × 8 + register. -/
structure Board where
  banks : Vector Bank 16
  ways : Tbl WayLine
  ro : Tbl Line
  pinfail : Nat
  bypass : Nat
  tlb : List TlbEntry
  overflow : List Msg
  fallout : List Msg
  conv : Tbl Conv
deriving DecidableEq, Repr

/-- What a gang switch has written into save frames, with the conditions that its watches wait for (R387, R390). -/
structure Frames where
  cores : Tbl Core
  boards : Tbl Board
  rods : Tbl Rod
  bytes : Tbl Byte
  cells : Tbl (List CellVal)
  ceWaits : List CeWait
deriving DecidableEq, Repr

/-- A partition (R18, R405): what PCREATE gave it, its run state, job and phase, its tables, keeping state, convergence
registers, notify pages, the index tasks they have admitted that wait for a slot of their core, cancel notices, and its armed switch or resume and save frames. -/
structure Part where
  rods : List Nat
  domain : Nat
  work : Nat
  ovf : Nat
  spill : Nat
  root : Nat
  tvb : Word
  win : Nat
  linkTrap : Bool
  kdebug : Bool
  run : Run
  dumped : Bool
  job : Option Job
  jobs : List Cmd
  dusk : Nat
  phase : Nat
  phaseOpen : Bool
  phaseClosed : Option Nat
  phaseCancelled : Bool
  tensors : Tbl (Option Header)
  types : Tbl (Option TypeEnt)
  graphs : Tbl Graph
  launches : Tbl Launch
  conts : List Cont
  groups : Tbl (Option Group)
  pairs : Tbl Pair
  regions : Tbl Region
  overflow : Nat
  noclock : Nat
  cvr : Vector Cvr 8
  ended : Option (Nat × Nat × Tbl Conv)
  window : Nat
  pages : Tbl NotifyPage
  admitted : List (Nat × Task)
  notices : List Notice
  armed : Option (Nat × Nat)
  resume : Option (Nat × Nat)
  reserved : Nat
  held : Nat
  short : Nat
  saved : Option Frames
deriving DecidableEq, Repr

/-! ## Moves and the machine -/

/-- What names the subject of an event: plain numbers, a word, a command entry. -/
structure Operand where
  a : Nat
  b : Nat
  c : Nat
  v : Word
  cmd : Cmd
deriving DecidableEq, Repr

/-- One move of the device: the issue point of a core issues a word, an operation or event of the opcode table that has
no encoding takes place, the clock runs for a number of cycles, firmware takes the next command of its ring. -/
inductive Move where
  | issue (core : Nat)
  | event (i : Instr) (o : Operand)
  | tick (cycles : Nat)
  | firmware
deriving DecidableEq, Repr

/-- The machine. `schedule`, `free`, `cur`, `ticket` and `opnd` are the model's own: the moves to come, the number of
free values handed out, the core that issues by default, the tickets handed out, and the operands of the event that
takes place. Memory is one table by physical address; a board's store stands at its remote window address (R245), and
an unlisted byte reads 0. `before` holds the domains and granules that the last split replaced (R363), `linkLoads` the loads that wait for a link that retrains, `adds` the device's own adds that do (R399), `hostDir` the bridge's record of
the boards that hold a line of host memory (R397). `hottest` and `watts` are the sensors that firmware reads (R411). -/
structure State where
  schedule : List Move
  free : Nat
  cur : Nat
  ticket : Nat
  opnd : Operand
  bell : Nat
  cycles : Nat
  clock : Nat
  phase : Nat
  mem : Tbl Byte
  ecc : List Nat
  cells : Tbl (List CellVal)
  cores : Tbl Core
  boards : Tbl Board
  rods : Tbl Rod
  slices : Tbl Slice
  domains : Tbl Domain
  granules : Tbl Nat
  hostVisible : List Nat
  parts : Tbl (Option Part)
  stores : List StoreFl
  updates : List Update
  bankq : List BankReq
  keepq : List KeepReq
  atomq : List AtReq
  clocks : List CachedClock
  msgs : List Msg
  deposits : List Msg
  wakes : List Msg
  prefetches : List Prefetch
  chains : List Chain
  ceWaits : List CeWait
  snaps : List Snap
  split : Option SplitReq
  before : Tbl Domain × Tbl Nat
  remaps : List Remap
  hostOwned : List Nat
  links : Vector Link 12
  linkLoads : List LoadReq
  adds : List DevAdd
  hostDir : Tbl SliceLine
  hottest : Nat
  watts : Nat
  fw : Firmware
deriving DecidableEq, Repr

/-! ## Stops -/

/-- Why the machine stops. -/
inductive Fault where
  /-- Raised by a peer's load (`peerLoad`) of a physical address that R349 says does not exist, for which the specification
  names no answer. Safe: the machine stops. -/
  | noSuchAddress (pa : Nat)
deriving DecidableEq, Repr

/-- Why a step is refused. -/
inductive Refusal where
  /-- Raised by the arms of `exec` that have no meaning yet. Safe: the machine stops. -/
  | notModelled (mnemonic : String)
  /-- Raised by a firmware command in 0x80..0xFF while an extension is loaded: R410 gives the command to the extension
  and does not say what it does. Safe: the machine stops. -/
  | extensionOwned (opcode : Nat)
deriving DecidableEq, Repr

/-! ## Reset values -/

/-- An unbound window of `p` pips per register (R161, R164). -/
def Window.fresh (p : Nat) : Window := ⟨p, .replicate 16 none, false⟩

/-- The port image with every latch and port zero and nothing in flight (R59, R60, R372). -/
def Image.fresh : Image :=
  ⟨.replicate 28 0, .replicate 4 0, .replicate 5 0, .replicate 3 0, .replicate 7 0, 0, [], 0, [], [], [], [], [], 0, []⟩

/-- An enrolment register that holds none (R322). -/
def Enrol.fresh : Enrol := ⟨false, 0, 0, 0, []⟩

/-- A FREE watch as it is after power-on (R118); registers without a reset value hold 0 (log 2). -/
def Watch.fresh : Watch where
  st := .free
  prior := .free
  readyAt := none
  pauseCnt := 0
  pauseEnd := 0
  after := .marker
  x := .replicate 32 0
  v := .replicate 16 0
  g := .replicate 8 0
  windows := [Window.fresh 4]
  fseed := 0
  pc := 0
  img := Image.fresh
  saved := none
  loads := []
  ord := 0
  syncOrd := 0
  path := []
  appended := []
  bc := 52
  fst := 0
  sib := 0
  tk := ⟨.i8, 0, []⟩
  mp := 0
  oid := 0
  lnch := 0
  gph := 0
  part := 0
  launch := 0
  slotNo := 0
  tcause := 0
  taddr := 0
  tnext := 0
  tval := 0
  hm := false
  marker := false
  dfr := false
  faultsDue := false
  tgang := false
  abn := false
  tsa0 := 0
  tsa1 := 0
  savedAfter := .marker
  fpTrap := none
  nlend := 0
  nbt := 256
  quota := 16
  pins := []
  taken := []
  kenr := .replicate 4 Enrol.fresh
  gang := none
  gp := 0
  gs := 1
  claim := 0
  cancelled := false
  nbr := none
  passDue := none
  markPc := 0
  fpc := 0
  floops := []
  rargs := .replicate 4 0

/-- A macro with every tile slot EMPTY and every accumulator +0 (R215, R236). -/
def Mac.fresh : Mac := ⟨[], [], [], [], [], 0, .replicate 5 0⟩

/-- A core after power-on (R118, R120, R160, R384). -/
def Core.fresh : Core where
  watches := .replicate 4 Watch.fresh
  issuing := none
  lastWid := 3
  slots := []
  wcb := []
  fetch := []
  loopTag := none
  loopBuf := []
  utlb := []
  spills := 0
  reserve := 0
  mac := Mac.fresh
  cycOff := 0
  seq := 0
  hcause := 0
  hbell := 0
  hissue := 0
  hmsg := 0
  issued := 0
  rcvd := 0
  sent := 0
  gated := false
  idle := 0
  notices := 0
  claims := []
  follows := []
  owed := []

/-- A bank in WAY mode (R246; log 2). -/
def Bank.fresh : Bank := ⟨0, 0, false, false, 0, 0, [], [], [], []⟩

/-- A board with empty caches (R248, R264, R286). -/
def Board.fresh : Board := ⟨.replicate 16 Bank.fresh, [], [], 0, 0, [], [], [], []⟩

/-- A rod with an empty row buffer (R215). -/
def Rod.fresh : Rod := ⟨[], [], [], []⟩

/-- A slice that holds no line (R354). -/
def Slice.fresh : Slice := ⟨[], [], [], []⟩

/-- An interleave domain that owns nothing (R352). -/
def Domain.fresh : Domain := ⟨0, [], []⟩

/-- An operand with every field zero. -/
def Operand.zero : Operand := ⟨0, 0, 0, 0, ⟨0, 0, 0, 0, .replicate 7 0⟩⟩

/-- The management core before boot (R395, R407); the configuration record enables every part (log 20). -/
def Firmware.fresh : Firmware where
  part := 0x0A04
  fwver := 0
  rev := 0
  fwst := 0
  cqb := 0
  cpb := 0
  cqt := 0
  fseen := 0
  cph := 0
  fcomp := 0
  log := []
  waiting := []
  taken := []
  record := ⟨true, 0, 0, [], [], [], 16, 0, 2800, [], [], 0⟩
  flash := ⟨true, 0, 0, [], [], [], 16, 0, 2800, [], [], 0⟩
  images := []
  exts := []
  frames := 0
  msix := 0
  reports := []
  peers := []
  readout := 0
  poison := false

/-- The machine right after power-on reset (R35, R395, R407). -/
def State.reset : State where
  schedule := []
  free := 0
  cur := 0
  ticket := 0
  opnd := Operand.zero
  bell := 0
  cycles := 0
  clock := 16
  phase := 0
  mem := []
  ecc := []
  cells := []
  cores := []
  boards := []
  rods := []
  slices := []
  domains := []
  granules := []
  hostVisible := []
  parts := []
  stores := []
  updates := []
  bankq := []
  keepq := []
  atomq := []
  clocks := []
  msgs := []
  deposits := []
  wakes := []
  prefetches := []
  chains := []
  ceWaits := []
  snaps := []
  split := none
  before := ([], [])
  remaps := []
  hostOwned := []
  links := .replicate 12 ⟨false, none, 0, 0, 0, 0⟩
  linkLoads := []
  adds := []
  hostDir := []
  hottest := 0
  watts := 0
  fw := Firmware.fresh

end Sys2Proof.Machine
end

