-- ==== Sys2Proof/Machine/Ops.lean ====
section
/-!
DEFINITION. Named operations over the machine: places of the device, watches and registers, the bead pool, memory and its
copies, translation, launch counters, stops, entering a trap handler and leaving it.
-/
namespace Sys2Proof.Machine

/-! ## Places (R7 to R15)

A watch is named by its core id × 4 plus its wid. -/

/-- The board of a core (R15). -/
def boardOf (c : Nat) : Nat := c / 4
/-- The rod of a core (R15). -/
def rodOf (c : Nat) : Nat := c / 64 * 2 + c / 2 % 2
/-- The position of a core in its rod (R15). -/
def posOf (c : Nat) : Nat := c / 4 % 16 * 2 + c % 2
/-- The core at a position of a rod (R15). -/
def rodCore (r p : Nat) : Nat := r / 2 * 64 + p / 2 * 4 + r % 2 * 2 + p % 2
/-- The cores of a rod, by rising position. -/
def rodCores (r : Nat) : List Nat := (List.range 32).map (rodCore r)
/-- The two rods that cross a board. -/
def boardRods (b : Nat) : List Nat := [rodOf (4 * b), rodOf (4 * b + 2)]

/-! ## Parts of the state -/

def State.coreAt (s : State) (c : Nat) : Core := s.cores.get Core.fresh c
def State.setCore (s : State) (c : Nat) (v : Core) : State := { s with cores := s.cores.set c v }
def State.onCore (s : State) (c : Nat) (f : Core → Core) : State := s.setCore c (f (s.coreAt c))
def Core.watch (c : Core) (i : Nat) : Watch := c.watches[i % 4]'(Nat.mod_lt _ (by decide))
def Core.setWatch (c : Core) (i : Nat) (w : Watch) : Core :=
  { c with watches := c.watches.set (i % 4) w (Nat.mod_lt _ (by decide)) }
def State.watch (s : State) (k : Nat) : Watch := (s.coreAt (k / 4)).watch k
def State.setWatch (s : State) (k : Nat) (w : Watch) : State := s.onCore (k / 4) fun c => c.setWatch k w
def State.onWatch (s : State) (k : Nat) (f : Watch → Watch) : State := s.setWatch k (f (s.watch k))
def State.boardAt (s : State) (b : Nat) : Board := s.boards.get Board.fresh b
def State.setBoard (s : State) (b : Nat) (v : Board) : State := { s with boards := s.boards.set b v }
def State.onBoard (s : State) (b : Nat) (f : Board → Board) : State := s.setBoard b (f (s.boardAt b))
def Board.bank (b : Board) (n : Nat) : Bank := b.banks[n % 16]'(Nat.mod_lt _ (by decide))
def State.onBank (s : State) (b n : Nat) (f : Bank → Bank) : State :=
  s.onBoard b fun v => { v with banks := v.banks.set (n % 16) (f (v.bank n)) (Nat.mod_lt _ (by decide)) }
def State.rodAt (s : State) (r : Nat) : Rod := s.rods.get Rod.fresh r
def State.onRod (s : State) (r : Nat) (f : Rod → Rod) : State := { s with rods := s.rods.set r (f (s.rodAt r)) }
def State.sliceAt (s : State) (n : Nat) : Slice := s.slices.get Slice.fresh n
def State.onSlice (s : State) (n : Nat) (f : Slice → Slice) : State :=
  { s with slices := s.slices.set n (f (s.sliceAt n)) }
def State.part? (s : State) (p : Nat) : Option Part := s.parts.get none p
def State.setPart (s : State) (p : Nat) (v : Part) : State := { s with parts := s.parts.set p (some v) }
/-- Change a partition that exists. -/
def State.onPart (s : State) (p : Nat) (f : Part → Part) : State :=
  match s.part? p with
  | some v => s.setPart p (f v)
  | none => s
/-- Fold a change over a list of places. -/
def State.each {α : Type} (s : State) (l : List α) (f : State → α → State) : State := l.foldl f s
/-- A new ticket. -/
def State.newTicket (s : State) : Nat × State := (s.ticket, { s with ticket := s.ticket + 1 })
/-- The next free value (log 4). -/
def State.anyWord (s : State) : Word × State := (Config.freeWord s.free, { s with free := s.free + 1 })
/-- Element `n` of a vector of registers or ports. -/
def Vector.at0 {n : Nat} (v : Vector Word n) (i : Nat) : Word := (v[i]?).getD 0

/-- The cores of a partition, by rising core id (R18, R23). -/
def Part.cores (p : Part) : List Nat := (List.range 4096).filter fun c => p.rods.contains (rodOf c)
/-- The boards that hold a core of a partition. -/
def Part.boards (p : Part) : List Nat := (List.range 1024).filter fun b => (boardRods b).any p.rods.contains
/-- The watches of a partition. -/
def Part.watches (p : Part) : List Nat := p.cores.flatMap fun c => (List.range 4).map (c * 4 + ·)

/-- The watch whose words the current core issues. -/
def State.issuer (s : State) : Option Nat := (s.coreAt s.cur).issuing.map (s.cur * 4 + ·)

/-- The members that execute what watch `k` issues: itself, or its gang in rising position (R193, R196). -/
def State.members (s : State) (k : Nat) : List Nat :=
  let w := s.watch k
  match w.gang with
  | none => [k]
  | some l =>
    let c := k / 4
    (List.range w.gs).filterMap fun i =>
      let m := rodCore (rodOf c) (posOf c - w.gp + i)
      ((List.range 4).find? fun j => (s.watch (m * 4 + j)).gang == some l).map (m * 4 + ·)

/-- The READY watch that a core's issue point takes next (R119). A gang counts at its leader's core alone (R197). -/
def Core.next (c : Core) (n : Nat) : Option Nat :=
  ([1, 2, 3, 4].map fun i => (c.lastWid + i) % 4).find? fun i =>
    (c.watch i).st = .ready && ((c.watch i).gang.all (· = n * 4 + i))
/-- The issue point of a core that issues nothing chooses the next READY watch (R119). -/
def State.select (s : State) (n : Nat) : State :=
  let c := s.coreAt n
  match c.issuing, c.next n with
  | none, some i => ((s.members (n * 4 + i)).foldl (fun s k => s.onWatch k fun w => { w with st := .issuing }) s).onCore n
      fun c => { c with issuing := some i }
  | _, _ => s

/-! ## Bytes -/

/-- The number whose little-endian bytes are given (R2). -/
def leNat : List Byte → Nat
  | [] => 0
  | b :: t => b.toNat + 256 * leNat t
/-- The `n` little-endian bytes of a number (R2). -/
def leBytes : Nat → Nat → List Byte
  | 0, _ => []
  | n + 1, v => BitVec.ofNat 8 v :: leBytes n (v / 256)
/-- The bits `hi` down to `lo` of a word as a number. -/
def bits (w : Word) (hi lo : Nat) : Nat := w.toNat / 2 ^ lo % 2 ^ (hi + 1 - lo)

def State.home (s : State) (a : Nat) : Byte := s.mem.get 0 a
def State.homeBytes (s : State) (a n : Nat) : List Byte := (List.range n).map fun i => s.home (a + i)
def State.homeNat (s : State) (a n : Nat) : Nat := leNat (s.homeBytes a n)
def State.homeWord (s : State) (a : Nat) : Word := BitVec.ofNat 64 (s.homeNat a 8)
/-- Store bytes at their home. -/
def State.putBytes (s : State) (l : List (Nat × Byte)) : State :=
  { s with mem := l.foldl (fun m e => m.put 0 e.1 e.2) s.mem }
def State.putNat (s : State) (a n v : Nat) : State := s.putBytes (((List.range n).map (a + ·)).zip (leBytes n v))
def State.putWord (s : State) (a : Nat) (w : Word) : State := s.putNat a 8 w.toNat

/-- The bits of a byte that a mask names are written (R174). -/
def mergeBits (m old new : Byte) : Byte := (old &&& ~~~m) ||| (new &&& m)
def mergeAll (masks old new : List Byte) : List Byte :=
  (masks.zip (old.zip new)).map fun e => mergeBits e.1 e.2.1 e.2.2

/-! ## Time (R35, R49, R392, R411) -/

/-- `n` cycles of the arithmetic clock pass: bell time follows at one tick every `clock` cycles, and the dusk registers
of the running partitions count down. -/
def State.pass (s : State) (n : Nat) : State :=
  { s with
    cycles := s.cycles + n
    bell := s.bell + (s.phase + n) / (max s.clock 1)
    phase := (s.phase + n) % (max s.clock 1)
    parts := s.parts.map fun e => (e.1, e.2.map fun p =>
      if p.run = .running ∧ p.job.isSome then { p with dusk := p.dusk - n } else p) }

/-! ## The bead pool (R160 to R169) -/

/-- The pips a window's bound registers take (R162). -/
def Window.pips (w : Window) : Nat := w.cap * (w.vals.toList.filter Option.isSome).length
/-- The beads that a capacity in pips holds (R160). -/
def capBeads (p : Nat) : Nat := 16 * p - 12
/-- Whether a transport form fits a capacity (R54). -/
def fits (p : Nat) (v : Word) : Bool := v.toNat % 2 ^ (52 - capBeads p) = 0
/-- The pips of a core's pool in use, or held in its reserve. -/
def Core.pips (c : Core) (spilled : Bool) : Nat :=
  (c.watches.toList.map fun w => ((w.windows.filter fun x => x.spilled = spilled).map Window.pips).sum).sum
def Core.freePips (c : Core) : Nat := 2048 - c.pips false
/-- Depth `d` of a stack, counting the base as 0. -/
def Watch.depthIdx (w : Watch) (d : Nat) : Nat := w.windows.length - 1 - d
def Core.setSpill (c : Core) (i d : Nat) (b : Bool) : Core :=
  let w := c.watch i
  c.setWatch i { w with windows := w.windows.modify (w.depthIdx d) fun x => { x with spilled := b } }
/-- The windows that may be spilled for watch `wid`, in the order of R167, as watch and depth. -/
def Core.victims (c : Core) (wid : Nat) : List (Nat × Nat) :=
  let ws := c.watches.toList.zipIdx
  let ok : Watch → Nat → Bool := fun w d => match w.windows[w.depthIdx d]? with
    | some x => !x.spilled && decide (0 < x.pips)
    | none => false
  let low := (List.range 16).flatMap fun d =>
    ws.filterMap fun e => if decide (d + 1 < e.1.windows.length) && ok e.1 d then some (e.2, d) else none
  let top := ws.filterMap fun e =>
    if e.2 != wid && (e.1.st = .parked || e.1.st = .paused || e.1.st = .halted) && ok e.1 (e.1.windows.length - 1)
    then some (e.2, e.1.windows.length - 1) else none
  low ++ top
/-- Spill one window into the reserve, if it holds it (R167, R168). -/
def Core.spill (c : Core) (v : Nat × Nat) : Option Core :=
  let w := c.watch v.1
  let n := ((w.windows[w.depthIdx v.2]?).map Window.pips).getD 0
  if c.pips true + n ≤ c.reserve * 256 then some { c.setSpill v.1 v.2 true with spills := (c.spills + 1) % 2 ^ 32 }
  else none
/-- Spill windows until `p` pips are free (R167); none where the reserve or the victims run out (R168). -/
def Core.room (wid p : Nat) : List (Nat × Nat) → Core → Option Core
  | [], c => if c.pips false + p ≤ 2048 then some c else none
  | v :: l, c => if c.pips false + p ≤ 2048 then some c else (c.spill v).bind (Core.room wid p l)
/-- Fill a spilled window back: what it held in the reserve is free for the windows that it displaces (R167). It stays in the
reserve where no room can be made, which changes no result. -/
def Core.fillBack (c : Core) (wid d : Nat) : Core :=
  let w := c.watch wid
  match w.windows[w.depthIdx d]? with
  | some x =>
    if x.spilled then
      let c' := c.setSpill wid d false
      (Core.room wid 0 ((c'.victims wid).filter (· ≠ (wid, d))) c').getD c
    else c
  | none => c
/-- Bind register `i` of the window at depth `d` to a value that fits (R162); none where no room can be made. Room is not made by
spilling the window that takes the value. -/
def Core.bindF (c : Core) (wid d i : Nat) (v : Word) : Option Core :=
  let c := c.fillBack wid d
  let w := c.watch wid
  match w.windows[w.depthIdx d]? with
  | none => some c
  | some x =>
    let put : Core → Core := fun c =>
      let w := c.watch wid
      c.setWatch wid { w with
        windows := w.windows.modify (w.depthIdx d) fun y => { y with vals := y.vals.setIfInBounds i (some v) } }
    if ((x.vals[i]?).getD none).isSome then some (put c)
    else if x.spilled then none
    else (Core.room wid x.cap ((c.victims wid).filter (· ≠ (wid, d))) c).map put
/-- The depth of the nearest window that binds register `i`, from the top down. -/
def boundDepth (i : Nat) : List Window → Option Nat
  | [] => none
  | x :: t => if ((x.vals[i]?).getD none).isSome then some t.length else boundDepth i t
/-- A read of register `i`: the nearest binding, else the undefined content of the register (R162). -/
def Watch.fRead (w : Watch) (i : Nat) : Word :=
  match w.windows.findSome? fun x => (x.vals[i]?).getD none with
  | some v => v
  | none => Config.freeWord (w.fseed + i)
/-- A read of register `i` fills back the spilled windows that it looks into: the top one, and each below it down to the one that
binds the register (R162, R167). -/
def State.fTouch (s : State) (k i : Nat) : State :=
  let w := s.watch k
  let n := w.windows.length
  let seen := ((List.range (n - (boundDepth i w.windows).getD 0)).map fun j => n - 1 - j).filter fun d =>
    (w.windows[w.depthIdx d]?).any (·.spilled)
  if seen = [] then s else s.onCore (k / 4) fun c => seen.foldl (fun c d => c.fillBack (k % 4) d) c

/-! ## Registers -/

/-- A read of an x register: x0 reads zero (R49). -/
def Watch.xRead (w : Watch) (r : Nat) : Word := if r = 0 then 0 else Vector.at0 w.x r
/-- A write of a word in its slot: it lands in the next slot, over any result that lands there, and over the loads of
the region issued before (R57, R62). Writes to x0 are discarded (R50). -/
def Watch.xWrite (w : Watch) (r : Nat) (v : Word) : Watch :=
  if r = 0 then w
  else { w with
    x := w.x.setIfInBounds r v
    loads := w.loads.filter fun l => l.reg ≠ .x (Fin.ofNat 32 r)
    img := { w.img with flights := w.img.flights.map fun f =>
      if f.due ≤ w.img.slot + 1 ∧ f.xd = some (Fin.ofNat 32 r) then { f with xd := none } else f } }
/-- A read of a g register: g0 reads all ones (R49). -/
def Watch.gRead (w : Watch) (r : Nat) : Pred := if r = 0 then BitVec.allOnes 32 else (w.g[r]?).getD 0
def Watch.gWrite (w : Watch) (r : Nat) (v : Pred) : Watch := if r = 0 then w else { w with g := w.g.setIfInBounds r v }
def Watch.vRead (w : Watch) (r : Nat) : Vec := (w.v[r]?).getD 0
/-- Byte lane i is 0xFF where bit i is set (R53). -/
def predVec (p : Pred) : Vec := join 8 ((List.range 32).map fun i => if p.getLsbD i then 255 else 0)
/-- Keep the byte lanes of `old` where the predicate is clear (R65, R104). -/
def blend (p : Pred) (old new : Vec) : Vec := (new &&& predVec p) ||| (old &&& ~~~(predVec p))
/-- A write takes byte lanes of a v register from the loads of the region that it meets (R62, R65). -/
def takeLanes (r : Nat) (p : Pred) (l : List PLoad) : List PLoad :=
  (l.map fun x => if x.reg = .v (Fin.ofNat 16 r) then { x with lanes := x.lanes &&& ~~~p } else x).filter fun x =>
    x.reg ≠ .v (Fin.ofNat 16 r) || x.lanes ≠ 0
/-- A write of some byte lanes of a v register. -/
def Watch.vWrite (w : Watch) (r : Nat) (p : Pred) (v : Vec) : Watch :=
  { w with
    v := w.v.setIfInBounds r (blend p (w.vRead r) v)
    loads := takeLanes r p w.loads
    img := { w.img with regs := takeLanes r p w.img.regs } }
/-- A scalar operand latch (R60). -/
def Watch.latch (w : Watch) (l : Latch) : Word := Vector.at0 w.img.latch (Latch.table.findIdx (·.1 = l))
/-- A vector operand latch (R60). -/
def Watch.vlatch (w : Watch) (l : Latch) : Vec :=
  (w.img.vlatch[([Latch.vaA, .vaB, .vxA, .vxB].idxOf l)]?).getD 0
def Watch.setLatch (w : Watch) (l : Latch) (v : Word) : Watch :=
  { w with img := { w.img with latch := w.img.latch.setIfInBounds (Latch.table.findIdx (·.1 = l)) v } }
def Watch.setVlatch (w : Watch) (l : Latch) (v : Vec) : Watch :=
  { w with img := { w.img with vlatch := w.img.vlatch.setIfInBounds ([Latch.vaA, .vaB, .vxA, .vxB].idxOf l) v } }

/-! ## Pending things of a region -/

/-- What the region waits for at its marker. -/
def Image.await (m : Image) (t : Nat) (u : Option FUnit) : Image := { m with waits := m.waits ++ [(t, u)] }
def Image.holds (m : Image) (t : Nat) : Bool := m.waits.any (·.1 = t)
/-- Change the image, current or saved, whose region waits for ticket `t`, which no longer waits for it. Until now its core has not been
quiet (R412). -/
def State.settleTicket (s : State) (k t : Nat) (f : Image → Image) : State :=
  (s.onCore (k / 4) fun c => { c with idle := s.cycles }).onWatch k fun w =>
    let drop := fun (m : Image) => { m with waits := m.waits.filter (·.1 ≠ t) }
    if w.img.holds t then { w with img := f (drop w.img) }
    else match w.saved with
      | some m => if m.holds t then { w with saved := some (f (drop m)) } else w
      | none => w
/-- A parked trigger ends with a result and a status (R61). -/
def State.finish (s : State) (k t : Nat) (r : ParkRes) : State :=
  s.settleTicket k t fun m => { m with results := m.results ++ [r] }
/-- A pending access or trigger ends with a fault that is taken at the marker (R376). -/
def State.fail (s : State) (k t : Nat) (d : Deferred) : State :=
  s.settleTicket k t fun m => { m with faults := m.faults ++ [d] }
/-- A pending access ends. -/
def State.ended (s : State) (k t : Nat) : State := s.settleTicket k t id
/-- The region of an access, which a handler may have saved, has a fault of it already. -/
def State.failed (s : State) (k ord : Nat) : Bool :=
  let w := s.watch k
  (w.img.faults ++ ((w.saved.map (·.faults)).getD [])).any (·.ord = ord)
/-- A piece of an access ends with a fault: an access leaves one for the marker, whatever its pieces meet. -/
def State.failOnce (s : State) (k t : Nat) (d : Deferred) : State :=
  if s.failed k d.ord then s.ended k t else s.fail k t d
/-- The current region has a deferred fault (R376). -/
def State.defer (s : State) (k : Nat) (d : Deferred) : State :=
  s.onWatch k fun w => { w with img := { w.img with faults := w.img.faults ++ [d] } }
/-- A parked trigger of the current region ends at once (R61). -/
def State.result (s : State) (k : Nat) (r : ParkRes) : State :=
  s.onWatch k fun w => { w with img := { w.img with results := w.img.results ++ [r] } }
/-- The next place in the region's order, for watch `k`. -/
def State.takeOrd (s : State) (k : Nat) : Nat × State :=
  ((s.watch k).ord, s.onWatch k fun w => { w with ord := w.ord + 1 })

/-! ## Physical addresses, homes and translation (R349 to R367) -/

/-- What a physical address names (R349 to R351). -/
inductive PaKind where
  | tier | window (board off : Nat) | host | peer (p a : Nat) | reserved
deriving DecidableEq, Repr

/-- The 64 KiB blocks of cells in a board's keeping window (R350). -/
def Board.keepBlocks (b : Board) : Nat := (b.banks.toList.filter fun x => x.mode = 3).length / 4

def State.paKind (s : State) (a : Nat) : PaKind :=
  if a < 12 * 2 ^ 36 ∨ (2 ^ 40 ≤ a ∧ a < 2 ^ 41) then (if a / 2 ^ 30 % 64 < 59 then .tier else .reserved)
  else if 2 ^ 41 ≤ a ∧ a < 2 ^ 41 + 2 ^ 30 then
    let b := (a - 2 ^ 41) / 2 ^ 20
    if a % 2 ^ 20 < (s.boardAt b).keepBlocks * 2 ^ 16 then .window b (a % 2 ^ 20) else .reserved
  else if 2 ^ 50 ≤ a ∧ a < 2 ^ 51 then .host
  else if 2 ^ 51 ≤ a ∧ a < 2 ^ 52 then .peer ((a - 2 ^ 51) / 2 ^ 46) (a % 2 ^ 46)
  else .reserved

/-- An address in a reserved range (R349). -/
def State.reservedPa (s : State) (a : Nat) : Bool :=
  match s.paKind a with
  | .reserved => true
  | _ => false
/-- An address that no page of an entry's type may reach: in a reserved range, or in a keeping window where the page is not KEEP (R349,
R350). -/
def State.badPa (s : State) (e : Word) (a : Nat) : Bool :=
  match s.paKind a with
  | .reserved => true
  | .window _ _ => e.toNat / 4 % 8 ≠ 1
  | _ => false
/-- The parity of the one bits of a number below 2^n. -/
def parity : Nat → Nat → Nat
  | 0, _ => 0
  | n + 1, v => (v % 2 + parity n (v / 2)) % 2
/-- The slice that homes a line (R351, R352). -/
def State.homeSlice (s : State) (a : Nat) : Nat :=
  let d := s.domains.get Domain.fresh (s.granules.get 0 (a / 2 ^ 30))
  let h := ((List.range d.c).map fun i => parity 40 ((a / 64 % 2 ^ 40) &&& ((d.masks[i]?).getD 0)) * 2 ^ i).sum
  (d.members[h]?).getD 0

/-- A leaf entry is well formed at its level, and names backed memory (R350, R364, R365). -/
def State.leafOk (s : State) (level : Nat) (e : Word) : Bool :=
  let pa := bits e 63 28 * 2 ^ 16
  let ty := bits e 4 2
  let aux := bits e 19 8
  decide (bits e 27 20 = 0 ∧ bits e 7 6 = 0 ∧ ty ≤ 4 ∧ level ≤ 2 ∧ pa % 2 ^ (16 + (if level = 0 then 0 else if level = 1 then 5 else 14)) = 0)
    && (ty = 1 || bits e 5 5 = 0)
    && (match ty with
        | 2 => if aux / 2 ^ 11 = 1 then aux % 2 ^ 11 < 64 else aux = 0
        | 3 | 4 => aux = 0
        | _ => true)
    && (match s.paKind pa with
        | .reserved => false
        | .window _ _ => level = 0 && ty = 1
        | _ => true)

/-- The VA bits that index a level's table, and the size of the table (R364). -/
def vaIndex (level va : Nat) : Nat :=
  match level with
  | 4 => va / 2 ^ 48 % 256
  | 3 => va / 2 ^ 39 % 512
  | 2 => va / 2 ^ 30 % 512
  | 1 => va / 2 ^ 21 % 512
  | _ => va / 2 ^ 16 % 32
def tableSize (level : Nat) : Nat := if level = 4 then 2048 else if level = 0 then 256 else 4096
/-- The bytes that a leaf at a level maps (R364). -/
def leafSize (level : Nat) : Nat := if level = 2 then 2 ^ 30 else if level = 1 then 2 ^ 21 else 2 ^ 16

/-- Walk from the table of a level on: the leaf and the size of its page, or none for a translation fault (R349, R365, R366). -/
def State.walk (s : State) (va : Nat) : Nat → Nat → Option (Word × Nat)
  | 0, table =>
    let e := s.homeWord (table + 8 * vaIndex 0 va)
    if s.reservedPa table then none
    else if e.getLsbD 0 && e.getLsbD 1 && s.leafOk 0 e then some (e, leafSize 0) else none
  | l + 1, table =>
    let e := s.homeWord (table + 8 * vaIndex (l + 1) va)
    if s.reservedPa table || !e.getLsbD 0 then none
    else if e.getLsbD 1 then (if s.leafOk (l + 1) e then some (e, leafSize (l + 1)) else none)
    else
      let next := bits e 63 20 * 2 ^ 8
      if bits e 19 2 = 0 ∧ next % tableSize l = 0 then s.walk va l next else none

/-- A translation held in a TLB (R366). -/
def tlbFind (l : List TlbEntry) (p va : Nat) : Option (Word × Nat) :=
  (l.find? fun e => e.part = p ∧ e.page = va / e.size).map fun e => (e.pte, e.size)
/-- The entry that maps a virtual address for a core: micro-TLB, board TLB, walk (R364, R366). -/
def State.translate (s : State) (core p va : Nat) : Option (Word × Nat) :=
  if 2 ^ 56 ≤ va then none
  else match tlbFind (s.coreAt core).utlb p va with
    | some r => some r
    | none => match tlbFind (s.boardAt (boardOf core)).tlb p va with
      | some r => some r
      | none => (s.part? p).bind fun q => s.walk va 4 q.root

/-- The types of memory (R266). -/
def pteType (e : Word) : Nat := bits e 4 2
/-- Field `aux` of an entry: writer core, keeping region, or pair (R365). -/
def pteAux (e : Word) : Nat := bits e 19 8

/-- The physical address of a virtual one on a page: for a night-copy pair the side that the bell time, or a night
write, selects (R337, R338). -/
def State.paOf (s : State) (p : Nat) (e : Word) (size va : Nat) (night : Bool) : Nat :=
  let plain := bits e 63 28 * 2 ^ 16 + va % size
  if pteType e = 2 ∧ pteAux e / 2 ^ 11 = 1 then
    match (s.part? p).bind fun q => (q.pairs.find? (·.1 = pteAux e % 64)).map Prod.snd with
    | some r =>
      let flipped := match r.flip with
        | some f => decide (f.t ≤ s.bell)
        | none => false
      (if flipped != night then r.night else r.day) + (va - r.va.toNat)
    | none => plain
  else plain

/-- Whether a virtual address lies in a board-store window (R245). -/
def inWindow (va : Nat) : Bool := decide (va / 2 ^ 24 = 0xFE00000000) || decide (va / 2 ^ 34 = 0x3F400000)
/-- The remote window address of a board-store offset: what names its bytes in memory (R15, R245). -/
def storeAddr (board off : Nat) : Nat := 0xFD00000000000000 + board * 2 ^ 24 + off
/-- A board reached through the remote window must hold an enabled rod of the partition (R245). -/
def State.reaches (s : State) (p b : Nat) : Bool :=
  match s.part? p with
  | some q => (boardRods b).any q.rods.contains
  | none => false

/-- The kinds of access that `resolve` tells apart. -/
inductive Acc where
  | load | store | keep | atomic
deriving DecidableEq, Repr

/-- Where an access of watch `k` at a virtual address goes, or the cause of its trap (R245, R266, R267, R287, R312). -/
def State.resolve (s : State) (k : Nat) (acc : Acc) (va : Nat) : Except Nat Place :=
  let c := k / 4
  let p := (s.watch k).part
  if inWindow va then
    let off := va % 2 ^ 24
    let isLocal := decide (va / 2 ^ 24 = 0xFE00000000)
    let b := if isLocal then boardOf c else va / 2 ^ 24 % 1024
    if acc = .keep then .error 6
    else if off < 0x80000 then (if isLocal || s.reaches p b then .ok (.bank b off) else .error 6)
    else if 0x800000 ≤ off ∧ off < 0x804000 ∧ isLocal ∧ acc = .load ∧ (off - 0x800000) / 0x1000 = c % 4 then
      .ok (.slot c off)
    else .error 6
  else match s.translate c p va with
    | none => .error 5
    | some (e, size) =>
      let pa := s.paOf p e size va false
      let ok : Bool := match pteType e with
        | 0 => acc = .load || acc = .keep || decide (pteAux e = c)
        | 2 => acc = .load || acc = .keep
        | 4 => acc ≠ .atomic
        | _ => true
      if s.badPa e pa then .error 5 else if ok then .ok (.mem pa e) else .error 6

/-- A block of an engine's range: its first address, its place in the range and its length; cut at each 32 KiB, so that a block
lies in one page and one bank (R246). -/
def blocks (va : Nat) : Nat → Nat → Nat → List (Nat × Nat × Nat)
  | 0, _, _ => []
  | f + 1, lo, n =>
    let a := (va + lo) % 2 ^ 64
    let m := min n (0x8000 - a % 0x8000)
    if n = 0 then [] else (a, lo, m) :: blocks va f (lo + m) (n - m)
/-- How far a piece of an access reaches from an address: to the end of its bank in a board's store, else of its 32-byte sector, so
that it lies in one line, one page and one slot (R246, R275). -/
def pieceRoom (a : Nat) : Nat := if inWindow a && a % 2 ^ 24 < 0x80000 then 0x8000 - a % 0x8000 else 32 - a % 32
/-- A piece of a core's access: its first address, its place in the access and its length. -/
def pieces (va : Nat) : Nat → Nat → Nat → List (Nat × Nat × Nat)
  | 0, _, _ => []
  | f + 1, lo, n =>
    let a := (va + lo) % 2 ^ 64
    let m := min n (pieceRoom a)
    if n = 0 then [] else (a, lo, m) :: pieces va f (lo + m) (n - m)
/-- The eight-byte pieces of bytes of a page: their place, virtual address, place in the access and length. -/
def eights (e : Word) : Nat → Nat → Nat → Nat → Nat → List (Place × Nat × Nat × Nat)
  | 0, _, _, _, _ => []
  | f + 1, a, va, lo, n =>
    let m := min n (8 - va % 8)
    if n = 0 then [] else (.mem a e, va, lo, m) :: eights e f (a + m) (va + m) (lo + m) (n - m)
/-- A piece of HOST-U memory is made in the pieces of R274 (R397). -/
def cutPiece (p : Place × Nat × Nat × Nat) : List (Place × Nat × Nat × Nat) :=
  match p with
  | (.mem a e, va, lo, n) => if pteType e = 4 then eights e 5 a va lo n else [p]
  | _ => [p]
/-- Where a piece of an access goes, or its fault. -/
def State.resolvePiece (s : State) (k : Nat) (acc : Acc) (q : Nat × Nat × Nat) : Except (Nat × Nat) (Place × Nat × Nat × Nat) :=
  match s.resolve k acc q.1 with
  | .ok p => .ok (p, q)
  | .error c => .error (c, q.1)
/-- All pieces of an access, resolved; or its first fault, as cause and address (R275, R287). -/
def State.resolveAll (s : State) (k : Nat) (acc : Acc) (va n : Nat) : Except (Nat × Nat) (List (Place × Nat × Nat × Nat)) :=
  ((pieces va (n / 32 + 2) 0 n).mapM (s.resolvePiece k acc)).map fun l => l.flatMap cutPiece

/-! ## Links in front of memory (R394, R399 to R401) -/

def State.linkAt (s : State) (n : Nat) : Link := s.links[n % 12]'(Nat.mod_lt _ (by decide))
def State.onLink (s : State) (n : Nat) (f : Link → Link) : State :=
  { s with links := s.links.set (n % 12) (f (s.linkAt n)) (Nat.mod_lt _ (by decide)) }
/-- The links a physical address lies behind: all four modules of the host's, one span port of a peer's (R394, R401, log 28). -/
def State.linksOf (s : State) (a : Nat) : List Nat :=
  match s.paKind a with
  | .host => [0, 1, 2, 3]
  | .peer p _ => [4 + p % 8]
  | _ => []
/-- A link was declared down (R400). -/
def State.linkDown (s : State) (n : Nat) : Bool := !(s.linkAt n).up && (s.linkAt n).retrain = none
/-- Memory behind a link that is down (R400). -/
def State.cutOff (s : State) (a : Nat) : Bool := (s.linksOf a).any s.linkDown
/-- An address lies behind a link that retrains (R399). -/
def State.behindRetrain (s : State) (a : Nat) : Bool := (s.linksOf a).any fun n => (s.linkAt n).retrain.isSome
/-- The cause that stands for an access that must wait: for a link that retrains, or for a stamped store of the watch's own
(R278, R399). No trap has it. -/
def waitCause : Nat := 0x100
/-- A write that waits for a link that retrains (R399). -/
def State.linkHeld (s : State) (f : StoreFl) : Bool :=
  f.bytes.any fun e => (s.linksOf e.1).any fun n => (s.linkAt n).retrain.isSome
/-- A posted write leaves over its links: it is numbered, and lost where one of them is down (R400). -/
def State.post (s : State) (a : Nat) : State :=
  let lost := s.cutOff a
  s.each ((s.linksOf a).filter fun n => !lost || s.linkDown n) fun s n => s.onLink n fun l =>
    { l with
      sent := (l.sent + 1) % 2 ^ 32
      lostFirst := if lost && l.lost = 0 then l.sent else l.lostFirst
      lost := if lost then l.lost + 1 else l.lost }
/-- A posted write is acknowledged by its links (R400). -/
def State.arrived (s : State) (bytes : List (Nat × Byte)) : State :=
  match bytes with
  | [] => s
  | e :: _ => s.each (s.linksOf e.1) fun s n => s.onLink n fun l => { l with acked := (l.acked + 1) % 2 ^ 32 }

/-! ## Copies of lines (R248, R268 to R272, R354 to R358) -/

def SliceLine.fresh : SliceLine := ⟨[], none, BitVec.allOnes 16, 0, 0, 0, none, .raw, false⟩
/-- The groups of boards that a mask record names (R358). -/
def boardGroup (b : Nat) : Nat := 2 * (b / 16 % 32) + b / 512
/-- The boards a tag records as holding its line (R358). -/
def SliceLine.boards (t : SliceLine) : List Nat :=
  match t.mask with
  | none => t.sharers
  | some m => (List.range 1024).filter fun b => m.testBit (boardGroup b)
/-- Record a board: up to four exactly, then by groups (R358). -/
def SliceLine.share (t : SliceLine) (b : Nat) : SliceLine :=
  match t.mask with
  | some m => { t with mask := some (m ||| 2 ^ boardGroup b) }
  | none =>
    if t.sharers.contains b then t
    else if t.sharers.length < 4 then { t with sharers := t.sharers ++ [b] }
    else { t with sharers := [], mask := some ((t.sharers ++ [b]).foldl (fun m x => m ||| 2 ^ boardGroup x) 0) }

/-- The line of a board's cache that holds an address (R248). -/
def Board.way? (b : Board) (line : Nat) : Option WayLine := (b.ways.find? (·.1 = line)).map Prod.snd
/-- Byte `i` of a line. -/
def lineByte (l : Line) (i : Nat) : Byte := (l >>> (8 * i)).setWidth 8
/-- Write bytes into a line, by physical address. -/
def lineWrite (l : Line) (line : Nat) (bytes : List (Nat × Byte)) : Line :=
  bytes.foldl (fun l e => if e.1 / 64 = line then
    (l &&& ~~~((0xFF : Line) <<< (8 * (e.1 % 64)))) ||| ((e.2.setWidth 512 : Line) <<< (8 * (e.1 % 64))) else l) l
/-- The 4-byte words of a line that bytes touch (R269). -/
def wordMask (line : Nat) (bytes : List (Nat × Byte)) : BitVec 16 :=
  bytes.foldl (fun m e => if e.1 / 64 = line then m ||| ((1 : BitVec 16) <<< (e.1 % 64 / 4)) else m) 0
/-- Words written to a board's cached line, where the board holds it; words of the board's own stores are dirty there until they
are acknowledged (R269, R270). -/
def State.wayWrite (s : State) (b : Nat) (bytes : List (Nat × Byte)) (own : Bool) : State :=
  s.onBoard b fun v => { v with ways := v.ways.map fun e => (e.1, { e.2 with
    data := lineWrite e.2.data e.1 bytes
    dirty := if own then e.2.dirty ||| (wordMask e.1 bytes &&& e.2.valid) else e.2.dirty }) }

/-! ### Slices (R354, R355, R358 to R361) -/

/-- The set of a line's tags in its slice (R354). -/
def sliceSet (h a : Nat) : Nat :=
  let n := a / 64 % 2 ^ 40
  (n % 2 ^ 16 ^^^ n / 2 ^ 16 % 2 ^ 16 ^^^ n / 2 ^ 32) ^^^ h
/-- Whether an address is homed at a slice: host, peer and keeping-window lines are held by none (R350, R353). -/
def State.sliced (s : State) (a : Nat) : Bool :=
  match s.paKind a with
  | .tier => true
  | _ => false
/-- The pseudo-channel of an HBM address in its stack (R359). -/
def pseudoChannel (a : Nat) : Nat := a / 64 % 2 ^ 9 ^^^ a / 2 ^ 15 % 2 ^ 9
/-- The slice that serves a stack's pseudo-channel: 96 to a position of the edge region, in place of a disabled slice the first
enabled one after it (R16, R359). -/
def State.channelSlice (s : State) (stack pc : Nat) : Nat :=
  let region := stack / 3
  let p := (stack % 3 * 512 + pc) / 96
  let order := (List.range 16).map fun i => region * 16 + (p + i) % 16
  ((order.find? fun n => !s.fw.record.offSlices.contains n).getD (region * 16 + p))
/-- The route by which slice `n` fills the line of an address (R359 to R361). -/
def State.routeOf (s : State) (n a : Nat) : Route :=
  if a < 2 ^ 40 then
    let stack := a / 2 ^ 36
    let pc := pseudoChannel a
    let m := s.channelSlice stack pc
    if m = n then .own stack pc else if m / 16 = n / 16 then .region stack pc else .mesh stack pc
  else .lpddr (a / 2 ^ 36 % 16) (a / 64 % 16)
/-- Values that all lie within a signed range of one base, as numbers of `w` bits; `r` is half the range (R355). -/
def nearBase (w r : Nat) (l : List Nat) : Bool :=
  l.any fun low => l.all fun x => decide ((x + 2 ^ w - low) % 2 ^ w < 2 * r)
/-- How a slice can encode a line (R355). -/
def lineEnc (v : Nat) : LineEnc :=
  let ws := (List.range 16).map fun i => v / 2 ^ (32 * i) % 2 ^ 32
  let ds := (List.range 8).map fun i => v / 2 ^ (64 * i) % 2 ^ 64
  if v = 0 then .zero
  else if ds.all (· = v % 2 ^ 64) then .rep8
  else if nearBase 32 128 ws then .b4d1
  else if nearBase 64 32768 ds then .b8d2
  else .raw
/-- Change the tag of a line that its slice holds. -/
def State.onTag (s : State) (line : Nat) (f : SliceLine → SliceLine) : State :=
  s.onSlice (s.homeSlice (line * 64)) fun v => { v with tags := v.tags.map fun e => if e.1 = line then (e.1, f e.2) else e }
/-- The tag of a line, where its slice holds one. -/
def State.tag? (s : State) (line : Nat) : Option SliceLine :=
  ((s.sliceAt (s.homeSlice (line * 64))).tags.find? (·.1 = line)).map Prod.snd
/-- A line in miss at its slice (R356). -/
def State.inMiss (s : State) (line : Nat) : Bool := (s.sliceAt (s.homeSlice (line * 64))).misses.any (·.line = line)
/-- A line that a slice may evict: not in miss, not held by an unfinished atomic or `recon`, without siblings (R358). -/
def State.mayEvict (s : State) (line : Nat) : Bool :=
  !s.inMiss line && !(s.atomq.any fun q => q.atHome && q.pa / 64 = line)
    && !(s.cells.any fun e => e.1 / 64 = line && decide (1 < e.2.length))
/-- Every copy of a line in a board's cache is invalid; a way that is pinned stays the line's, with no valid word (R255,
R358). -/
def Board.drop (v : Board) (line : Nat) : Board :=
  { v with ways := v.ways.filterMap fun e =>
      if e.1 ≠ line then some e
      else if e.2.pins = [] then none
      else some (e.1, { e.2 with valid := 0, dirty := 0 }) }
/-- Evict a tag: every sharer's copy is invalid; the home's bytes stand (R358). -/
def State.evict (s : State) (n line : Nat) : State :=
  let t := ((s.sliceAt n).tags.get SliceLine.fresh line)
  (s.each t.boards fun s b => s.onBoard b fun v => v.drop line).onSlice n fun v =>
    { v with tags := v.tags.erase line }
/-- The tags of the set of a line, but for the line's own. -/
def State.others (s : State) (line : Nat) : List (Nat × SliceLine) :=
  (s.sliceAt (s.homeSlice (line * 64))).tags.filter fun e => e.1 ≠ line && sliceSet 0 (e.1 * 64) = sliceSet 0 (line * 64)
/-- The least recently used line of a set that may be evicted (R358). -/
def State.victim (s : State) (l : List (Nat × SliceLine)) : Option Nat :=
  ((l.filter fun e => s.mayEvict e.1).foldl (fun (m : Option (Nat × SliceLine)) e => match m with
    | none => some e
    | some x => if e.2.used < x.2.used then some e else some x) none).map Prod.fst
/-- A data entry of a set that no tag names. -/
def freeEntry (l : List (Nat × SliceLine)) : Option Nat := (List.range 16).find? fun i => l.all fun e => e.2.entry ≠ i
/-- Evict lines of a line's set until it has a tag and a whole data entry free; none where no more may be evicted. -/
def State.roomFor (s : State) (line : Nat) : Nat → Option Nat × State
  | 0 => (none, s)
  | n + 1 =>
    let l := s.others line
    match (if l.length < 32 then freeEntry l else none) with
    | some e => (some e, s)
    | none => match s.victim l with
      | none => (none, s)
      | some v => (s.evict (s.homeSlice (line * 64)) v).roomFor line n
/-- A line that its slice holds is stored as its bytes allow: compressed, it shares a data entry with another compressed line
where one has a half free; uncompressed, it has a whole entry, evicting where it must, and leaves where it can have none
(R355). -/
def State.pack (s : State) (line : Nat) : State :=
  match s.tag? line with
  | none => s
  | some t =>
    let enc := if t.keep then LineEnc.raw else lineEnc (s.homeNat (line * 64) 64)
    let l := s.others line
    if enc = .raw then
      if t.half = none ∨ l.all (·.2.entry ≠ t.entry) then s.onTag line fun t => { t with enc := enc, half := none }
      else match s.roomFor line 33 with
        | (some e, s) => s.onTag line fun t => { t with enc := enc, entry := e, half := none }
        | (none, s) => s.evict (s.homeSlice (line * 64)) line
    else if t.half.isSome then s.onTag line fun t => { t with enc := enc }
    else match l.find? fun e => e.2.half.isSome && !(l.any fun x => x.1 ≠ e.1 && x.2.entry = e.2.entry) with
      | some e => s.onTag line fun t => { t with enc := enc, entry := e.2.entry, half := e.2.half.map (!·) }
      | none => s.onTag line fun t => { t with enc := enc, half := some false }
/-- A line that is absent gets a tag and a whole data entry (R356), filled or in miss; a line for which the set can make no room
is served without one (log 57). -/
def State.allocate (s : State) (line : Nat) (keep : Bool) (valid : BitVec 16) : Bool × State :=
  match s.roomFor line 33 with
  | (none, s) => (false, s)
  | (some e, s) =>
    let t : SliceLine := { SliceLine.fresh with valid := valid, used := s.cycles, entry := e, keep := keep }
    (true, s.onSlice (s.homeSlice (line * 64)) fun v => { v with tags := v.tags.set line t })
/-- A request reaches a line that is not in miss: a line that is absent has been filled (R356); it is the most recently used of
its set. A line that turns out to be of a KEEP page is compressed no longer (R355). -/
def State.touchLine (s : State) (line : Nat) (keep : Bool) : State :=
  if !s.sliced (line * 64) then s
  else match s.tag? line with
    | some t =>
      let s := s.onTag line fun t => { t with used := s.cycles, keep := t.keep || keep }
      if keep && !t.keep then s.pack line else s
    | none => (s.allocate line keep (BitVec.allOnes 16)).2.pack line

/-! ### Boards (R248, R249, R268, R270) -/

/-- Record that a board holds a line: at its slice, or at the bridge for a line of host memory (R358, R397). -/
def State.shareLine (s : State) (b line : Nat) : State :=
  if s.sliced (line * 64) then s.onTag line fun t => t.share b
  else { s with hostDir := s.hostDir.set line ((s.hostDir.get SliceLine.fresh line).share b) }
/-- The boards recorded as holding a line. -/
def State.sharersOf (s : State) (line : Nat) : List Nat :=
  if s.sliced (line * 64) then ((s.tag? line).map (·.boards)).getD [] else (s.hostDir.get SliceLine.fresh line).boards
/-- The bank a fill of a line takes: an invalid way of the set, else the least recently used that is not pinned; none
where the demand miss bypasses the cache (R248, R249). -/
def Board.victimBank (b : Board) (line : Nat) : Option Nat :=
  let banks := (List.range 16).filter fun n => (b.bank n).mode = 0
  let inSet := b.ways.filter fun e => e.1 % 512 = line % 512
  let dead := fun (w : WayLine) => decide (w.valid = 0 ∧ w.pins = [])
  match banks.find? fun n => inSet.all fun e => e.2.bank ≠ n || dead e.2 with
  | some n => some n
  | none => ((inSet.filter fun e => e.2.pins = []).foldl (fun (m : Option (Nat × WayLine)) e => match m with
      | none => some e
      | some x => if e.2.used < x.2.used then some e else some x) none).map fun e => e.2.bank
/-- A line as it stands at its home, with the stores of the board's cores that have left them and that the home has not applied
(R268, R270). -/
def State.lineFor (s : State) (b line : Nat) : Line :=
  let own := (s.stores.filter fun f => boardOf f.core = b && !f.applied).flatMap (·.bytes)
  lineWrite (BitVec.ofNat 512 (s.homeNat (line * 64) 64)) line own
/-- The words of a line that the board's cores have stored and that are not acknowledged (R270). -/
def State.dirtyAt (s : State) (b line : Nat) : BitVec 16 :=
  wordMask line ((s.stores.filter fun f => boardOf f.core = b).flatMap (·.bytes))
/-- Words on their way to a board's copy of a line are in the line that is filled now; their acknowledgement stands. -/
def State.overtake (s : State) (b line : Nat) : State :=
  { s with updates := s.updates.map fun u => if u.board = b then { u with bytes := u.bytes.filter fun e => e.1 / 64 ≠ line } else u }
/-- Bring a line into a board's cache (R248), or count a bypass (R249). A way that the line holds pinned is filled again
(R255). -/
def State.fillWay (s : State) (b line : Nat) : State :=
  let v := s.boardAt b
  let fresh := fun (s : State) (n : Nat) (pins : List Nat) =>
    let w : WayLine := ⟨n, s.lineFor b line, s.cycles, pins, BitVec.allOnes 16, s.dirtyAt b line⟩
    ((s.onBoard b fun v =>
      { v with ways := Tbl.set (v.ways.filter fun e => !(e.1 % 512 = line % 512 && e.2.bank = n)) line w }).overtake b line).shareLine b line
  match v.way? line with
  | some w =>
    if w.valid = BitVec.allOnes 16 then s.onBoard b fun v => { v with ways := v.ways.set line { w with used := s.cycles } }
    else fresh s w.bank w.pins
  | none => match v.victimBank line with
    | none => s.onBoard b fun v => { v with bypass := (v.bypass + 1) % 2 ^ 32 }
    | some n => fresh s n []

/-- Whether a page's lines may be held in a board's cache: PLAIN, DEV outside a pair, HOST-C (R248, R266, R337). -/
def cacheable (e : Word) : Bool :=
  pteType e = 0 || pteType e = 3 || (pteType e = 2 && pteAux e / 2 ^ 11 = 0)
/-- The byte that a core's own stores give a load of a page, where they have not reached its home: its write-combining buffer, or
what has left it (R268, R278). -/
def State.ownByte (s : State) (c : Nat) (e : Word) (pa : Nat) : Option Byte :=
  if pteType e = 1 then none
  else match ((s.coreAt c).wcb.find? (·.line = pa / 64)).bind fun l => l.bytes.get none pa with
    | some b => some b
    | none =>
      ((s.stores.filter fun f => f.core = c && !f.applied && f.bytes.any (·.1 = pa)).getLast?).bind
        fun f => (f.bytes.find? (·.1 = pa)).map Prod.snd
/-- The byte that a board's cache gives a load of a page. -/
def State.wayByte (s : State) (c : Nat) (e : Word) (pa : Nat) : Option Byte :=
  if cacheable e then
    (((s.boardAt (boardOf c)).way? (pa / 64)).filter fun w => w.valid.getLsbD (pa % 64 / 4)).map fun w => lineByte w.data (pa % 64)
  else none
/-- The byte a core's load of a page returns: its own stores, its board's cache, the home (R268). -/
def State.coreByte (s : State) (c : Nat) (e : Word) (pa : Nat) : Byte :=
  ((s.ownByte c e pa).orElse fun _ => s.wayByte c e pa).getD (s.home pa)

/-- Bytes cut at each multiple of `n` (R275). -/
def sectors (n : Nat) (l : List (Nat × Byte)) : List (List (Nat × Byte)) :=
  ((l.map fun e => e.1 / n).eraseDups).map fun i => l.filter fun e => e.1 / n = i
/-- How the bytes of a buffered line are cut as they leave: at each sector, and those of HOST-U memory at each 8 bytes (R275, R397). -/
def State.lineCut (s : State) (l : WcLine) : Nat :=
  match s.paKind (l.line * 64) with
  | .host => if l.hostC then 32 else 8
  | _ => 32
/-- A store leaves a core for its home, under a ticket: the storing board's copy is written (R270). -/
def State.leave (s : State) (f : StoreFl) : State :=
  let s := s.wayWrite (boardOf f.core) f.bytes true
  { s with stores := s.stores ++ [{ f with since := s.cycles }] }
/-- A line leaves the write-combining buffer for its home, piece by piece (R270, R271, R275). Behind a link that is down it is
discarded (R400). -/
def State.drainLine (s : State) (c line : Nat) : State :=
  match (s.coreAt c).wcb.find? (·.line = line) with
  | none => s
  | some l =>
    let bytes := l.bytes.filterMap fun e => e.2.map fun b => (e.1, b)
    let s := s.onCore c fun v => { v with wcb := v.wcb.filter (·.line ≠ line) }
    s.each (sectors (s.lineCut l) bytes) fun s b =>
      let s := s.post (line * 64)
      if s.cutOff (line * 64) then s
      else
        let (t, s) := s.newTicket
        s.leave ⟨t, c, b, false, [], false, none, false, 0, l.hostC⟩

/-- Bytes enter the write-combining buffer (R271). Where its four lines are full and none matches, the word has waited
until the oldest line drained (R99). -/
def State.enterWcb (s : State) (k : Nat) (bytes : List (Nat × Byte)) (hostC : Bool) : State :=
  s.each bytes fun s e =>
    let c := k / 4
    let line := e.1 / 64
    let v := s.coreAt c
    let s := if v.wcb.any (·.line = line) ∨ v.wcb.length < 4 then s
      else match v.wcb with
        | l :: _ => s.drainLine c l.line
        | [] => s
    let v := s.coreAt c
    if v.wcb.any (·.line = line) then
      s.onCore c fun v => { v with wcb := v.wcb.map fun l =>
        if l.line = line then { l with bytes := l.bytes.put none e.1 (some e.2), wid := k % 4, since := s.cycles } else l }
    else
      s.onCore c fun v => { v with wcb := v.wcb ++ [⟨line, [(e.1, some e.2)], k % 4, s.cycles, hostC⟩] }

/-- Bytes are written at their home, and forwarded to every board recorded as holding their line but `own` (R270). The line is
not in miss. -/
def State.homePut (s : State) (bytes : List (Nat × Byte)) (own : Option Nat) (t : Nat) : List Nat × State :=
  let lines := (bytes.map (·.1 / 64)).eraseDups
  let s := (s.each lines fun s line => s.touchLine line false).putBytes bytes
  let s := s.each lines fun s line => (s.onTag line fun g => { g with dirty := g.dirty ||| wordMask line bytes }).pack line
  let others := ((lines.flatMap s.sharersOf).eraseDups).filter fun b => some b ≠ own
  let addrs := bytes.map Prod.fst
  let old := s.updates.map fun u =>
    if some u.board = own then { u with bytes := u.bytes.filter fun e => !addrs.contains e.1 } else u
  (others, { s with updates := old ++ others.map fun b => ⟨t, b, bytes, s.cycles⟩ })
/-- The count and the handle of a bound notify page, which only the device writes (R143). -/
def State.pageHeld (s : State) (a : Nat) : Bool :=
  s.parts.any fun (e : Nat × Option Part) => match e.2 with
    | some q => q.pages.any fun (g : Nat × NotifyPage) => decide (g.2.pa + 8 ≤ a ∧ a < g.2.pa + 24)
    | none => false
/-- A write of the eight bytes of a bound page's ring field is seen (R144). -/
def State.seeRing (s : State) (bytes : List (Nat × Byte)) : State :=
  let rings := fun (pa : Nat) => bytes.length = 8 && bytes.all fun e => decide (pa ≤ e.1 ∧ e.1 < pa + 8)
  let w := leNat (bytes.map Prod.snd)
  let see := fun (g : NotifyPage) => if rings g.pa then { g with seen := g.seen ++ [w] } else g
  if bytes.length ≠ 8 then s
  else { s with parts := s.parts.map fun (e : Nat × Option Part) =>
    (e.1, e.2.map fun q => { q with pages := q.pages.map fun (g : Nat × NotifyPage) => (g.1, see g.2) }) }
/-- A write by any agent but the device reaches its home: what is read-only of a notify page stays (R143, R144, R270). -/
def State.homeWrite (s : State) (bytes : List (Nat × Byte)) (own : Option Nat) (t : Nat) : List Nat × State :=
  (s.seeRing bytes).homePut (bytes.filter fun e => !s.pageHeld e.1) own t
/-- A sharer board applies words forwarded to it, but for bytes over which it holds a store its home has not applied
(R270). -/
def State.applyUpdate (s : State) (u : Update) : State :=
  let mine := (s.stores.filter fun f => boardOf f.core = u.board && !f.applied).flatMap fun f => f.bytes.map Prod.fst
  let s := s.wayWrite u.board (u.bytes.filter fun e => !mine.contains e.1) false
  { s with
    updates := s.updates.erase u
    stores := s.stores.map fun f => if f.ticket = u.ticket then { f with sharers := f.sharers.erase u.board } else f }
/-- Every forwarded word is applied. -/
def State.applyUpdates (s : State) : State := s.each s.updates State.applyUpdate
/-- A store applied at its home and at every sharer is acknowledged (R270): its words are dirty in the storing board no more, and
the region that waits for a release goes on (R272). -/
def State.ackStore (s : State) (f : StoreFl) : State :=
  let s := { s with stores := s.stores.erase f }
  let b := boardOf f.core
  let s := s.onBoard b fun v => { v with ways := v.ways.map fun e =>
    if (wordMask e.1 f.bytes == 0) then e else (e.1, { e.2 with dirty := e.2.dirty &&& s.dirtyAt b e.1 }) }
  match f.waits with
  | some k => s.ended k f.ticket
  | none => s
/-- Stores that every sharer has applied are acknowledged. -/
def State.ackStores (s : State) : State := s.each (s.stores.filter fun f => f.applied && f.sharers = []) State.ackStore

/-! ## Bank controllers (R246, R252, R272) -/

/-- The bytes of a FIFO slot (R252). -/
def Bank.slotSize (b : Bank) : Nat := 64 * 2 ^ b.z
def Bank.slotCount (b : Bank) : Nat := 32768 / b.slotSize
def Bank.slot (b : Bank) (i : Nat) : FSlot := b.slots.get .free i
/-- Count a store's bytes into the slots they fall in (R252); none where a slot is not RESERVED or would pass its size. -/
def Bank.fill (b : Bank) : List Nat → Option Bank
  | [] => some b
  | o :: l =>
    let i := o / b.slotSize
    match b.slot i with
    | .reserved n =>
      if n < b.slotSize then
        ({ b with slots := b.slots.put .free i (if n + 1 = b.slotSize then .complete else .reserved (n + 1)) } : Bank).fill l
      else none
    | _ => none
/-- A store by any agent reaches a bank: the state with its bytes written, or the cause of the refusal (R246). -/
def State.bankStore (s : State) (b off : Nat) (bytes : List Byte) : Except Nat State :=
  let n := off / 0x8000
  let k := (s.boardAt b).bank n
  let done := fun (s : State) => s.putBytes (((List.range bytes.length).map fun i => storeAddr b (off + i)).zip bytes)
  if k.locked ∨ k.mode = 3 then .error 6
  else if k.mode = 0 then .error 0x10
  else if k.mode = 1 then .ok (done s)
  else
    let touched := (List.range bytes.length).map fun i => off % 0x8000 + i
    if touched.any fun o => match k.slot (o / k.slotSize) with | .reserved _ => false | _ => true then .error 0x10
    else match k.fill touched with
      | some k' => .ok (done (s.onBank b n fun _ => k'))
      | none => .error 0x10
/-- Bytes with an uncorrectable error (R287). -/
def State.errorIn (s : State) (a n : Nat) : Bool := s.ecc.any fun x => a ≤ x && x < a + n
/-- A load by any agent reaches a bank: its bytes, or the cause of the refusal, or of an uncorrectable error (R246, R287). -/
def State.bankLoad (s : State) (b off len : Nat) : Except Nat (List Byte) :=
  let k := (s.boardAt b).bank (off / 0x8000)
  if k.locked ∨ k.mode = 3 then .error 6
  else if k.mode = 0 then .error 0x10
  else if s.errorIn (storeAddr b off) len then .error 0x18
  else .ok (s.homeBytes (storeAddr b off) len)
/-- Bytes arrive for a pending load of a watch (R62). -/
def Watch.arrive (w : Watch) (ord lo : Nat) (bytes : List Byte) : Watch :=
  { w with loads := w.loads.map fun l =>
      if l.ord = ord then
        let own := (bytes.zipIdx.filter fun e => l.off ≤ lo + e.2 ∧ lo + e.2 < l.off + l.size)
        { l with
          need := l.need - 1
          raw := own.foldl (fun v e => v ||| ((e.1.setWidth 256 : Vec) <<< (8 * (lo + e.2 - l.off)))) l.raw }
      else l }
/-- A bank controller serves or refuses one access (R246, R272). -/
def State.serveBank (s : State) (q : BankReq) : State :=
  let s := { s with bankq := s.bankq.filter (·.ticket ≠ q.ticket) }
  match q.acc with
  | .store bytes masks =>
    match s.bankStore q.board q.off (mergeAll masks (s.homeBytes (storeAddr q.board q.off) bytes.length) bytes) with
    | .ok s => s.ended q.watch q.ticket
    | .error c => s.failOnce q.watch q.ticket ⟨q.ord, c, q.pc, q.va⟩
  | .load =>
    match s.bankLoad q.board q.off q.len with
    | .ok bytes => (s.onWatch q.watch fun w => w.arrive q.ord q.lo bytes).ended q.watch q.ticket
    | .error c =>
      (s.onWatch q.watch fun w => { w with loads := w.loads.filter (·.ord ≠ q.ord) }).failOnce q.watch q.ticket
        ⟨q.ord, c, q.pc, q.va⟩

/-! ## Launches and slots (R20 to R26, R120) -/

def Part.launchAt (p : Part) (l : Nat) : Launch :=
  p.launches.get ⟨false, 0, false, false, .replicate 8 0, 0, none, false, 0, []⟩ l
def State.onLaunch (s : State) (p l : Nat) (f : Launch → Launch) : State :=
  s.onPart p fun q => { q with launches := q.launches.set l (f (q.launchAt l)) }
/-- The completion counter takes +1 (R25). -/
def State.countUp (s : State) (p l : Nat) : State := s.onLaunch p l fun v => { v with counter := v.counter + 1 }
/-- The completion counter takes −1 (R25). -/
def State.countDown (s : State) (p l : Nat) : State := s.onLaunch p l fun v => { v with counter := v.counter - 1 }
/-- The handle of a pending-launch entry (R32). -/
def handleOf (l gen : Nat) : Word := BitVec.ofNat 64 (gen % 2 ^ 16 * 256 + l % 256)
def Core.slot (c : Core) (i : Nat) : Slot := c.slots.get .free i
def Core.setSlot (c : Core) (i : Nat) (v : Slot) : Core := { c with slots := c.slots.set i v }
/-- The lowest free slot of a core (R120). -/
def Core.freeSlot (c : Core) : Option Nat := (List.range 64).find? fun i => c.slot i = .free

/-- Everything a watch holds of its board is released: pins and TAKEN slots (R255). -/
def State.release (s : State) (k : Nat) : State :=
  let w := s.watch k
  let s := s.each w.pins fun s e => s.onBoard e.1 fun b =>
    { b with ways := b.ways.map fun l => if l.1 = e.2 then (l.1, { l.2 with pins := l.2.pins.erase k }) else l }
  let s := s.each w.taken fun s e => s.onBank e.1 e.2.1 fun b => { b with slots := b.slots.put .free e.2.2 .free }
  s.onWatch k fun w => { w with pins := [], taken := [] }
/-- The watch after its task: loop levels ended, windows popped, a pending pause dropped, no gang (R146). Enrolments and
registers stay. -/
def Watch.vacate (w : Watch) : Watch :=
  { w with
    st := .free
    after := .marker
    savedAfter := .marker
    img := Image.fresh
    saved := none
    loads := []
    windows := [Window.fresh 4]
    pauseCnt := 0
    readyAt := none
    hm := false
    marker := false
    dfr := false
    faultsDue := false
    tgang := false
    abn := false
    fpTrap := none
    gang := none
    gp := 0
    gs := 1
    cancelled := false
    nbr := none
    passDue := none
    appended := [] }
/-- The task of a watch ends: what it holds is released, its slot is freed unless it is kept, its watch is FREE (R21,
R146). -/
def State.vacate (s : State) (k : Nat) (keep : Bool) : State :=
  let w := s.watch k
  let s := (s.release k).onWatch k Watch.vacate
  s.onCore (k / 4) fun c =>
    let c : Core := { (if keep then c else c.setSlot w.slotNo .free) with follows := c.follows.filter (· ≠ k) }
    if c.issuing = some (k % 4) then { c with issuing := none, lastWid := k % 4 } else c
/-- The task of a watch is abandoned: its launch counter takes −1 (R21, R25). -/
def State.abandon (s : State) (k : Nat) : State :=
  let w := s.watch k
  (s.vacate k false).countDown w.part w.launch

/-! ## Stops (R383, R384) -/

/-- Every core of a partition stops at a slot boundary and records the stop; a stop that meets a stop adds nothing. -/
def State.stop (s : State) (p reason code cause origin : Nat) : State :=
  match s.part? p with
  | none => s
  | some q =>
    if q.run ≠ .running then s
    else
      let s := s.each q.cores fun s c => s.onCore c fun v =>
        { v with
          issuing := none
          watches := v.watches.map fun w => if w.st = .free then w else { w with prior := w.st, st := .halted }
          hcause := BitVec.ofNat 64 (code % 512 * 2 ^ 39 + reason * 2 ^ 36 + origin * 2 ^ 24 + cause)
          hbell := BitVec.ofNat 64 s.bell
          hissue := v.issued
          hmsg := BitVec.ofNat 64 (v.rcvd * 2 ^ 32 + v.sent) }
      s.onPart p fun q => { q with run := .stopped reason }

/-! ## Loads that are delivered (R62, R163) -/

/-- The value of a load in an x register (R288). -/
def PLoad.word (l : PLoad) : Word :=
  let v := l.raw.setWidth 64
  if l.signed then sextN v (8 * l.size) else zextN v (8 * l.size)
/-- A load is delivered: it is the last write of its register. An `ldf` is checked and binds in the window that was the
top window when it issued; refused, it writes nothing and leaves its fault for the marker (R163, R166, R168). One that a later
transport has overtaken has no lanes left: it is checked, and writes nothing (R62, R163). -/
def State.deliver (s : State) (k : Nat) (l : PLoad) : State :=
  let s := s.onWatch k fun w => { w with loads := w.loads.erase l }
  match l.reg with
  | .x r =>
    if r.val = 0 then s
    else s.onWatch k fun w =>
      { w with x := w.x.setIfInBounds r.val l.word
               img := { w.img with flights := w.img.flights.map fun f => if f.xd = some r then { f with xd := none } else f } }
  | .v r => s.onWatch k fun w => { w with v := w.v.setIfInBounds r.val (blend l.lanes (w.vRead r.val) l.raw) }
  | .f r d =>
    let w := s.watch k
    match w.windows[w.depthIdx d]? with
    | none => s
    | some x =>
      if w.windows.length ≤ d then s
      else if !fits x.cap l.word then s.defer k ⟨l.ord, 7, l.pc, l.ea⟩
      else if l.lanes = 0 then s
      else match (s.coreAt (k / 4)).bindF (k % 4) d r.val l.word with
        | some c => s.setCore (k / 4) c
        | none => s.defer k ⟨l.ord, 0x19, l.pc, 1⟩
/-- Put a load behind those that were issued before. -/
def byIssue (r : PLoad) : List PLoad → List PLoad
  | [] => [r]
  | x :: t => if r.ord < x.ord then r :: x :: t else x :: byIssue r t
/-- Every load whose bytes have come is delivered, in the order of issue. -/
def State.deliverAll (s : State) (k : Nat) : State :=
  s.each ((s.watch k).loads.filter (·.need = 0)) fun s l => s.deliver k l
/-- The loads of a region are delivered, with the registers that its `aread` triggers write, in the order of issue (R62,
R236). -/
def State.deliverRegion (s : State) (k : Nat) : State :=
  let w := s.watch k
  let l := w.img.regs.foldl (fun l r => byIssue r l) (w.loads.filter (·.need = 0))
  (s.onWatch k fun w => { w with img := { w.img with regs := [] } }).each l fun s l => s.deliver k l
/-- A load of a watch's region has not come: it is on its way, or held in the memory path. Trap entry waits for it (R372). -/
def Watch.loadsOut (w : Watch) : Bool :=
  w.loads.any (fun l => l.need ≠ 0) || w.path.any fun h => match h.act with
    | .load .. => true
    | _ => false

/-! ## Entering the handler and leaving it (R368 to R376, R381) -/

/-- `tvb`: the handler address and its enable, of the watch's partition (R369). -/
def State.tvb (s : State) (k : Nat) : Word :=
  match s.part? (s.watch k).part with
  | some q => q.tvb
  | none => 0
/-- A watch enters its handler: the port image is saved, the trap CSRs are written, the image is fresh and issue begins
at `tvb` (R372). `raised` is the watch's own cause and value, none in a gang member that raised no trap (R200). -/
def Watch.enter (w : Watch) (tvb : Word) (raised : Option (Nat × Word)) (taddr tnext : Word) (mk : Bool) : Watch :=
  { w with
    tcause := BitVec.ofNat 64 ((raised.map Prod.fst).getD 0)
    tval := (raised.map Prod.snd).getD 0
    taddr := taddr
    tnext := tnext &&& ~~~1
    hm := true
    marker := mk
    dfr := !w.img.faults.isEmpty
    faultsDue := false
    tgang := w.gang.isSome
    saved := some w.img
    img := Image.fresh
    fpTrap := none
    pc := tvb &&& 0x00FFFFFFFFFFFFFE }
/-- TAKING A TRAP (R372 to R374, R200): the watches `ks` (a watch, or the members of its gang) stop where they stand. A
trap of a cause other than 0x13 in handler mode, or with no handler installed, stops the partition (R373, R383).
Otherwise entry waits until the loads of the region have come; they are delivered, and every watch enters the handler. -/
def State.trap (s : State) (ks : List Nat) (raised : Nat → Option (Nat × Word)) (taddr : Nat → Word) (tnext : Word) (mk : Bool) : State :=
  match ks.find? fun k => (raised k).isSome with
  | none => s
  | some k =>
    let cause := ((raised k).map Prod.fst).getD 0
    let w := s.watch k
    if (w.hm && cause ≠ 0x13) || !(s.tvb k).getLsbD 0 then s.stop w.part 1 0 cause (k / 4)
    else if ks.any fun j => (s.watch j).loadsOut then s
    else s.each ks fun s j =>
      let s := s.deliverAll j
      s.onWatch j fun w => w.enter (s.tvb j) (raised j) (taddr j) tnext mk
/-- A trap of one watch. -/
def State.trap1 (s : State) (k cause : Nat) (tval taddr tnext : Word) (mk : Bool) : State :=
  s.trap [k] (fun _ => some (cause, tval)) (fun _ => taddr) tnext mk
/-- LEAVING THE HANDLER: the image and the loop state are restored, user mode returns, issue resumes at `tnext` (R381). -/
def Watch.leave (w : Watch) : Watch :=
  { w with hm := false, img := w.saved.getD Image.fresh, saved := none, pc := w.tnext, marker := false, dfr := false, tgang := false
           faultsDue := false }
/-- The earliest deferred fault of the region, and the others (R376). -/
def Image.takeFault (m : Image) : Option (Deferred × Image) :=
  match m.faults.foldl (fun (b : Option Deferred) d => match b with
      | none => some d
      | some x => if d.ord < x.ord then some d else some x) none with
  | none => none
  | some d => some (d, { m with faults := m.faults.erase d })

end Sys2Proof.Machine
end

