-- ==== Sys2Proof/Machine/Flags.lean ====
section
/-!
DEFINITION. `fst` and the landing of timed results: the ports, registers and flags they write, and the trap that an enabled
flag raises (R58, R59, R178 to R180).
-/
namespace Sys2Proof.Machine

/-- The rounding mode of a watch (R157, R178). -/
def Watch.mode (w : Watch) : RMode := RMode.ofCode (bits w.fst 2 0)
/-- SX: `sf` above 23 beads returns 23 beads (R178). -/
def Watch.sx (w : Watch) : Bool := w.fst.getLsbD 24
/-- The trap enables, in the order NV, DZ, OF, UF, NX, RG (R178). -/
def Watch.enables (w : Watch) : BitVec 6 := w.fst.extractLsb' 16 6
/-- Flags are ORed into `fst` (R179). -/
def Watch.orFlags (w : Watch) (f : BitVec 6) : Watch := { w with fst := w.fst ||| (f.setWidth 64 <<< 8) }
/-- A write of `fst` by `csrw` or `sy.wr`: reserved bits stay 0, and a mode of 5 to 7 leaves the field (R3, R178). -/
def Watch.writeFst (w : Watch) (v : Word) : Watch :=
  let m : Word := if bits v 2 0 ≤ 4 then v &&& 7 else w.fst &&& 7
  { w with fst := (v &&& 0x13F3F00) ||| m }
/-- The rounding mode field is written (R159). -/
def Watch.setMode (w : Watch) (m : BitVec 3) : Watch := { w with fst := (w.fst &&& ~~~7) ||| m.setWidth 64 }

/-- The unit number of R180. -/
def unitNo (u : FUnit) : Nat := FUnit.all.idxOf u
/-- `tval` of the floating-point-enabled trap (R180). -/
def fpTval (f : BitVec 6) (op8 unit : Nat) : Word := BitVec.ofNat 64 (f.toNat + op8 * 2 ^ 8 + unit * 2 ^ 16)

/-- A timed result lands: its port, the register of a C2 word, its flags, and the trap that they raise, the earliest
trigger's first (R58, R59, R108, R179, R180). -/
def Watch.land (w : Watch) (f : Flight) : Watch :=
  let m := w.img
  let n := unitNo f.unit
  let m := if n < 5 then { m with tport := m.tport.setIfInBounds n f.val }
    else
      let v := m.vport.setIfInBounds (n - 5) f.vec
      { m with vport := match f.q with
          | some q => v.setIfInBounds 2 q
          | none => v }
  let w := { w with img := m }
  let w := match f.xd with
    | some r => if r.val = 0 then w else { w with x := w.x.setIfInBounds r.val f.val }
    | none => w
  let w := w.orFlags f.fl
  let hit : BitVec 6 := f.fl &&& w.enables
  if hit = 0 || w.fpTrap.isSome then w
  else { w with fpTrap := some ⟨0, 8, f.pc, fpTval hit f.op8 n⟩ }
/-- The results due by the current slot land, in trigger order (R58, R59). -/
def Watch.landDue (w : Watch) : Watch :=
  let due := w.img.flights.filter fun f => f.due ≤ w.img.slot
  due.foldl Watch.land { w with img := { w.img with
    flights := w.img.flights.filter fun f => !(f.due ≤ w.img.slot)
    landed := due.foldl (fun l f => l ||| f.fl) w.img.landed } }
/-- Put a flight behind those that land no later. -/
def byDue (f : Flight) : List Flight → List Flight
  | [] => [f]
  | g :: t => if f.due < g.due then f :: g :: t else g :: byDue f t
/-- The first trigger of a list of flights whose result raises an enabled flag. -/
def Watch.firstHit (w : Watch) (l : List Flight) : Option Deferred :=
  (l.find? fun f => f.fl &&& w.enables ≠ 0).map fun f => ⟨0, 8, f.pc, fpTval (f.fl &&& w.enables) f.op8 (unitNo f.unit)⟩
/-- Every result in flight lands, in the order of landing slots and then of triggers (R63); of those that raise an enabled flag the
earliest trigger's is trapped (R180; log 59). -/
def Watch.landAll (w : Watch) : Watch :=
  let hit := w.fpTrap.orElse fun _ => w.firstHit w.img.flights
  let v := (w.img.flights.foldl (fun l f => byDue f l) []).foldl Watch.land { w with img := { w.img with flights := [] } }
  { v with fpTrap := hit }
/-- The word's slot has passed (R60). -/
def Watch.nextSlot (w : Watch) : Watch := { w with img := { w.img with slot := w.img.slot + 1, landed := 0 } }
/-- The word's slot has passed: the results due in the next slot land (R58, R60). -/
def Watch.advance (w : Watch) : Watch := w.nextSlot.landDue
/-- A timed result starts on its way, to land `lat` slots on (R58). -/
def Watch.launchTimed (w : Watch) (f : Flight) (lat : Nat) : Watch :=
  { w with img := { w.img with flights := w.img.flights ++ [{ f with due := w.img.slot + lat }] } }
/-- A flight of a scalar result. -/
def Flight.ofWord (u : FUnit) (v : Word) : Flight := ⟨0, u, v, 0, none, none, 0, 0, 0⟩
/-- A flight of a vector result. -/
def Flight.ofVec (u : FUnit) (v : Vec) : Flight := ⟨0, u, 0, v, none, none, 0, 0, 0⟩

end Sys2Proof.Machine
end

