-- ==== Sys2Proof/Machine/Operands.lean ====
section
/-!
DEFINITION. Operand forms: what a source reads, how a datum is converted, what a guard lets through, what a transport
writes, and the address of a memory word (R49 to R57, R65, R66, R104 to R106, R287).
-/
namespace Sys2Proof.Machine

/-- 64 bits in every quarter (R53). -/
def broadcast (w : Word) : Vec := w ++ w ++ w ++ w
/-- Bit i is set where byte lane i is 0xFF (R53). -/
def vecPred (v : Vec) : Pred := BitVec.ofNat 32 (((List.range 32).map fun i => if v.extractLsb' (8 * i) 8 = 0xFF then 2 ^ i else 0).sum)

def Datum.toScalar : Datum → Word
  | .scalar w => w
  | .float w => w
  | .vector v => v.setWidth 64
  | .pred p => p.setWidth 64
def Datum.toVec : Datum → Vec
  | .scalar w => broadcast w
  | .float w => broadcast w
  | .vector v => v
  | .pred p => predVec p
def Datum.toPred : Datum → Pred
  | .scalar w => w.setWidth 32
  | .float w => w.setWidth 32
  | .vector v => vecPred v
  | .pred p => p

/-- The remaining passes of loop level `n`, level 0 outermost (R114). -/
def Watch.lc (w : Watch) (n : Nat) : Word := ((w.img.loops.reverse[n]?).map (·.count)).getD 0
/-- A special register (R49). -/
def State.special (s : State) (k : Nat) (p : Special) : Word :=
  let w := s.watch k
  match p with
  | .cid => BitVec.ofNat 64 (k / 4)
  | .wid => BitVec.ofNat 64 (k % 4)
  | .gp => BitVec.ofNat 64 w.gp
  | .gs => BitVec.ofNat 64 w.gs
  | .vw => BitVec.ofNat 64 (256 * w.gs)
  | .bc => BitVec.ofNat 64 w.bc
  | .fst => w.fst
  | .sib => w.sib
  | .bell => BitVec.ofNat 64 s.bell
  | .cyc => BitVec.ofNat 64 (s.cycles + (s.coreAt (k / 4)).cycOff)
  | .lc0 => w.lc 0
  | .lc1 => w.lc 1
  | .lc2 => w.lc 2
  | .mp => w.mp
  | .pst => w.img.pst
  | .oid => w.oid
/-- A result port (R49, R59, R61). -/
def Watch.port (w : Watch) (p : RPort) : Datum :=
  let n := RPort.all.idxOf p
  if n < 5 then .scalar (Vector.at0 w.img.tport n)
  else if n < 8 then .vector ((w.img.vport[n - 5]?).getD 0)
  else .scalar (Vector.at0 w.img.pport (n - 8))
/-- What a source reads in the word's slot (R49, R102). -/
def State.read (s : State) (k : Nat) : Src → Datum
  | .x r => .scalar ((s.watch k).xRead r.val)
  | .f r => .float ((s.watch k).fRead r.val)
  | .v r => .vector ((s.watch k).vRead r.val)
  | .g r => .pred ((s.watch k).gRead r.val)
  | .port p => (s.watch k).port p
  | .special p => .scalar (s.special k p)
  | .const c => .scalar (BitVec.ofInt 64 ((c.val : Int) - 8))
/-- What reading does beside: a spilled window is filled back (R167). -/
def State.touchSrc (s : State) (k : Nat) : Src → State
  | .f r => s.fTouch k r.val
  | _ => s

/-- The predicate a guard selects (R65). -/
def Watch.guard (w : Watch) (g : Guard) : Pred := if g.neg then ~~~(w.gRead g.sel.val) else w.gRead g.sel.val
/-- Bit 0 of the guard in any member (R65, R66). -/
def State.anyGuard (s : State) (ks : List Nat) (g : Guard) : Bool := ks.any fun k => ((s.watch k).guard g).getLsbD 0

/-- What a transport carries: a source, or the constant of a `ti` (R104 to R106). -/
inductive Carry where
  | src (s : Src) | imm (w : Word)
deriving DecidableEq, Repr
def State.carry (s : State) (k : Nat) : Carry → Datum
  | .src a => s.read k a
  | .imm w => .scalar w
def State.touchCarry (s : State) (k : Nat) : Carry → State
  | .src a => s.touchSrc k a
  | .imm _ => s

/-- A write of an f register of the top window: refused where the value does not fit or cannot be bound (R54, R162,
R163, R168). -/
def State.fWrite (s : State) (k i : Nat) (v : Word) : Except (Nat × Word) State :=
  let w := s.watch k
  let cap := ((w.windows.head?).map (·.cap)).getD 4
  if !fits cap v then .error (7, v)
  else match (s.coreAt (k / 4)).bindF (k % 4) (w.windows.length - 1) i v with
    | some c => .ok ((s.setCore (k / 4) c).onWatch k fun w =>
        { w with loads := w.loads.map fun l => if l.reg = .f (Fin.ofNat 16 i) (w.windows.length - 1) then { l with lanes := 0 } else l })
    | none => .error (0x19, 1)
/-- A transport to a register or an operand latch, under a guard (R65, R104). Trigger ports are written later. -/
def State.transport (s : State) (k : Nat) (p : Pred) (d : Datum) : Dst → Except (Nat × Word) State
  | .x r => .ok (if p.getLsbD 0 then s.onWatch k fun w => w.xWrite r.val d.toScalar else s)
  | .f r => if p.getLsbD 0 then s.fWrite k r.val d.toScalar else .ok s
  | .v r => .ok (s.onWatch k fun w => w.vWrite r.val p d.toVec)
  | .g r => .ok (if p.getLsbD 0 then s.onWatch k fun w => w.gWrite r.val d.toPred else s)
  | .latch l =>
    .ok (if (Dst.latch l).cls = .vector then s.onWatch k fun w => w.setVlatch l (blend p (w.vlatch l) d.toVec)
         else if p.getLsbD 0 then s.onWatch k fun w => w.setLatch l d.toScalar else s)
  | .trig _ => .ok s

/-- The effective address of a memory word (R287). -/
def Watch.ea (w : Watch) (b : XReg) (i : BitVec 12) : Word := w.xRead b.val + i.signExtend 64

end Sys2Proof.Machine
end

