-- ==== Sys2Proof/Machine/Keep.lean ====
section
/-!
DEFINITION. Keeping memory: regions, enrolments, dots and clocks, the values of a cell, the decision of a stamped store and its
retries (R293 to R310, R321, R350).
-/
namespace Sys2Proof.Machine

/-! ## Clocks and dots -/

/-- A dot as a loaded word shows it (R296). -/
def CellVal.dotWord (v : CellVal) : Nat :=
  v.slot * 2 ^ 26 + v.cnt * 4 + (if v.mark then 2 else 0) + (if v.ragged then 1 else 0)
/-- Dots are ordered by counter and then by slot (R297). -/
def dotLt (a b : CellVal) : Bool := a.cnt < b.cnt || (a.cnt = b.cnt && a.slot < b.slot)
/-- A clock covers a dot (R297). -/
def covers (c : Tbl Nat) (v : CellVal) : Bool := v.cnt ≤ c.get 0 v.slot
/-- Join a clock into a clock (R297). -/
def joinClock (c d : Tbl Nat) : Tbl Nat := d.foldl (fun c e => c.put 0 e.1 (max (c.get 0 e.1) e.2)) c
/-- The join of an access into an enrolment's clock, of dots by slot and counter: the generation advances by one where it raises
an entry other than the enrolment's own (R298). -/
def Enrol.join (e : Enrol) (dots : List (Nat × Nat)) : Enrol :=
  { e with
    clock := joinClock e.clock dots
    gen := if dots.any fun d => d.1 ≠ e.slot && e.clock.get 0 d.1 < d.2 then (e.gen + 1) % 2 ^ 16 else e.gen }
/-- The dots of values. -/
def dotsOf (vs : List CellVal) : List (Nat × Nat) := vs.map fun v => (v.slot, v.cnt)
/-- The enrolment register of a watch that holds a region (R294). -/
def Watch.enrolled (w : Watch) (region : Nat) : Option Nat :=
  (List.range 4).find? fun i => match w.kenr[i]? with
    | some e => e.valid && e.region = region
    | none => false
def Watch.enrol (w : Watch) (i : Nat) : Enrol := (w.kenr[i]?).getD Enrol.fresh
def Watch.setEnrol (w : Watch) (i : Nat) (e : Enrol) : Watch := { w with kenr := w.kenr.setIfInBounds i e }
/-- Values a keeping load returns are joined by the watch's enrolment in the region, if it has one (R303). -/
def State.joinVals (s : State) (k region : Nat) (dots : List (Nat × Nat)) : State :=
  match (s.watch k).enrolled region with
  | none => s
  | some i => s.onWatch k fun w => w.setEnrol i ((w.enrol i).join dots)

/-! ## Regions and writer slots -/

def Region.fresh : Region := ⟨64, [], [], false, false, []⟩
def State.region (s : State) (p r : Nat) : Region :=
  match s.part? p with
  | some q => q.regions.get Region.fresh r
  | none => Region.fresh
def State.onRegion (s : State) (p r : Nat) (f : Region → Region) : State :=
  s.onPart p fun q => { q with regions := q.regions.set r (f (q.regions.get Region.fresh r)) }
/-- Why an enrolment is refused: all four registers held, or no slot FREE below the limit (R295, R321). -/
inductive NoEnrol where
  | full | noSlot
deriving DecidableEq, Repr
/-- Enrol a watch in a region: its enrolment register and the state (R294, R321). -/
def State.enrolIn (s : State) (k r : Nat) : Except NoEnrol (Nat × State) :=
  let w := s.watch k
  match w.enrolled r with
  | some i => .ok (i, s)
  | none =>
    match (List.range 4).find? fun i => !(w.enrol i).valid with
    | none => .error .full
    | some i =>
      let g := s.region w.part r
      match (List.range (min g.limit 64)).find? fun n => g.slots.get .free n = .free with
      | none => .error .noSlot
      | some n =>
        let s := s.onRegion w.part r fun g => { g with slots := g.slots.put .free n (.held k) }
        .ok (i, s.onWatch k fun w => w.setEnrol i ⟨true, r, n, 0, Tbl.put 0 [] n (g.counters.get 0 n)⟩)
/-- A store, atomic or reconcile needs an enrolment, and a counter below its limit (R295, R308). The cause of a refusal is
0x0B. -/
def State.writerOf (s : State) (k r : Nat) (counts : Bool) : Option (Nat × State) :=
  match s.enrolIn k r with
  | .error _ => none
  | .ok (i, s) =>
    let e := (s.watch k).enrol i
    if counts && 0xFFFFFF ≤ e.clock.get 0 e.slot then none else some (i, s)
/-- The next dot of an enrolment's slot (R299); the region's compaction-due status follows its counter (R308). -/
def State.nextDot (s : State) (k i : Nat) : Nat × State :=
  let w := s.watch k
  let e := w.enrol i
  let n := e.clock.get 0 e.slot + 1
  let s := s.onWatch k fun w => w.setEnrol i { e with clock := e.clock.put 0 e.slot n }
  (n, s.onRegion w.part e.region fun g =>
    { g with counters := g.counters.put 0 e.slot n, due := g.due || decide (0xFF0000 ≤ n) })

/-- A watch is a writer of each of the regions, or the cause of the trap applies (R295, R308). -/
def State.writerAll (s : State) (k : Nat) (l : List Nat) : Option State :=
  l.foldlM (fun s r => (s.writerOf k r true).map Prod.snd) s
/-- The dots of a store, one for each region that it writes, beside those that it has taken: the next of the watch's slot (R299). -/
def State.stampAll (s : State) (k : Nat) (dots : List Stamp) (l : List Nat) : Option (List Stamp × State) :=
  l.foldlM (fun (acc : List Stamp × State) r =>
    if acc.1.any (·.region = r) then some acc
    else (acc.2.writerOf k r true).map fun x =>
      let old := (x.2.watch k).enrol x.1
      let (n, s) := x.2.nextDot k x.1
      (acc.1 ++ [⟨r, n, old⟩], s)) (dots, s)

/-! ## Cells -/

/-- The values of the cell at a physical address, in no order; a cell none has changed holds one with the initial dot
(R296). -/
def State.cellVals (s : State) (a : Nat) : List CellVal :=
  match s.cells.get [] a with
  | [] => [⟨BitVec.ofNat 32 (s.homeNat a 4), 0, 0, false, false, none⟩]
  | l => l
/-- The value of the highest dot (R297). -/
def topVal (l : List CellVal) : CellVal :=
  match l with
  | [] => ⟨0, 0, 0, false, false, none⟩
  | v :: t => t.foldl (fun b v => if dotLt b v then v else b) v
/-- A cell takes values: the highest-dot value is what loads of its bytes return (R305). A cell of one value with the
initial dot is not listed. -/
def State.setCell (s : State) (a : Nat) (l : List CellVal) : State :=
  let top := topVal l
  let s := s.putNat a 4 top.val.toNat
  match l with
  | [v] => if v.cnt = 0 ∧ v.slot = 0 ∧ !v.mark ∧ !v.ragged ∧ v.clock = none then { s with cells := s.cells.erase a }
      else { s with cells := s.cells.set a [v] }
  | l => { s with cells := s.cells.set a l }
/-- The cells that `n` bytes at a physical address touch. -/
def cellsOf (a n : Nat) : List Nat := (List.range ((a + n + 3) / 4 - a / 4)).map fun i => (a / 4 + i) * 4

/-- The home of a KEEP line: a slice, or 64 + the board of a keeping window (R350). -/
def State.keepHome (s : State) (a : Nat) : Nat :=
  match s.paKind a with
  | .window b _ => 64 + b
  | _ => s.homeSlice a
/-- Pool entries in use at a home (R306). -/
def State.poolUse (s : State) (h : Nat) : Nat :=
  ((s.cells.filter fun e => s.keepHome e.1 = h).map fun e => e.2.length - 1).sum
def poolSize (h : Nat) : Nat := if h < 64 then 262144 else 4096
/-- Attached clocks a home's side store holds (R302). -/
def State.sideUse (s : State) (h : Nat) : Nat :=
  ((s.cells.filter fun e => s.keepHome e.1 = h).map fun e => (e.2.filter fun v => v.clock.isSome).length).sum
def sideSize (h : Nat) : Nat := if h < 64 then 4096 else 256
def cacheSize (h : Nat) : Nat := if h < 64 then 256 else 16

/-- The list that a home keeps for a region: those of its cells that hold more than one value (R306). -/
def State.multiList (s : State) (h : Nat) (cells : List Nat) : List Nat :=
  cells.filter fun c => s.keepHome c = h && decide (1 < (s.cellVals c).length)
/-- A region's changed cells, and its scan mark where the list of the cell's home overflows (R306). -/
def State.note (s : State) (p r a : Nat) : State :=
  s.onRegion p r fun g =>
    let cs := if g.cells.contains a then g.cells else g.cells ++ [a]
    { g with cells := cs, scan := g.scan || decide (65536 < (s.multiList (s.keepHome a) cs).length) }

/-! ## Stamped stores -/

/-- What a home finds for one cell of a store: the values it keeps, and the new one (R300, R310). -/
def State.cellPlan (s : State) (c : Tbl Nat) (q : KeepReq) (a : Nat) : List CellVal × CellVal × State :=
  let vals := s.cellVals a
  let keep := vals.filter fun v => v.mark || !covers c v
  let rest := vals.filter fun v => !(v.mark || !covers c v)
  let written := (q.bytes.zip q.masks).filter fun e => a ≤ e.1.1 && e.1.1 < a + 4
  let full := decide (4 ≤ (written.filter fun e => e.2 = 0xFF).length)
  let ragged := rest = [] && !full
  let (any, s) := if ragged then s.anyWord else (0, s)
  let base : BitVec 32 := if rest = [] then any.setWidth 32 else (topVal rest).val
  let val := written.foldl (fun (v : BitVec 32) e =>
    let n := 8 * (e.1.1 - a)
    let m : BitVec 32 := (e.2.setWidth 32 : BitVec 32) <<< n
    (v &&& ~~~m) ||| (((e.1.2.setWidth 32 : BitVec 32) <<< n) &&& m)) base
  (keep, ⟨val, q.slot, q.cnt, false, ragged, none⟩, s)
/-- The clock the home decides a store by: the cached one, with the slot's own entry before this store, or the
conservative one (R300, R301). -/
def State.homeClock (s : State) (h : Nat) (q : KeepReq) : Option (Tbl Nat) :=
  (s.clocks.find? fun c => c.home = h && c.part = q.part && c.region = q.region && c.slot = q.slot && c.gen = q.gen).map
    fun c => c.clock.put 0 q.slot (q.cnt - 1)
/-- A store that a home decides: performed, refused at a cell, or ragged where that is a trap (R300, R310). -/
inductive Verdict where
  | done (s : State) | refused (cell : Nat) | ragged (cell : Nat)
def State.decideStore (s : State) (h : Nat) (c : Tbl Nat) (q : KeepReq) : Verdict :=
  match q.bytes with
  | [] => .done s
  | e0 :: _ =>
    let cells := cellsOf e0.1 q.bytes.length
    let plans := cells.map fun a => (a, s.cellPlan c q a)
    let grow := (plans.map fun p => (p.2.1.length : Int) + 1 - (s.cellVals p.1).length).foldl (· + ·) 0
    match plans.find? fun p => 3 < p.2.1.length || ((poolSize h : Int) < s.poolUse h + grow) with
    | some p => .refused p.1
    | none =>
      let debug := match s.part? q.part with
        | some p => p.kdebug
        | none => false
      match plans.find? fun p => p.2.2.1.ragged && debug with
      | some p => .ragged p.1
      | none =>
        let clocks := fun (l : List CellVal) => (l.filter fun v => v.clock.isSome).length
        let gone := (plans.map fun p => clocks (s.cellVals p.1) - clocks p.2.1).sum
        let room := decide (s.sideUse h + cells.length ≤ sideSize h + gone)
        let s := if q.attach && !room then s.onPart q.part fun p => { p with noclock := (p.noclock + 1) % 2 ^ 32 } else s
        .done <| s.each cells fun s a =>
          let (keep, new, s) := s.cellPlan c q a
          let new := if q.attach && room then { new with clock := some (q.clock.put 0 q.slot q.cnt) } else new
          (s.setCell a (keep ++ [new])).note q.part q.region a
/-- A request of the list is replaced, or leaves it. -/
def State.setKeep (s : State) (t : Nat) (f : KeepReq → Option KeepReq) : State :=
  { s with keepq := s.keepq.filterMap fun q => if q.ticket = t then f q else some q }
/-- A store or a `recon` of a writer slot has not been decided. -/
def State.slotBusy (s : State) (p r n : Nat) : Bool :=
  (s.keepq.any fun q => q.part = p && q.region = r && q.slot = n)
    || s.atomq.any fun q => q.part = p && q.keep = some r && q.slot = some n
/-- The slot of an enrolment that has ended is RETIRED once its stores have been decided (R321). -/
def State.retire (s : State) (p r n : Nat) : State :=
  s.onRegion p r fun g => { g with slots := g.slots.put .free n (if s.slotBusy p r n then .leaving else .retired) }
/-- Slots that have waited so are RETIRED. -/
def State.retireDue (s : State) (p r : Nat) : State :=
  match (s.region p r).slots.filter fun e => e.2 = .leaving && !s.slotBusy p r e.1 with
  | [] => s
  | l => s.each l fun s e => s.retire p r e.1
/-- A cached clock that the home has used is its most recently used (R301). -/
def State.usedClock (s : State) (h : Nat) (q : KeepReq) : State :=
  let mine := fun (c : CachedClock) => c.home = h && c.part = q.part && c.region = q.region && c.slot = q.slot && c.gen = q.gen
  { s with clocks := s.clocks.filter (fun c => !mine c) ++ s.clocks.filter mine }
/-- The home acts on a stamped store (R300, R301, R307): it asks for the clock once, decides, or refuses; a store refused
on its eighth retry, or ragged under debug, leaves its trap for the marker. -/
def State.homeStore (s : State) (q : KeepReq) : State :=
  match q.bytes with
  | [] => s.setKeep q.ticket fun _ => none
  | e0 :: _ =>
    let h := s.keepHome e0.1
    let clock := s.homeClock h q
    if clock = none && !q.pushed then s.setKeep q.ticket fun q => some { q with wantPush := true }
    else
      let s := (s.usedClock h q).touchLine (e0.1 / 64) true
      let c := clock.getD (Tbl.put 0 [] q.slot (q.cnt - 1))
      let va := fun (a : Nat) => q.va + BitVec.ofNat 64 a - BitVec.ofNat 64 e0.1
      match s.decideStore h c q with
      | .done s =>
        let s := s.onTag (e0.1 / 64) fun g => { g with dirty := g.dirty ||| wordMask (e0.1 / 64) q.bytes }
        ((s.setKeep q.ticket fun _ => none).retireDue q.part q.region).ended q.watch q.ticket
      | .ragged a =>
        ((s.setKeep q.ticket fun _ => none).retireDue q.part q.region).failOnce q.watch q.ticket ⟨q.ord, 0xC, q.pc, va a⟩
      | .refused a =>
        let n := if q.due = 0 then 0 else q.tries + 1
        if 8 ≤ n then
          let s := s.onPart q.part fun p => { p with overflow := (p.overflow + 1) % 2 ^ 32 }
          ((s.setKeep q.ticket fun _ => none).retireDue q.part q.region).failOnce q.watch q.ticket ⟨q.ord, 0xA, q.pc, va a⟩
        else s.setKeep q.ticket fun q => some { q with tries := n, due := s.cycles + 64 * 2 ^ (n + 1) }
/-- The core pushes its clock to the home, which evicts its least recently used (R301). -/
def State.pushClock (s : State) (q : KeepReq) : State :=
  match q.bytes with
  | [] => s
  | e0 :: _ =>
    let h := s.keepHome e0.1
    let own := s.clocks.filter fun c => c.home = h
    let s := if own.length < cacheSize h then s
      else match own with
        | c :: _ => { s with clocks := s.clocks.erase c }
        | [] => s
    { s with clocks := s.clocks ++ [(⟨h, q.part, q.region, q.slot, q.gen, q.clock⟩ : CachedClock)] }.setKeep q.ticket fun q =>
      some { q with pushed := true, wantPush := false }

/-- An 8-byte add over the two cells of a KEEP page (R315, R316). -/
def State.keepAdd (s : State) (a : Nat) (v : Word) : State :=
  let lo := s.cellVals a
  let hi := s.cellVals (a + 4)
  let pair := fun (x : CellVal) (l : List CellVal) => ((l.find? fun y => y.slot = x.slot && y.cnt = x.cnt).getD (topVal l)).val
  let one := decide (lo.length = 1 ∧ hi.length = 1)
  let sum := fun (h l : BitVec 32) => (h ++ l : Word) + v
  let lo' := lo.map fun x => { x with val := (sum (if one then (topVal hi).val else pair x hi) x.val).setWidth 32, mark := true }
  let hi' := hi.map fun x =>
    { x with val := ((sum x.val (if one then (topVal lo).val else pair x lo)) >>> 32).setWidth 32, mark := true }
  (s.setCell a lo').setCell (a + 4) hi'
end Sys2Proof.Machine
end

