-- ==== Sys2Proof/Machine/Homes.lean ====
section
/-!
DEFINITION. What the homes do: loads, stores, stamped stores and atomics performed there, lines in miss and the requests recorded
for them, writes of agents that are no core, and the settling of what a watch has issued (R26, R270, R280 to R284, R290, R300 to
R320, R354 to R358, R397 to R400).
-/
namespace Sys2Proof.Machine

/-! ## Loads (R248, R268, R280, R286, R287, R303 to R305) -/

/-- The read-only cache of a board holds a line (R286). -/
def State.fillRo (s : State) (b line : Nat) : State :=
  if (s.boardAt b).ro.any (·.1 = line) then s
  else s.onBoard b fun v => { v with ro := v.ro.set line (BitVec.ofNat 512 (s.homeNat (line * 64) 64)) }
/-- The bridge holds the line of an address owned (R397, R398). -/
def State.ownLine (s : State) (a : Nat) : State :=
  if s.hostOwned.contains (a / 64) then s else { s with hostOwned := s.hostOwned ++ [a / 64] }
/-- The bridge takes a line of a HOST-C page from the host (R397). -/
def State.ownHost (s : State) (e : Word) (a : Nat) : State := if pteType e = 3 then s.ownLine a else s
/-- Bytes with an uncorrectable error, or behind a link that is down (R287, R400). -/
def State.poisoned (s : State) (a n : Nat) : Bool :=
  s.cutOff a || s.errorIn a n
/-- Whether a load of a page fills its board's cache: a line that its slice holds, or of host memory, not a peer's (R248, R358,
R397, R401). -/
def State.fills (s : State) (e : Word) (a : Nat) : Bool :=
  cacheable e && match s.paKind a with
    | .host => true
    | .tier => (s.tag? (a / 64)).isSome
    | _ => false
/-- Byte `i` of a piece of a load at its home: what a flip has fixed for it, else what stands there (R338). -/
def State.homeFor (s : State) (q : LoadReq) (i : Nat) : Byte :=
  match q.old.find? (·.1 = q.addr + i) with
  | some e => e.2
  | none => s.home (q.addr + i)
/-- The bytes that a piece of a load returns, and the copies it makes: an acquire reads the home, `ldro` the read-only cache,
another load what the core's stores and the board's cache gave it when it set out, and the home (R268, R280, R286). -/
def State.pieceBytes (s : State) (q : LoadReq) : List Byte × State :=
  let b := boardOf (q.watch / 4)
  let line := q.addr / 64
  let s := s.ownHost q.pte q.addr
  if q.form.acquire then ((List.range q.len).map (s.homeFor q), s.touchLine line (pteType q.pte = 1))
  else if q.form.readOnly && cacheable q.pte then
    let s := s.fillRo b line
    ((List.range q.len).map fun i => lineByte ((s.boardAt b).ro.get 0 line) ((q.addr + i) % 64), s)
  else
    let l := (List.range q.len).map fun i => ((q.got[i]?).getD none).getD (s.homeFor q i)
    if q.got.any (· = none) then
      let s := s.touchLine line (pteType q.pte = 1)
      (l, if s.fills q.pte q.addr then s.fillWay b line else s)
    else (l, s)
/-- A piece of a load is performed: its bytes arrive, and keeping loads and acquires join the dots of what they return; or it meets
an error, which is taken at the marker (R287, R303, R304). -/
def State.loadNow (s : State) (q : LoadReq) : State :=
  let k := q.watch
  if s.poisoned q.addr q.len then
    let s := s.onWatch k fun w => { w with loads := w.loads.filter (·.ord ≠ q.ord) }
    s.failOnce k q.ticket ⟨q.ord, 0x18, q.pc, q.va⟩
  else
    let (l, s) := s.pieceBytes q
    let s := (s.onWatch k fun w => w.arrive q.ord q.lo l).ended k q.ticket
    let vals := (cellsOf q.addr q.len).map s.cellVals
    if pteType q.pte = 1 && (q.form.keep || q.form.acquire) then
      let tops := vals.map topVal
      let more := if q.form.acquire then tops.flatMap fun v => v.clock.getD [] else []
      let s := s.joinVals k (pteAux q.pte) (dotsOf tops ++ more)
      if q.form.keep then s.onWatch k fun w => { w with sib := BitVec.ofNat 64 ((vals.map List.length).foldl max 1) } else s
    else if q.form.keep then s.onWatch k fun w => { w with sib := 1 }
    else s

/-! ## Stores (R270, R272, R397, R400) -/

/-- A store whose line is not in miss is applied at its home: the bridge owns its line, its links acknowledge it, and a region that
waits for a non-temporal store goes on (R270, R272, R397). -/
def State.storeHere (s : State) (t : Nat) : State :=
  match s.stores.find? fun f => f.ticket = t && !f.applied with
  | none => s
  | some f =>
    let a := ((f.bytes.head?).map Prod.fst).getD 0
    let s := if f.hostC then s.ownLine a else s
    let (sh, s) := (s.arrived f.bytes).homeWrite f.bytes (some (boardOf f.core)) t
    let s := { s with stores := s.stores.map fun g => if g = f then
      { g with applied := true, sharers := sh, atHome := false, waits := if f.nt then none else f.waits } else g }
    match (if f.nt then f.waits else none) with
    | some k => s.ended k t
    | none => s

/-! ## Atomics and their kin (R295, R303, R311 to R321, R398, R400) -/

/-- The new value of `n` bytes (R312). -/
def atNew (o : AtOp) (n old : Nat) (b c : Word) : Nat :=
  let m := 2 ^ (8 * n)
  let x := b.toNat % m
  match o with
  | .aadd => (old + b.toNat) % m
  | .aand => old &&& x
  | .aor => old ||| x
  | .axor => old ^^^ x
  | .amin => if sgn (8 * n) old ≤ sgn (8 * n) x then old else x
  | .amax => if sgn (8 * n) x ≤ sgn (8 * n) old then old else x
  | .aminn => min old x
  | .amaxn => max old x
  | .axch => x
  | .acas => if old = c.toNat % m then x else old
  | .afadd => addElem .w32 23 .rne old (b.toNat % 2 ^ 32)
  | _ => old

/-- A request leaves its queue; a writer slot that waits for it is RETIRED (R321). -/
def State.atGone (s : State) (q : AtReq) : State :=
  let s := { s with atomq := s.atomq.filter (·.ticket ≠ q.ticket) }
  match q.keep with
  | some r => s.retireDue q.part r
  | none => s
/-- A request ends with a result, or with a fault at the marker. -/
def State.atDone (s : State) (q : AtReq) (v : Word) (st : Nat) : State :=
  (s.atGone q).finish q.watch q.ticket ⟨q.ord, .at, v, st, 0, q.pc⟩
def State.atFault (s : State) (q : AtReq) (cause : Nat) (v : Word) : State :=
  (s.atGone q).fail q.watch q.ticket ⟨q.ord, cause, q.pc, v⟩

/-- Insert a value before those of a higher dot. -/
def byDot (v : CellVal) : List CellVal → List CellVal
  | [] => [v]
  | x :: t => if dotLt v x then v :: x :: t else x :: byDot v t
/-- Values in ascending dot order (R297). -/
def ascending (l : List CellVal) : List CellVal := l.foldl (fun a v => byDot v a) []
/-- The same dot (R296). -/
def sameDot (a b : CellVal) : Bool := a.slot = b.slot && a.cnt = b.cnt
def dotSet (l : List CellVal) : List (Nat × Nat) := (ascending l).map fun v => (v.cnt, v.slot)
/-- Two values combined by an operator and lane type of R317. -/
def reconTwo (op ty x y : Nat) : Nat :=
  let w := if ty = 1 then 64 else 32
  match op with
  | 0 => if ty = 2 then addElem .w32 23 .rne x y else (x + y) % 2 ^ w
  | 1 => if ty = 2 then vaFloat .min .w32 23 .rne x 0 y else if sgn w x ≤ sgn w y then x else y
  | 2 => if ty = 2 then vaFloat .max .w32 23 .rne x 0 y else if sgn w y ≤ sgn w x then x else y
  | _ => x ||| y
def reconFold (op ty : Nat) : List Nat → Nat
  | [] => 0
  | x :: t => t.foldl (reconTwo op ty) x
/-- The collapsed values of a group's cells, and whether a lane is undefined, which then holds free values (R318). -/
def State.collapse (s : State) (op ty : Nat) (cells : List (List CellVal)) : List (BitVec 32) × Bool × State :=
  if 4 ≤ op then
    let dots := ascending cells.flatten
    let first := (cells.head?).getD []
    let marked := (ascending (first.filter fun v => v.val.getLsbD 31)).getLast?
    let d := if op = 5 then (marked.orElse fun _ => dots.getLast?) else dots.getLast?
    (cells.map fun l => match d.bind fun d => l.find? (sameDot d) with
      | some v => v.val
      | none => (topVal l).val, false, s)
  else if ty ≠ 1 then
    (cells.map fun l => BitVec.ofNat 32 (reconFold op ty ((ascending l).map fun v => v.val.toNat)), false, s)
  else
    let lanes := (List.range (cells.length / 2)).map fun i => ((cells[2 * i]?).getD [], (cells[2 * i + 1]?).getD [])
    lanes.foldl (fun (acc : List (BitVec 32) × Bool × State) e =>
      if dotSet e.1 = dotSet e.2 then
        let v := reconFold op 1 (((ascending e.1).zip (ascending e.2)).map fun p => p.1.val.toNat + 2 ^ 32 * p.2.val.toNat)
        (acc.1 ++ [BitVec.ofNat 32 v, BitVec.ofNat 32 (v / 2 ^ 32)], acc.2.1, acc.2.2)
      else
        let (any, s) := acc.2.2.anyWord
        (acc.1 ++ [any.setWidth 32, (any >>> 32).setWidth 32], true, s)) ([], false, s)
/-- The next dot of the writer slot that a `recon` holds: its watch's enrolment counts, or, where that has ended since, the
region (R318, R321). The enrolment joins the dots that the `recon` met. -/
def State.reconDot (s : State) (q : AtReq) (r slot : Nat) (dots : List (Nat × Nat)) : Nat × State :=
  match ((s.watch q.watch).enrolled r).filter fun i => ((s.watch q.watch).enrol i).slot = slot with
  | some i =>
    let (n, s) := s.nextDot q.watch i
    (n, s.onWatch q.watch fun w => w.setEnrol i ((w.enrol i).join dots))
  | none =>
    let n := (s.region q.part r).counters.get 0 slot + 1
    (n, s.onRegion q.part r fun g => { g with counters := g.counters.put 0 slot n, due := g.due || decide (0xFF0000 ≤ n) })
/-- `recon` at the home (R318). -/
def State.reconAt (s : State) (q : AtReq) (r : Nat) : State :=
  let addrs := cellsOf q.pa q.size
  let cells := addrs.map s.cellVals
  let m := (cells.map List.length).foldl max 1
  if m = 1 then s.atDone q 1 0
  else
    let (vals, rg, s) := s.collapse (bits q.b 3 0) (bits q.b 7 4) cells
    let slot := q.slot.getD 0
    let (n, s) := s.reconDot q r slot (dotsOf cells.flatten)
    let s := s.each (addrs.zip vals) fun s e =>
      (s.setCell e.1 [⟨e.2, slot, n, false, rg, none⟩]).note q.part r e.1
    s.atDone q (BitVec.ofNat 64 m) 0
/-- Words of a KEEP line that its slice holds are dirty there (R269). -/
def State.dirtyTag (s : State) (a n : Nat) : State :=
  s.onTag (a / 64) fun g => { g with dirty := g.dirty ||| wordMask (a / 64) ((List.range n).map fun i => (a + i, 0)) }
/-- An atomic on a KEEP page (R315). -/
def State.keepAtomic (s : State) (q : AtReq) (r : Nat) : State :=
  let addrs := cellsOf q.pa q.size
  if addrs.any fun a => 1 < (s.cellVals a).length then s.atDone q 0 14
  else
    let old := s.homeNat q.pa q.size
    let s0 := s
    let s := s.putNat q.pa q.size (atNew q.op q.size old q.b q.c)
    let s := s.each addrs fun s a =>
      let v := (((s0.cellVals a).head?).getD (topVal []))
      (s.setCell a [{ v with val := BitVec.ofNat 32 (s.homeNat a 4), mark := true }]).note q.part r a
    s.atDone q (BitVec.ofNat 64 old) 0
/-- `ldsib` at the home (R319). -/
def State.ldsibAt (s : State) (q : AtReq) : State :=
  let vals := if q.keep.isSome then (ascending (s.cellVals q.pa)).reverse
    else [⟨BitVec.ofNat 32 (s.homeNat q.pa 4), 0, 0, false, false, none⟩]
  match vals[q.b.toNat]? with
  | none => s.atDone q 0 16
  | some v =>
    let s := match q.keep with
      | some r => s.joinVals q.watch r (dotsOf [v])
      | none => s
    s.atDone q (BitVec.ofNat 64 (v.val.toNat + 2 ^ 32 * v.dotWord)) 0
/-- The line that `snap` reads: at its home, or of a board's store, from its bank or its core's slot (R121, R246, R320). -/
def State.snapSource (s : State) (q : AtReq) : Except Nat (List Byte) :=
  if q.board && q.pa % 2 ^ 24 < 0x80000 then s.bankLoad (q.pa / 2 ^ 24 % 1024) (q.pa % 2 ^ 24) 64
  else .ok (s.homeBytes q.pa 64)
/-- `snap` at the home, and its write into the destination's bank (R320). -/
def State.snapAt (s : State) (q : AtReq) : State :=
  let m := if q.keep.isSome then ((cellsOf q.pa 64).map fun a => (s.cellVals a).length).foldl max 1 else 1
  match s.snapSource q with
  | .error c => s.atFault q c q.va
  | .ok l => match s.resolve q.watch .store q.b.toNat with
    | .ok (.bank b off) =>
      if ((s.boardAt b).bank (off / 0x8000)).mode ≠ 1 then s.atFault q 0x10 q.b
      else match s.bankStore b off l with
        | .ok s => s.atDone q (BitVec.ofNat 64 m) 0
        | .error c => s.atFault q c q.b
    | _ => s.atFault q 6 q.b
/-- An atomic at a bank controller (R246, R312). -/
def State.bankAtomic (s : State) (q : AtReq) : State :=
  let b := q.pa / 2 ^ 24 % 1024
  let off := q.pa % 2 ^ 24
  let k := (s.boardAt b).bank (off / 0x8000)
  if k.locked ∨ k.mode = 3 then s.atFault q 6 q.va
  else if k.mode ≠ 1 then s.atFault q 0x10 q.va
  else
    let old := s.homeNat q.pa q.size
    (s.putNat q.pa q.size (atNew q.op q.size old q.b q.c)).atDone q (BitVec.ofNat 64 old) 0
/-- A home performs a request as one access, a bank controller after the watch's earlier board-store accesses: an atomic of a host line at the bridge, which holds the line owned (R312 to R320,
R398, R400). The line is not in miss. -/
def State.applyAt (s : State) (q : AtReq) : State :=
  if s.cutOff q.pa then s.atDone q 0 3
  else if s.poisoned q.pa q.size then s.atFault q 0x18 q.va
  else
    let s := if q.board then s.each (s.bankq.filter fun x => x.watch = q.watch && x.ticket < q.ticket) State.serveBank
      else s.touchLine (q.pa / 64) q.keep.isSome
    match q.op with
    | .recon => match q.keep with
      | some r => (s.reconAt q r).dirtyTag q.pa q.size
      | none => s.atDone q 0 3
    | .ldsib => s.ldsibAt q
    | .snap => s.snapAt q
    | .wslot | .wdrop => s.atDone q 0 0
    | _ =>
      if q.board then s.bankAtomic q
      else match q.keep with
        | some r => (s.keepAtomic q r).dirtyTag q.pa q.size
        | none =>
          let s := match s.paKind q.pa with
            | .host => s.ownLine q.pa
            | _ => s
          let old := s.homeNat q.pa q.size
          let (t, s) := s.newTicket
          let s := (s.homeWrite (((List.range q.size).map (q.pa + ·)).zip (leBytes q.size (atNew q.op q.size old q.b q.c))) none t).2
          s.applyUpdates.ackStores.atDone q (BitVec.ofNat 64 old) 0

/-! ## Lines in miss (R356, R357) -/

/-- A request that reaches a slice whose line is in miss is recorded: in the line's list of eight, else in the secondary queue, else
at the edge port. One whose line is absent puts it in miss. `false`: it is to be served now (R356). -/
def State.recordMiss (s : State) (line : Nat) (keep : Bool) (r : MissReq) : Bool × State :=
  let n := s.homeSlice (line * 64)
  if !s.sliced (line * 64) then (false, s)
  else match (s.sliceAt n).misses.find? (·.line = line) with
    | some m => (true, (s.onTag line fun t => { t with keep := t.keep || keep }).onSlice n fun v =>
        if m.reqs.length < 8 then
          { v with misses := v.misses.map fun x => if x.line = line then { x with reqs := x.reqs ++ [r] } else x }
        else if v.queue.length < 64 then { v with queue := v.queue ++ [(line, r)] }
        else { v with port := v.port ++ [(line, r)] })
    | none =>
      if (s.tag? line).isSome then (false, s)
      else match s.allocate line keep 0 with
        | (false, s) => (false, s)
        | (true, s) => (true, s.onSlice n fun v => { v with misses := v.misses ++ [⟨n, line, s.routeOf n (line * 64), [r]⟩] })
/-- A recorded request is served. -/
def State.serveMiss (s : State) (r : MissReq) : State :=
  match r with
  | .load q => s.loadNow q
  | .store t => s.storeHere t
  | .keep t =>
    match (s.setKeep t fun (q : KeepReq) => some { q with atHome := false }).keepq.find? (·.ticket = t) with
    | some q => (s.setKeep t fun q => some { q with atHome := false }).homeStore q
    | none => s
  | .atomic t =>
    let s := { s with atomq := s.atomq.map fun (q : AtReq) => if q.ticket = t then { q with atHome := false } else q }
    match s.atomq.find? (·.ticket = t) with
    | some q => s.applyAt q
    | none => s
/-- The fill of a line arrives: the line is stored as its bytes allow, the recorded requests are served, then the queued ones, in
arrival order, and requests at the edge port take the places that come free (R355, R356). -/
def State.fillMiss (s : State) (n line : Nat) : State :=
  match (s.sliceAt n).misses.find? (·.line = line) with
  | none => s
  | some m =>
    let v := s.sliceAt n
    let mine := fun (e : Nat × MissReq) => e.1 = line
    let reqs := m.reqs ++ ((v.queue ++ v.port).filter mine).map Prod.snd
    let port := v.port.filter fun e => !mine e
    let queue := v.queue.filter fun e => !mine e
    let s := s.onSlice n fun v => { v with
      misses := v.misses.filter fun x => x.line ≠ line
      queue := queue ++ port.take (64 - queue.length)
      port := port.drop (64 - queue.length) }
    ((s.onTag line fun t => { t with valid := BitVec.allOnes 16, used := s.cycles }).pack line).each reqs State.serveMiss
/-- An agent that waits for its line: the fill of a line in miss, or absent, has arrived. -/
def State.needLine (s : State) (line : Nat) (keep : Bool) : State :=
  if !s.sliced (line * 64) then s
  else if s.inMiss line then s.fillMiss (s.homeSlice (line * 64)) line
  else s.touchLine line keep

/-- What the core's stores and its board's cache give a piece of a load (R268, R278). -/
def State.gotBytes (s : State) (c : Nat) (pte : Word) (a n : Nat) : List (Option Byte) :=
  let own := (List.range n).map fun i => s.ownByte c pte (a + i)
  own.zipIdx.map fun e => e.1.orElse fun _ => s.wayByte c pte (a + e.2)
/-- A piece of a load sets out: it waits for a link that retrains; what the core's stores, the caches, a line that its slice holds or
a home that is no slice can give comes at once; else it is recorded with its line in miss (R268, R356, R399). -/
def State.startLoad (s : State) (q : LoadReq) : State :=
  let c := q.watch / 4
  let b := boardOf c
  let line := q.addr / 64
  if s.cutOff q.addr then s.loadNow q
  else if s.behindRetrain q.addr then { s with linkLoads := s.linkLoads ++ [q] }
  else if q.form.acquire then (s.needLine line (pteType q.pte = 1)).loadNow q
  else if q.form.readOnly && cacheable q.pte && (s.boardAt b).ro.any (·.1 = line) then s.loadNow q
  else if !(q.form.readOnly && cacheable q.pte) && q.got.all Option.isSome then
    (if ((s.boardAt b).way? line).isSome && s.fills q.pte q.addr then s.fillWay b line else s).loadNow q
  else match s.recordMiss line (pteType q.pte = 1) (.load q) with
    | (true, s) => s
    | (false, s) => s.loadNow q
/-- A store reaches its home: it is recorded with a line in miss, or applied. -/
def State.applyStore (s : State) (t : Nat) : State :=
  match s.stores.find? fun f => f.ticket = t && !f.applied with
  | none => s
  | some f =>
    if s.linkHeld f || f.atHome then s
    else match s.recordMiss (((f.bytes.head?).map Prod.fst).getD 0 / 64) false (.store t) with
      | (true, s) => { s with stores := s.stores.map fun g => if g = f then { g with atHome := true } else g }
      | (false, s) => s.storeHere t
/-- An earlier item of a list changes a byte that this one changes. -/
def overlaps (l m : List (Nat × Byte)) : Bool := l.any fun x => m.any fun y => x.1 = y.1
/-- The stores that are applied before one, which is the last: the earlier ones of its board that change a byte that it or one of
them changes. The board's cache shows them in this order, and so does the home (R270, R277). -/
def behind (f : StoreFl) (earlier : List StoreFl) : List StoreFl :=
  earlier.foldr (fun g acc =>
    if boardOf g.core = boardOf f.core && !g.applied && acc.any fun x => overlaps g.bytes x.bytes then g :: acc else acc) [f]
/-- A store is applied at its home, whatever its line waits for, after those it stands behind. -/
def State.applyStoreNow (s : State) (t : Nat) : State :=
  match s.stores.find? fun f => f.ticket = t && !f.applied with
  | none => s
  | some f =>
    s.each (behind f (s.stores.takeWhile (·.ticket ≠ t))) fun s g =>
      if s.linkHeld g then s else (s.needLine (((g.bytes.head?).map Prod.fst).getD 0 / 64) false).storeHere g.ticket
/-- A write by an agent that is no core: applied at the home and at every sharer (R270, R330, R396). -/
def State.agentWrite (s : State) (bytes : List (Nat × Byte)) : State :=
  let s := s.each ((bytes.map (·.1 / 64)).eraseDups) fun s l => s.needLine l false
  let (t, s) := s.newTicket
  (s.homeWrite bytes none t).2.applyUpdates.ackStores
/-- A write by the device itself of what is read-only of a notify page (R143, R144). -/
def State.deviceWrite (s : State) (bytes : List (Nat × Byte)) : State :=
  let s := s.each ((bytes.map (·.1 / 64)).eraseDups) fun s l => s.needLine l false
  let (t, s) := s.newTicket
  (s.homePut bytes none t).2.applyUpdates.ackStores
/-- A write of firmware's to host memory: posted, and lost behind a link that is down (R400, R404). -/
def State.hostWrite (s : State) (a : Nat) (l : List Byte) : State :=
  let bytes := ((List.range l.length).map (a + ·)).zip l
  let s := s.post a
  if s.cutOff a then s else (s.arrived bytes).agentWrite bytes
/-- An atomic reaches its home: it waits for a link that retrains, is recorded with a line in miss, or is performed (R312, R356,
R399). -/
def State.atomicReach (s : State) (q : AtReq) : State :=
  if q.atHome || (!q.board && s.behindRetrain q.pa) then s
  else if q.board then s.applyAt q
  else match s.recordMiss (q.pa / 64) q.keep.isSome (.atomic q.ticket) with
    | (true, s) => { s with atomq := s.atomq.map fun x => if x.ticket = q.ticket then { x with atHome := true } else x }
    | (false, s) => s.applyAt q
/-- A stamped store reaches its home, which decides it or records it with its line in miss (R300, R356). -/
def State.keepReach (s : State) (q : KeepReq) : State :=
  if q.atHome then s
  else match s.recordMiss (((q.bytes.head?).map Prod.fst).getD 0 / 64) true (.keep q.ticket) with
    | (true, s) => s.setKeep q.ticket fun q => some { q with atHome := true }
    | (false, s) => s.homeStore q

/-! ## What a watch has issued is performed (R278, R280 to R284, R290, R292, R312) -/

/-- A stamped store is decided now, unless it has been refused and waits for its retry (R301, R307). -/
def State.tryKeep (s : State) (t : Nat) : Nat → State
  | 0 => s
  | n + 1 =>
    match s.keepq.find? (·.ticket = t) with
    | none => s
    | some q =>
      if q.wantPush then (s.pushClock q).tryKeep t n
      else if s.cycles < q.due then s
      else
        let s := s.needLine (((q.bytes.head?).map Prod.fst).getD 0 / 64) true
        match s.keepq.find? (·.ticket = t) with
        | some q => (if q.wantPush || s.cycles < q.due then s else s.homeStore q).tryKeep t n
        | none => s
/-- The stamped stores of a watch, tried so. -/
def State.tryWatch (s : State) (k : Nat) : State :=
  s.each ((s.keepq.filter (·.watch = k)).map (·.ticket)) fun s t => s.tryKeep t 4
/-- Every earlier store of a core has left it, been applied and been acknowledged, but for those behind a link that retrains (R280,
R284, R290; log 8). -/
def State.settleCore (s : State) (c : Nat) : State :=
  let s := s.each ((s.coreAt c).wcb.map (·.line)) fun s l => s.drainLine c l
  let s := s.each ((s.stores.filter (·.core = c)).map (·.ticket)) State.applyStoreNow
  s.applyUpdates.ackStores
/-- The lines of a core's buffer that a range touches drain, and every store of the core to those lines is applied and
acknowledged, in order (R271, R292, R312). -/
def State.drainOver (s : State) (c pa n : Nat) : State :=
  let meets := fun (line : Nat) => line * 64 < pa + n && pa < line * 64 + 64
  let s := s.each (((s.coreAt c).wcb.map (·.line)).filter meets) fun s l => s.drainLine c l
  let s := s.each ((s.stores.filter fun f => f.core = c && f.bytes.any fun e => meets (e.1 / 64)).map (·.ticket)) State.applyStoreNow
  s.applyUpdates.ackStores
/-- Every load that a watch has issued is performed, but for those behind a link that retrains: bank controllers serve what it has
on its way to them, and the lines its loads miss are filled. -/
def State.performLoads (s : State) (k : Nat) : State :=
  let s := s.each (s.bankq.filter fun q => q.watch = k) State.serveBank
  let mine := fun (r : MissReq) => match r with
    | .load q => q.watch = k
    | _ => false
  let lines := s.slices.flatMap fun (e : Nat × Slice) => ((e.2.misses.filter fun m => m.reqs.any mine).map fun m => (e.1, m.line)) ++
    ((e.2.queue ++ e.2.port).filter fun x => mine x.2).map fun x => (e.1, x.1)
  s.each lines fun s e => s.fillMiss e.1 e.2
/-- Every atomic that a watch has issued is performed, but for those behind a link that retrains. -/
def State.performAtomics (s : State) (k : Nat) : State :=
  s.each ((s.atomq.filter (·.watch = k)).map (·.ticket)) fun s t =>
    match s.atomq.find? (·.ticket = t) with
    | none => s
    | some q =>
      if !q.board && s.behindRetrain q.pa then s
      else
        let s := if q.board then s else s.needLine (q.pa / 64) q.keep.isSome
        match s.atomq.find? (·.ticket = t) with
        | some q => s.applyAt q
        | none => s
/-- Every earlier access of a watch is performed, as far as none waits for a retry or for a link that retrains (R280, R284; log 8):
stamped stores are decided, loads, atomics and bank stores served, plain stores applied everywhere and acknowledged. -/
def State.settleWatch (s : State) (k : Nat) : State :=
  (((s.tryWatch k).performLoads k).performAtomics k).settleCore (k / 4)
/-- A load of a watch waits for a link that retrains. -/
def State.loadsHeld (s : State) (k : Nat) : Bool := s.linkLoads.any (·.watch = k)
/-- A stamped store of a watch that the test names waits for a retry. -/
def State.keepsLeft (s : State) (k : Nat) (f : KeepReq → Bool) : Bool := s.keepq.any fun q => q.watch = k && f q

/-! ## The device's adds (R26, R134, R256, R316) -/

/-- An add of the device's own is made at its home: it waits for a link that retrains, and is discarded and counted behind one that is
down (R399, R400). -/
def State.addAt (s : State) (q : DevAdd) : State :=
  if s.cutOff q.addr then s.post q.addr
  else if s.behindRetrain q.addr then { s with adds := s.adds ++ [q] }
  else
    let s := (s.ownHost q.pte q.addr).needLine (q.addr / 64) (pteType q.pte = 1)
    if pteType q.pte = 1 then
      ((s.keepAdd q.addr q.val).note q.part (pteAux q.pte) q.addr).note q.part (pteAux q.pte) (q.addr + 4)
    else s.agentWrite (((List.range 8).map (q.addr + ·)).zip (leBytes 8 (s.homeWord q.addr + q.val).toNat))
/-- The device adds to an 8-byte cell of a partition, exempt from the writer check. A cell that does not translate takes
nothing (log 10). -/
def State.deviceAdd (s : State) (p : Nat) (va : Nat) (v : Word) : State :=
  match (if 2 ^ 56 ≤ va then none else (s.part? p).bind fun q => s.walk va 4 q.root) with
  | none => s
  | some (e, size) =>
    let a := s.paOf p e size va false
    if s.badPa e a then s else s.addAt ⟨p, e, a, v⟩

end Sys2Proof.Machine
end

