-- ==== Sys2Proof/Machine/Fetch.lean ====
section
/-!
DEFINITION. The words of the stream: the lines that fetch reads, the buffers that hold them, and the word at the program counter
(R44, R99, R117, R129, R414, R416).
-/
namespace Sys2Proof.Machine

/-! ## Fetch (R44, R99, R117, R129, R414) -/

/-- A load that a watch issued before its last `isync` has not been performed: it waits for a link, or behind what waits in the memory
path. Fetches that follow the `isync` come after it (R416). -/
def State.syncWaits (s : State) (k : Nat) : Bool :=
  let w := s.watch k
  s.linkLoads.any (fun q => q.watch = k && decide (q.ord < w.syncOrd)) || w.path.any fun h => match h.act with
    | .load .. => decide (h.ord < w.syncOrd)
    | _ => false
/-- The bytes of a line of a CODE task's own slot, or of memory, as fetch reads them, from the line's slice where no copy gives them
(R268, R356); or the cause of the trap (R414). A line behind a
link that retrains is waited for (R399); one behind a link that is down, or with an uncorrectable error, cannot be fetched
(R44, log 35). -/
def State.fetchLine (s : State) (k : Nat) (va : Nat) : Except Nat (List Byte × State) :=
  let c := k / 4
  let w := s.watch k
  let line := va / 64 * 64
  let code : Bool := match (s.coreAt c).slot w.slotNo with
    | .running t => t.kind = .code
    | _ => false
  if (s.members k).any s.syncWaits then .error waitCause
  else if inWindow va then
    if code ∧ w.mp ≠ 0 ∧ line = w.mp.toNat then .ok (s.homeBytes (storeAddr (boardOf c) (line % 2 ^ 24)) 64, s) else .error 6
  else match s.translate c w.part va with
    | none => .error 5
    | some (e, size) =>
      let pa := s.paOf w.part e size line false
      if s.badPa e pa then .error 5
      else if pteType e = 1 ∨ pteType e = 4 then .error 6
      else if s.behindRetrain pa then .error waitCause
      else if s.cutOff pa || s.errorIn pa 64 then .error 5
      else
        let s := if (s.gotBytes c e pa 64).all Option.isSome then s else s.needLine (pa / 64) false
        .ok ((List.range 64).map fun i => s.coreByte c e (pa + i), s)
/-- A line of the core's fetch buffer. -/
def State.buffered (s : State) (k : Nat) (va : Nat) : Option (List Byte) :=
  ((s.coreAt (k / 4)).fetch.find? (·.line = va / 64)).map (·.bytes)
/-- An address lies in the outermost body that a watch repeats, and its core's loop buffer holds the words of that body (R117). -/
def State.inBody (s : State) (k : Nat) (va : Nat) : Bool :=
  match (s.watch k).img.loops.getLast? with
  | some l => decide ((s.coreAt (k / 4)).loopTag = some (k % 4, l.first) ∧ l.first.toNat ≤ va ∧ va < l.next.toNat)
  | none => false
/-- A halfword of the loop buffer. -/
def State.loopHalf (s : State) (k : Nat) (va : Nat) : Option (BitVec 16) :=
  if s.inBody k va then ((s.coreAt (k / 4)).loopBuf.find? (·.1 = va)).map Prod.snd else none
/-- The first pass of a body fills the loop buffer with the words that it issues (R113). -/
def State.fillLoop (s : State) (k : Nat) (va : Nat) (h : BitVec 16) : State :=
  if s.inBody k va then s.onCore (k / 4) fun c => { c with loopBuf := c.loopBuf.set va h } else s
/-- The halfword at an address: from the buffers, else from the line as it stands, which enters the fetch buffer; a task's own slot
is read as it stands (R129). -/
def State.fetchHalf (s : State) (k : Nat) (va : Nat) : Except Nat (BitVec 16 × State) :=
  let pick := fun (l : List Byte) => BitVec.ofNat 16 (leNat ((l.drop (va % 64)).take 2))
  match s.loopHalf k va with
  | some h => .ok (h, s)
  | none => match s.buffered k va with
    | some l => .ok (pick l, s)
    | none => match s.fetchLine k va with
      | .error c => .error c
      | .ok (l, s) => .ok (pick l, if inWindow va then s else s.onCore (k / 4) fun c =>
          { c with fetch := (c.fetch ++ [(⟨va / 64, l⟩ : FetchLine)]).drop (c.fetch.length + 1 - 4) })
/-- The own-slot outcome of fetching and decoding a word: the instruction, or the cause and value of a trap. An odd address
(a handler's, of a message) is not fetched (R45). -/
def State.fetchWord (s : State) (k : Nat) : Except (Nat × Word) (Instr × State) :=
  let w := s.watch k
  let pc := w.pc.toNat
  let code := (s.coreAt (k / 4)).slot w.slotNo
  let stopAt : Option Nat := match code with
    | .running t => if t.kind = .code then some (w.mp.toNat + 8 + 8 * t.aux) else none
    | _ => none
  let inSlot := w.mp ≠ 0 && pc / 64 * 64 = w.mp.toNat
  let past := fun a => inSlot && (match stopAt with | some e => decide (e ≤ a) | none => false)
  if pc % 2 = 1 then .error (4, w.pc)
  else if past pc then .error (1, 0)
  else match s.fetchHalf k pc with
    | .error c => .error (c, w.pc)
    | .ok (h, s) =>
      let s := s.fillLoop k pc h
      if !h.getLsbD 0 then .ok (decode16 h, s)
      else if past (pc + 2) then .error (1, h.setWidth 64)
      else match s.fetchHalf k (pc + 2) with
        | .error c => .error (c, w.pc + 2)
        | .ok (h2, s) =>
          let s := s.fillLoop k (pc + 2) h2
          match decode32 (h2 ++ h) with
          | .ok i => .ok (i, s)
          | .error .illegalTransport => .error (2, (h2 ++ h).setWidth 64)
          | .error _ => .error (1, (h2 ++ h).setWidth 64)

end Sys2Proof.Machine
end

