-- ==== Sys2Proof/Machine/Issue.lean ====
section
/-!
DEFINITION. The issue of one word: stalls, the landing-slot trap, own-slot checks in every member, effects, where issue
goes on, loops, the slot count, and the marker (R44, R97 to R100, R113 to R116, R196 to R200, R375).
-/
namespace Sys2Proof.Machine

/-- The switch marker bit of a word (R44). -/
def markerOf (i : Instr) : Bool := i.encoding.getLsbD 1

/-- Where issue goes on after a word: the next word, a branch target, past a skipped loop body, or nowhere: the watch
parks as at a marker, and `After` says what follows (R63, R146). -/
inductive Flow where
  | seq | jump (t : Word) | skip (t : Word) | park (a : After)
deriving DecidableEq, Repr

/-- The end of a pass at the body's last word: where issue goes on, if not at the next word, and the levels left (R113). -/
def endPass (pc : Word) : List Loop → Option Word × List Loop
  | [] => (none, [])
  | l :: t =>
    if l.last = pc then
      if l.count = 1 then endPass pc t else (some l.first, { l with count := l.count - 1 } :: t)
    else (none, l :: t)
/-- A taken branch ends every level whose body does not hold its target (R116). -/
def cutLoops (t : Word) (l : List Loop) : List Loop := l.filter fun x => x.first ≤ t ∧ t < x.next

/-- The pass that the last issued word closed ends: the level counts down and the body repeats, or the level ends (R113). -/
def Watch.endPass (w : Watch) : Watch :=
  match w.passDue with
  | none => w
  | some p =>
    let r := Machine.endPass p w.img.loops
    { w with pc := r.1.getD w.pc, img := { w.img with loops := r.2 }, passDue := none }
/-- A watch after its word: program counter, loops, slot count; what is due in the next slot lands, unless the watch parks or its
results are drained (R58, R60, R113, R116, R180, R372). -/
def Watch.finishWord (w : Watch) (len : Nat) (f : Flow) (lands : Bool) : Watch :=
  let closes := if (w.img.loops.head?).any (·.last = w.pc) then some w.pc else none
  let w := match f with
    | .jump t => { w with pc := t, img := { w.img with loops := cutLoops t w.img.loops } }
    | .skip t => { w with pc := t, passDue := closes }
    | _ => { w with pc := w.pc + BitVec.ofNat 64 len, passDue := closes }
  if lands then w.advance else w.nextSlot
/-- A watch parks at a marker (R63), the word at `p`; the pass that it closes ends. -/
def Watch.park (w : Watch) (a : After) (p : Word) : Watch := { w.endPass with st := .parked, after := a, markPc := p }
/-- The issue point stops issuing a watch, and chooses the next READY one (R119). What has issued until now has not been quiet
(R412). -/
def State.leaveIssue (s : State) (k : Nat) : State :=
  (s.onCore (k / 4) fun c => if c.issuing = some (k % 4) then { c with issuing := none, lastWid := k % 4, idle := s.cycles } else c).select
    (k / 4)

/-- The loop buffer of a watch's core is given to the body of its outermost level, unless it holds it: the words enter it as they issue
(R113, R117; log 60). -/
def State.refill (s : State) (k : Nat) : State :=
  match (s.watch k).img.loops.getLast? with
  | none => s
  | some l =>
    if (s.coreAt (k / 4)).loopTag = some (k % 4, l.first) then s
    else s.onCore (k / 4) fun c => { c with loopTag := some (k % 4, l.first), loopBuf := [] }

/-- A neighbour read of the word before, or eight unfinished triggers of a parked unit, hold the next word (R99, R210). -/
def State.nbrStall (s : State) (ks : List Nat) : Bool := ks.any fun k => match (s.watch k).nbr with
  | some n => !n.done
  | none => false
def State.unfinished (s : State) (c : Nat) (u : FUnit) : Nat :=
  ((s.coreAt c).watches.toList.map fun w =>
    ((w.img.waits ++ ((w.saved.map (·.waits)).getD [])).filter fun e => e.2 = some u).length).sum

/-- The passes that the last word closed end in every member; a body that is passed again is in its core's loop buffer (R113,
R117). -/
def State.endPasses (s : State) (ks : List Nat) : State :=
  s.each ks fun s k =>
    if (s.watch k).passDue = none then s
    else
      let t := s.onWatch k Watch.endPass
      if (t.watch k).pc = (s.watch k).pc then t else t.refill k
/-- The trap of a landed result's enabled flag, before the next word issues; each member names its own trigger, and one without a trap
the first trapping member's (R180, R200; log 59). -/
def State.landingTrap (s : State) (ks : List Nat) : State :=
  match ks.findSome? fun k => (s.watch k).fpTrap with
  | none => s
  | some d =>
    let s := s.endPasses ks
    let pc := ((ks.head?).map fun k => (s.watch k).pc).getD 0
    s.trap ks (fun k => ((s.watch k).fpTrap.map fun d => (d.cause, d.val)))
      (fun k => (((s.watch k).fpTrap).map (·.pc)).getD d.pc) pc false

/-- The watches of a core that are ready to issue words of their own. -/
def Core.eager (c : Core) : List Nat :=
  (List.range 4).filter fun i => ((c.watch i).st = .ready || (c.watch i).st = .issuing) && (c.watch i).gang.isNone
/-- The members finish a word (R196). A region that a gang ends counts in the cores of its followers, whose ready watches issue before
the gang's next one (R39; log 60). -/
def State.finishAll (s : State) (ks : List Nat) (len : Nat) (mk lands : Bool) (flow : Flow) : State :=
  let after : Option After := match flow with
    | .park a => some a
    | _ => if mk then some .marker else none
  s.each ks fun s k =>
    let p := (s.watch k).pc
    let s := (s.onWatch k fun w => w.finishWord len flow (lands && after.isNone)).onCore (k / 4) fun c => { c with issued := c.issued + 1 }
    match after with
    | none => s
    | some a =>
      let s := if ks.head? = some k then s else s.onCore (k / 4) fun c => { c with owed := c.eager }
      ((s.endPasses [k]).onWatch k fun w => w.park a p).leaveIssue k

/-- What a word does. `stall` holds it at the issue point; `act` makes a member's own-slot checks and its effects; `post`
is what it does once every member has acted; `flow`, read before, says where issue goes on; `parks` whether its marker
ends the region here, `lands` whether results land as its slot passes; `last` follows once the slot
has passed, given the word's address. -/
structure WordForm where
  stall : State → Nat → Bool := fun _ _ => false
  act : State → Nat → Except (Nat × Word) State := fun s _ => .ok s
  post : State → List Nat → State := fun s _ => s
  flow : State → List Nat → Flow := fun _ _ => .seq
  parks : Bool := true
  lands : Bool := true
  last : State → List Nat → Word → State := fun s _ _ => s

/-- Every member of a list checks a word and acts, one after the other: the state, and the own-slot traps that the word raises
(R200). -/
def WordForm.tries (f : WordForm) (s : State) : List Nat → State × List (Nat × Nat × Word)
  | [] => (s, [])
  | k :: l => match f.act s k with
    | .ok s => f.tries s l
    | .error e => let r := f.tries s l; (r.1, (k, e) :: r.2)
/-- A word that has passed its checks and acted in every member is performed (R196). -/
def State.perform (s : State) (i : Instr) (f : WordForm) (ks : List Nat) (flow : Flow) (pc : Word) : State :=
  f.last ((f.post s ks).finishAll ks i.len (markerOf i && f.parks) f.lands flow) ks pc
/-- THE ISSUE OF A WORD by the issuing watch of the current core and, in a gang, by every member. A word that fails a
check in any member is performed by none (R200). -/
def State.runWord (s : State) (i : Instr) (f : WordForm) : State :=
  match s.issuer with
  | none => s
  | some k =>
    let ks := s.members k
    let s := (s.pass 1).endPasses ks
    let pc := (s.watch k).pc
    if s.nbrStall ks || ks.any (f.stall s) then s
    else if ks.any fun j => (s.watch j).fpTrap.isSome then s.landingTrap ks
    else match f.tries s ks with
      | (t, []) => t.perform i f ks (f.flow s ks) pc
      | (_, e) => s.trap ks (fun j => (e.find? (·.1 = j)).map Prod.snd) (fun _ => pc) pc false

/-- A word that never traps, acts in each member alone, and goes on at the next word. -/
def State.plainWord (s : State) (i : Instr) (f : State → Nat → State) : State :=
  s.runWord i { act := fun s k => .ok (f s k) }

end Sys2Proof.Machine
end

