-- ==== Sys2Proof/Machine/Cells.lean ====
section
/-!
DEFINITION. Loads and stores of cores over every kind of memory, and the order in which a core's memory path performs what a
watch issues: the access itself, whichever word or unit makes it (R174, R245, R266 to R292, R304, R305, R400).
-/
namespace Sys2Proof.Machine

/-! ## The memory path (R277, R278, R280, R283, R290, R291) -/

/-- A piece of an access: its place, its virtual address, its place in the access, its length. -/
abbrev Piece := Place × Nat × Nat × Nat
/-- What a piece covers: the address that names its first byte, and its length. -/
def spanOfPiece (p : Piece) : Nat × Nat :=
  match p.1 with
  | .mem a _ => (a, p.2.2.2)
  | .bank b o => (storeAddr b o, p.2.2.2)
  | .slot c o => (storeAddr (boardOf c) o, p.2.2.2)
def spansMeet (l m : List (Nat × Nat)) : Bool := l.any fun x => m.any fun y => decide (x.1 < y.1 + y.2 ∧ y.1 < x.1 + x.2)
/-- The bytes that a load or a store names. -/
def HeldAct.spans (a : HeldAct) : List (Nat × Nat) :=
  match a with
  | .load _ _ ps _ | .store _ _ _ ps _ => ps.map spanOfPiece
  | _ => []
/-- The triggers that `fence eng` orders (R290). -/
def engineTrigger (o : UOp) : Bool :=
  match o with
  | .ce _ | .ms .coll | .ms .mcast | .mx .wld | .mx .rowld | .mx .mvset | .mx .mmv | .ls .pfr => true
  | _ => false
/-- The triggers that load or store as a core does (R243, R258, R312). -/
def accessTrigger (o : UOp) : Bool :=
  match o with
  | .at _ | .ls _ | .tb _ => true
  | _ => false
/-- An `mx` trigger: the k-th of a core joins its rod's k-th operation (R217). -/
def HeldAct.isMx (a : HeldAct) : Bool :=
  match a with
  | .trig (.mx _) .. => true
  | _ => false
/-- `a`, issued after `h` while `h` waits in the memory path, waits for `h`: a fence holds what its kind orders; an acquire every
access; an access those of its own bytes, a release, a fence, a write-back; a trigger those after it that its accesses could
meet; `roinv` a later `ldro` (R277 to R291). -/
def HeldAct.before (h a : HeldAct) : Bool :=
  match h, a with
  | _, .fence .. => true
  | .fence kind _ _, .trig o .. => if kind = 3 then engineTrigger o else true
  | .fence kind _ _, .store .. => kind ≠ 3
  | .fence kind _ _, .load .. => kind < 2
  | .fence kind _ _, .wb .. => kind < 2
  | .fence .., .roinv => true
  | .load f .., _ => f.acquire || (match a with
      | .load .. => spansMeet h.spans a.spans
      | .store g .. => g.release || spansMeet h.spans a.spans
      | .trig o .. => accessTrigger o
      | .roinv => true
      | _ => false)
  | .store .., _ => (match a with
      | .load .. => spansMeet h.spans a.spans
      | .store g .. => g.release || spansMeet h.spans a.spans
      | .trig .. | .wb .. => true
      | _ => false)
  | .trig o .., _ => (match a with
      | .store g .. => g.release || accessTrigger o
      | .load .. => accessTrigger o
      | .wb .. => false
      | _ => true)
  | .roinv, .load f .. => f.readOnly
  | .wb .., .store .. => spansMeet h.spans a.spans
  | _, _ => false
/-- An `mx` trigger that another watch of the core issued before, under a lower ticket, is held in that watch's path (R217). -/
def State.mxAhead (s : State) (k t : Nat) : Bool :=
  (List.range 4).any fun i => i ≠ k % 4 && (s.watch (k / 4 * 4 + i)).path.any fun h => h.act.isMx && decide (h.ticket < t)
/-- What a watch issues now waits for what its memory path holds, an `mx` trigger also for those of its core's other watches. -/
def State.pathHolds (s : State) (k : Nat) (a : HeldAct) : Bool :=
  ((s.watch k).path.any fun h => h.act.before a) || (a.isMx && s.mxAhead k s.ticket)
/-- WHAT A WATCH ISSUES enters the memory path of its core: it is performed, where nothing that the path holds and nothing of its
own keeps it waiting; `go` tries. Else it is held, under a ticket that the marker waits for. -/
def State.enterPath (s : State) (k ord : Nat) (u : Option FUnit) (a : HeldAct) (go : State → Bool × State) : State :=
  let r := if s.pathHolds k a then (false, s) else go s
  if r.1 then r.2
  else
    let w := s.watch k
    let (t, s) := r.2.newTicket
    s.onWatch k fun v => { v with
      img := v.img.await t u
      path := v.path ++ [(⟨t, ord, w.pc, w.img.latch, w.fst, a⟩ : Held)] }
/-- What the path has held is tried as its word issued it, in the image of its region: the current one, or the one that a handler has
saved. Where it must still wait, nothing changes. -/
def State.asIssued (s : State) (k : Nat) (h : Held) (f : State → Bool × State) : Bool × State :=
  let w := s.watch k
  let saved := !w.img.holds h.ticket && w.saved.any fun m => m.holds h.ticket
  let put := fun (w : Watch) (m : Image) =>
    { w with img := { m with latch := h.latch, waits := m.waits.filter (·.1 ≠ h.ticket) }, pc := h.pc, ord := h.ord, fst := h.fst }
  let r := f (s.onWatch k fun w => if saved then put { w with saved := some w.img } (w.saved.getD Image.fresh) else put w w.img)
  if !r.1 then (false, s)
  else
    let t := r.2.onWatch k fun v =>
      let m := { v.img with latch := if saved then ((w.saved.map (·.latch)).getD h.latch) else w.img.latch }
      if saved then { v with img := v.saved.getD Image.fresh, saved := some m, pc := w.pc, ord := w.ord, fst := w.fst }
      else { v with img := m, pc := w.pc, ord := w.ord, fst := w.fst }
    (true, t)

/-- A stamped store of a watch that its home has not decided meets bytes. -/
def State.keepsMeet (s : State) (k : Nat) (l : List (Nat × Nat)) : Bool :=
  s.keepsLeft k fun q => spansMeet (q.bytes.map fun e => (e.1, 1)) l
/-- Those stores are tried. -/
def State.tryMeet (s : State) (k : Nat) (l : List (Nat × Nat)) : State :=
  if s.keepsMeet k l then
    s.each ((s.keepq.filter fun q => q.watch = k && spansMeet (q.bytes.map fun e => (e.1, 1)) l).map (·.ticket)) fun s t => s.tryKeep t 4
  else s
/-- A piece of memory that lies behind a link that retrains. -/
def State.pieceHeld (s : State) (p : Piece) : Bool :=
  match p.1 with
  | .mem a _ => !s.cutOff a && s.behindRetrain a
  | _ => false

/-! ## Loads -/

/-- The own-slot checks of a load: its pieces, or its fault (R245, R275, R287, R305). -/
def State.loadCheck (s : State) (k : Nat) (f : LoadForm) (va : Nat) : Except (Nat × Word) (List Piece) :=
  let ea := BitVec.ofNat 64 va
  if va % f.align ≠ 0 then .error (4, ea)
  else match s.resolveAll k (if f.keep then .keep else .load) va f.size with
    | .error (c, a) => .error (c, BitVec.ofNat 64 a)
    | .ok ps =>
      let isKeep := ps.any fun p => match p.1 with | .mem _ e => pteType e = 1 | _ => false
      if isKeep && !f.loose && va % f.size ≠ 0 then .error (4, ea) else .ok ps
/-- A load is performed now: not while a stamped store of the watch to its bytes is undecided, nor, as an acquire, behind a link
that retrains. An acquire drains the core's lines that it meets (R278, R280). -/
def State.loadReady (s : State) (k : Nat) (f : LoadForm) (ps : List Piece) : Bool × State :=
  let l := ps.map spanOfPiece
  let s := s.tryMeet k l
  let s := if f.acquire then s.each ps fun s p => match p.1 with
    | .mem a _ => s.drainOver (k / 4) a p.2.2.2
    | _ => s
    else s
  (!s.keepsMeet k l && !(f.acquire && ps.any s.pieceHeld), s)
/-- The pieces of a load set out (R268, R272, R275). A board-store acquire is served at once, behind what the watch has on its way
to bank controllers (R280). -/
def State.loadPieces (s : State) (k ord : Nat) (pc : Word) (f : LoadForm) (ps : List Piece) (old : List (Nat × Byte)) : State :=
  let s := s.each ps fun s p =>
    let va := BitVec.ofNat 64 p.2.1
    let (t, s) := s.newTicket
    let s := s.onWatch k fun w => { w with img := w.img.await t none }
    match p.1 with
    | .mem a e => s.startLoad ⟨t, k, ord, pc, va, p.2.2.1, a, p.2.2.2, e, f, s.gotBytes (k / 4) e a p.2.2.2, old⟩
    | .slot c o =>
      let a := storeAddr (boardOf c) o
      if s.errorIn a p.2.2.2 then
        (s.onWatch k fun w => { w with loads := w.loads.filter (·.ord ≠ ord) }).failOnce k t ⟨ord, 0x18, pc, va⟩
      else (s.onWatch k fun w => w.arrive ord p.2.2.1 (s.homeBytes a p.2.2.2)).ended k t
    | .bank b o => { s with bankq := s.bankq ++ [(⟨t, k, ord, pc, va, b, o, p.2.2.1, p.2.2.2, .load, s.cycles⟩ : BankReq)] }
  let banks := ps.any fun p => match p.1 with
    | .bank _ _ => true
    | _ => false
  if f.acquire && banks then s.each (s.bankq.filter fun q => q.watch = k) State.serveBank else s
def State.doLoad (s : State) (k ord : Nat) (pc : Word) (f : LoadForm) (ps : List Piece) (old : List (Nat × Byte)) : Bool × State :=
  let (ok, s) := s.loadReady k f ps
  if ok then (true, s.loadPieces k ord pc f ps old) else (false, s)
/-- A load by a core: its own-slot faults, or the state with the load issued and its pending entries (R275, R287). -/
def State.load (s : State) (k : Nat) (f : LoadForm) (va : Nat) (regs : List (LReg × Nat × Nat)) :
    Except (Nat × Word) State :=
  match s.loadCheck k f va with
  | .error e => .error e
  | .ok ps =>
    let pc := (s.watch k).pc
    let (ord, s) := s.takeOrd k
    let s := s.onWatch k fun w =>
      { w with loads := w.loads ++ regs.map fun (r : LReg × Nat × Nat) =>
          (⟨ord, r.1, 0, r.2.2, f.signed, r.2.1, ps.length, BitVec.allOnes 32, pc, BitVec.ofNat 64 va⟩ : PLoad) }
    .ok (s.enterPath k ord none (.load f va ps []) fun s => s.doLoad k ord pc f ps [])

/-- A load that a unit makes for watch `k`, with its value at once; or the fault that it leaves for the marker (R258). What
the core has on its way to banks is served first (R220). It waits for a link that retrains and for a stamped store of the watch to
its bytes that has been refused. -/
def State.unitLoad (s : State) (k : Nat) (va n : Nat) (loose : Bool := false) (acquire : Bool := false) :
    Except (Nat × Word) (List Byte × State) :=
  let f : LoadForm := { size := n, acquire := acquire, loose := loose }
  match s.loadCheck k f va with
  | .error e => .error e
  | .ok ps =>
    let (ok, s) := s.loadReady k f ps
    if !ok || ps.any s.pieceHeld then .error (waitCause, 0)
    else match ps.find? fun p => match p.1 with | .mem a _ => s.poisoned a p.2.2.2 | _ => false with
      | some p => .error (0x18, BitVec.ofNat 64 p.2.1)
      | none =>
        ps.foldlM (fun (acc : List Byte × State) p =>
          let s := acc.2
          let va := BitVec.ofNat 64 p.2.1
          match p.1 with
          | .mem a e =>
            let got := s.gotBytes (k / 4) e a p.2.2.2
            let s := if got.all Option.isSome then s else s.needLine (a / 64) (pteType e = 1)
            let r := s.pieceBytes ⟨0, k, 0, 0, va, p.2.2.1, a, p.2.2.2, e, f, got, []⟩
            .ok (acc.1 ++ r.1, r.2)
          | .slot c o =>
            let a := storeAddr (boardOf c) o
            if s.errorIn a p.2.2.2 then .error (0x18, va) else .ok (acc.1 ++ s.homeBytes a p.2.2.2, s)
          | .bank b o =>
            let s := s.each (s.bankq.filter fun q => q.watch / 4 = k / 4) State.serveBank
            match s.bankLoad b o p.2.2.2 with
            | .ok l => .ok (acc.1 ++ l, s)
            | .error c => .error (c, va)) ([], s)

/-! ## Stores -/

/-- The bits that a store writes of byte `i` of its `n` bytes (R174). -/
def StoreForm.mask (f : StoreForm) (n i : Nat) : Byte :=
  let lo : Byte := if i = 0 then (0xFF : Byte) <<< f.low else 0xFF
  let hi : Byte := if i + 1 = n then (0xFF : Byte) >>> f.high else 0xFF
  lo &&& hi
/-- The region of a KEEP page that a piece lies in. -/
def pieceRegion (p : Piece) : Option Nat :=
  match p.1 with
  | .mem _ e => if pteType e = 1 then some (pteAux e) else none
  | _ => none
/-- The own-slot checks of a store that its address and its pages decide: its pieces, or its fault (R245, R266, R275, R287, R299). -/
def State.storeCheck (s : State) (k : Nat) (f : StoreForm) (va n : Nat) : Except (Nat × Word) (List Piece) :=
  let ea := BitVec.ofNat 64 va
  if va % f.align ≠ 0 then .error (4, ea)
  else match s.resolveAll k .store va n with
    | .error (c, a) => .error (c, BitVec.ofNat 64 a)
    | .ok ps => if ps.filterMap pieceRegion ≠ [] && !f.loose && va % n ≠ 0 then .error (4, ea) else .ok ps
/-- Those checks, and the dots of a store beside those that it has taken: its watch enrols, or the cause of the trap applies (R295,
R299, R308). -/
def State.storeDots (s : State) (k : Nat) (f : StoreForm) (va n : Nat) (dots : List Stamp) :
    Except (Nat × Word) (List Piece × List Stamp × State) :=
  match s.storeCheck k f va n with
  | .error e => .error e
  | .ok ps => match s.stampAll k dots (ps.filterMap pieceRegion) with
    | some (dots, s) => .ok (ps, dots, s)
    | none => .error (0xB, BitVec.ofNat 64 va)
/-- A store is performed now: not while a stamped store of the watch to its bytes is undecided; a bead element of part bytes not
behind a link that retrains; a release once every earlier access of the watch has been performed at dev scope (R174, R280). -/
def State.storeReady (s : State) (k : Nat) (f : StoreForm) (ps : List Piece) : Bool × State :=
  let l := ps.map spanOfPiece
  let s := if f.release then s.settleWatch k else s.tryMeet k l
  let bitwise := f.low ≠ 0 || f.high ≠ 0
  (!s.keepsMeet k l && !(bitwise && ps.any s.pieceHeld)
    && (!f.release || !(s.keepsLeft k (fun _ => true) || s.loadsHeld k || s.atomq.any fun q => q.watch = k)), s)
/-- The bytes of a store to a page go to their home: through the write-combining buffer, or at once for a non-temporal store and a
release (R271, R272, R280, R285). Behind a link that is down they are lost (R400). -/
def State.storePiece (s : State) (k : Nat) (f : StoreForm) (a : Nat) (bytes : List Byte) (hostC : Bool) : State :=
  let l := (((List.range bytes.length).map (a + ·)).zip bytes).filter fun e => !s.pageHeld e.1
  let c := k / 4
  if l = [] then s
  else if s.cutOff a then s.post a
  else if f.release ∨ f.nt then
    let s := (s.drainOver c a bytes.length).post a
    let (t, s) := s.newTicket
    let s := s.onWatch k fun w => { w with img := w.img.await t none }
    s.leave ⟨t, c, l, false, [], f.nt, some k, false, 0, hostC⟩
  else s.enterWcb k l hostC
/-- The bits of a bead element are merged into the bytes at their home, as one access, behind the core's earlier stores to them (R174).
They do not wait in a buffer (log 61). -/
def State.mergeStore (s : State) (c : Nat) (e : Word) (a : Nat) (bytes masks : List Byte) : State :=
  let s := (s.drainOver c a bytes.length).post a
  if s.cutOff a then s
  else
    let s := (s.ownHost e a).needLine (a / 64) false
    let new := ((List.range bytes.length).map (a + ·)).zip (mergeAll masks (s.homeBytes a bytes.length) bytes)
    (s.arrived new).agentWrite new
/-- A stamped store sets out for its home, under its dot (R272, R299). -/
def State.sendKeep (s : State) (k ord : Nat) (pc ea : Word) (a r : Nat) (bytes masks : List Byte) (d : Stamp) (attach : Bool) : State :=
  let (t, s) := s.newTicket
  let s := s.onWatch k fun w => { w with img := w.img.await t none }
  { s with keepq := s.keepq ++ [(⟨t, k, ord, pc, ea, ((List.range bytes.length).map (a + ·)).zip bytes, masks, (s.watch k).part, r,
    d.old.slot, d.cnt, d.old.gen, d.old.clock, attach, false, false, 0, 0, false, s.cycles⟩ : KeepReq)] }
/-- The pieces of a store set out, with the dots that it has taken (R271, R272, R275, R299). -/
def State.storePieces (s : State) (k ord : Nat) (pc : Word) (f : StoreForm) (bytes : List Byte) (ps : List Piece) (dots : List Stamp) :
    State :=
  s.each ps fun s p =>
    let l := (bytes.drop p.2.2.1).take p.2.2.2
    let masks := (List.range p.2.2.2).map fun i => f.mask bytes.length (p.2.2.1 + i)
    let ea := BitVec.ofNat 64 p.2.1
    match p.1 with
    | .mem a e =>
      if pteType e = 1 then
        match dots.find? (·.region = pteAux e) with
        | some d => s.sendKeep k ord pc ea a (pteAux e) l masks d f.release
        | none => s
      else if masks.all (· = 0xFF) then s.storePiece k f a l (pteType e = 3)
      else s.mergeStore (k / 4) e a l masks
    | .bank b o =>
      let (t, s) := s.newTicket
      let s := s.onWatch k fun w => { w with img := w.img.await t none }
      { s with bankq := s.bankq ++ [(⟨t, k, ord, pc, ea, b, o, p.2.2.1, p.2.2.2, .store l masks, s.cycles⟩ : BankReq)] }
    | .slot _ _ => s
def State.doStore (s : State) (k ord : Nat) (pc : Word) (f : StoreForm) (bytes : List Byte) (ps : List Piece) (dots : List Stamp) :
    Bool × State :=
  let (ok, s) := s.storeReady k f ps
  if ok then (true, s.storePieces k ord pc f bytes ps dots) else (false, s)
/-- A store by a core: its own-slot faults, or the state with the store issued, its dots taken (R266, R275, R287, R295, R299, R308). -/
def State.store (s : State) (k : Nat) (f : StoreForm) (va : Nat) (bytes : List Byte) : Except (Nat × Word) State :=
  match s.storeDots k f va bytes.length [] with
  | .error e => .error e
  | .ok (ps, dots, s) =>
    let pc := (s.watch k).pc
    let (ord, s) := s.takeOrd k
    .ok (s.enterPath k ord none (.store f va bytes ps dots) fun s => s.doStore k ord pc f bytes ps dots)
/-- A store that a unit makes for watch `k` in its trigger's place of the order, with the dots that its trigger has taken; or its
fault, or the cause for which it waits. -/
def State.unitStore (s : State) (k ord : Nat) (f : StoreForm) (va : Nat) (bytes : List Byte) (dots : List Stamp) :
    Except (Nat × Word) State :=
  match s.storeDots k f va bytes.length dots with
  | .error e => .error e
  | .ok (ps, dots, s) =>
    let r := s.doStore k ord (s.watch k).pc f bytes ps dots
    if r.1 then .ok r.2 else .error (waitCause, 0)

/-! ## The memory words (R287 to R289, R304) -/

/-- A load word: every member loads with its own registers. -/
def State.loadWord (s : State) (i : Instr) (f : LoadForm) (b : XReg) (o : BitVec 12) (regs : Watch → List (LReg × Nat × Nat)) :
    State :=
  s.runWord i { act := fun s k => s.load k f ((s.watch k).ea b o).toNat (regs (s.watch k)) }
/-- A load of one x register. -/
def State.loadX (s : State) (i : Instr) (f : LoadForm) (r b : XReg) (o : BitVec 12) : State :=
  s.loadWord i f b o fun _ => [(.x r, 0, f.size)]
/-- A store word: every member stores its own register's bytes. -/
def State.storeWord (s : State) (i : Instr) (f : StoreForm) (b : XReg) (o : BitVec 12) (data : Watch → List Byte) : State :=
  s.runWord i { act := fun s k => s.store k f ((s.watch k).ea b o).toNat (data (s.watch k)) }
/-- A store of the low bytes of an x register. -/
def State.storeX (s : State) (i : Instr) (f : StoreForm) (n : Nat) (r b : XReg) (o : BitVec 12) : State :=
  s.storeWord i f b o fun w => leBytes n (w.xRead r.val).toNat
/-- The even register of a pair, and the odd one (R70). -/
def pairReg (r : Fin 16) (n : Nat) : XReg := Fin.ofNat 32 (2 * r.val + n)

/-- `ldb`: a byte, sign-extended (R288). -/
def execLdb (r b : XReg) (o : BitVec 12) (m : Bool) (s : State) : Host.Outcome State Fault Refusal :=
  .next (s.loadX (.ldb r b o m) { size := 1, signed := true } r b o)
/-- `ldh`: two bytes, sign-extended (R288). -/
def execLdh (r b : XReg) (o : BitVec 12) (m : Bool) (s : State) : Host.Outcome State Fault Refusal :=
  .next (s.loadX (.ldh r b o m) { size := 2, signed := true } r b o)
/-- `ldw`: four bytes, sign-extended (R288). -/
def execLdw (r b : XReg) (o : BitVec 12) (m : Bool) (s : State) : Host.Outcome State Fault Refusal :=
  .next (s.loadX (.ldw r b o m) { size := 4, signed := true } r b o)
/-- `ldd`: eight bytes (R288). -/
def execLdd (r b : XReg) (o : BitVec 12) (m : Bool) (s : State) : Host.Outcome State Fault Refusal :=
  .next (s.loadX (.ldd r b o m) { size := 8 } r b o)
/-- `ldbz`: a byte, zero-extended (R288). -/
def execLdbz (r b : XReg) (o : BitVec 12) (m : Bool) (s : State) : Host.Outcome State Fault Refusal :=
  .next (s.loadX (.ldbz r b o m) { size := 1 } r b o)
/-- `ldhz`: two bytes, zero-extended (R288). -/
def execLdhz (r b : XReg) (o : BitVec 12) (m : Bool) (s : State) : Host.Outcome State Fault Refusal :=
  .next (s.loadX (.ldhz r b o m) { size := 2 } r b o)
/-- `ldwz`: four bytes, zero-extended (R288). -/
def execLdwz (r b : XReg) (o : BitVec 12) (m : Bool) (s : State) : Host.Outcome State Fault Refusal :=
  .next (s.loadX (.ldwz r b o m) { size := 4 } r b o)
/-- `ldq`: sixteen bytes to a pair of registers (R288). -/
def execLdq (r : Fin 16) (b : XReg) (o : BitVec 12) (m : Bool) (s : State) : Host.Outcome State Fault Refusal :=
  .next (s.loadWord (.ldq r b o m) { size := 16 } b o fun _ => [(.x (pairReg r 0), 0, 8), (.x (pairReg r 1), 8, 8)])
/-- `ldv`: 32 bytes per member to a v register (R288). -/
def execLdv (r : VReg) (b : XReg) (o : BitVec 12) (m : Bool) (s : State) : Host.Outcome State Fault Refusal :=
  .next (s.loadWord (.ldv r b o m) { size := 32 } b o fun _ => [(.v r, 0, 32)])
/-- `ldf`: a transport form to an f register of the window that is on top now (R166, R288). -/
def execLdf (r : FReg) (b : XReg) (o : BitVec 12) (m : Bool) (s : State) : Host.Outcome State Fault Refusal :=
  .next (s.loadWord (.ldf r b o m) { size := 8 } b o fun w => [(.f r (w.windows.length - 1), 0, 8)])
/-- `ldacq`: an acquire, read at the home (R280). -/
def execLdacq (r b : XReg) (o : BitVec 12) (m : Bool) (s : State) : Host.Outcome State Fault Refusal :=
  .next (s.loadX (.ldacq r b o m) { size := 8, align := 8, acquire := true } r b o)
/-- `ldk`: a keeping load of two cells (R304). -/
def execLdk (r b : XReg) (o : BitVec 12) (m : Bool) (s : State) : Host.Outcome State Fault Refusal :=
  .next (s.loadX (.ldk r b o m) { size := 8, align := 8, keep := true } r b o)
/-- `ldro`: the read-only path (R286). -/
def execLdro (r b : XReg) (o : BitVec 12) (m : Bool) (s : State) : Host.Outcome State Fault Refusal :=
  .next (s.loadX (.ldro r b o m) { size := 8, readOnly := true } r b o)
/-- `ldkv`: a keeping load of eight cells per member (R304). -/
def execLdkv (r : VReg) (b : XReg) (o : BitVec 12) (m : Bool) (s : State) : Host.Outcome State Fault Refusal :=
  .next (s.loadWord (.ldkv r b o m) { size := 32, align := 32, keep := true } b o fun _ => [(.v r, 0, 32)])
/-- `stb`: a byte (R289). -/
def execStb (r b : XReg) (o : BitVec 12) (m : Bool) (s : State) : Host.Outcome State Fault Refusal :=
  .next (s.storeX (.stb r b o m) {} 1 r b o)
/-- `sth`: two bytes (R289). -/
def execSth (r b : XReg) (o : BitVec 12) (m : Bool) (s : State) : Host.Outcome State Fault Refusal :=
  .next (s.storeX (.sth r b o m) {} 2 r b o)
/-- `stw`: four bytes (R289). -/
def execStw (r b : XReg) (o : BitVec 12) (m : Bool) (s : State) : Host.Outcome State Fault Refusal :=
  .next (s.storeX (.stw r b o m) {} 4 r b o)
/-- `std`: eight bytes (R289). -/
def execStd (r b : XReg) (o : BitVec 12) (m : Bool) (s : State) : Host.Outcome State Fault Refusal :=
  .next (s.storeX (.std r b o m) {} 8 r b o)
/-- `stq`: a pair of registers (R289). -/
def execStq (r : Fin 16) (b : XReg) (o : BitVec 12) (m : Bool) (s : State) : Host.Outcome State Fault Refusal :=
  .next (s.storeWord (.stq r b o m) {} b o fun w =>
    leBytes 8 (w.xRead (pairReg r 0).val).toNat ++ leBytes 8 (w.xRead (pairReg r 1).val).toNat)
/-- `stv`: a v register per member (R289). -/
def execStv (r : VReg) (b : XReg) (o : BitVec 12) (m : Bool) (s : State) : Host.Outcome State Fault Refusal :=
  .next (s.storeWord (.stv r b o m) {} b o fun w => leBytes 32 (w.vRead r.val).toNat)
/-- `stf`: the transport form of an f register, read through its windows (R162, R289). -/
def execStf (r : FReg) (b : XReg) (o : BitVec 12) (m : Bool) (s : State) : Host.Outcome State Fault Refusal :=
  .next (s.runWord (.stf r b o m) {
    act := fun s k => (s.store k {} ((s.watch k).ea b o).toNat (leBytes 8 ((s.watch k).fRead r.val).toNat)).map fun s => s.fTouch k r.val })
/-- `strel`: a release at dev scope (R280). -/
def execStrel (r b : XReg) (o : BitVec 12) (m : Bool) (s : State) : Host.Outcome State Fault Refusal :=
  .next (s.storeX (.strel r b o m) { align := 8, release := true } 8 r b o)
/-- `stnt`: a non-temporal store (R285). -/
def execStnt (r b : XReg) (o : BitVec 12) (m : Bool) (s : State) : Host.Outcome State Fault Refusal :=
  .next (s.storeX (.stnt r b o m) { nt := true } 8 r b o)
/-- `stvnt`: a non-temporal store of a v register per member (R285). -/
def execStvnt (r : VReg) (b : XReg) (o : BitVec 12) (m : Bool) (s : State) : Host.Outcome State Fault Refusal :=
  .next (s.storeWord (.stvnt r b o m) { nt := true } b o fun w => leBytes 32 (w.vRead r.val).toNat)

end Sys2Proof.Machine
end

