-- ==== Sys2Proof/Machine/Csr.lean ====
section
/-! DEFINITION. The CSRs: what each reads, which of them are written, and by whom (R139, R169, R178, R211, R264, R322, R369,
R377 to R379, R384, R392). -/
namespace Sys2Proof.Machine

/-- Bit fields from the lowest up: value and width. -/
def pack : List (Nat × Nat) → Nat
  | [] => 0
  | (v, n) :: t => v % 2 ^ n + 2 ^ n * pack t
def packWord (l : List (Nat × Nat)) : Word := BitVec.ofNat 64 (pack l)
def ofB (b : Bool) : Nat := if b then 1 else 0

/-- `bwin` (R169). -/
def Watch.bwin (w : Watch) : Word :=
  match w.windows with
  | [] => 0
  | x :: _ => packWord [(x.cap - 1, 2), (0, 6), (w.windows.length - 1, 4), (0, 4),
      (((List.range 16).map fun i => ofB ((x.vals[i]?).getD none).isSome * 2 ^ i).sum, 16)]
/-- `bpool` (R169). -/
def Core.bpool (c : Core) : Word :=
  packWord [(c.freePips, 12), (0, 4), (c.pips true, 12), (c.reserve, 4), (c.spills, 32)]
/-- `bspl` (R169). -/
def Core.bspl (c : Core) : Word :=
  BitVec.ofNat 64 ((List.range 64).map fun i =>
    let w := c.watch (i / 16)
    let d := i % 16
    if d < w.windows.length then (match w.windows[w.depthIdx d]? with
      | some x => ofB x.spilled * 2 ^ i
      | none => 0) else 0).sum
/-- `fifok` (R264). -/
def Bank.fifo (b : Bank) : Word :=
  if b.mode ≠ 2 then 0
  else
    let st := (List.range b.slotCount).map b.slot
    packWord [(b.z, 4), ((st.filter (· = .free)).length, 10), ((st.filter (· = .complete)).length, 10), (b.head, 10), (b.tail, 10)]
/-- `bmodes` (R264). -/
def Board.bmodes (b : Board) : Word :=
  packWord ((b.banks.toList.map fun k => (k.mode, 2)) ++ b.banks.toList.map fun k => (ofB k.locked, 1))
/-- `kenre` (R322). -/
def Enrol.word (e : Enrol) : Word :=
  if e.valid then packWord [(e.gen, 16), (e.clock.get 0 e.slot, 24), (0, 5), (e.slot, 6), (e.region, 12), (1, 1)] else 0
/-- `tstat` (R369). -/
def Watch.tstat (w : Watch) : Word :=
  packWord [(ofB w.hm, 1), (0, 3), (ofB w.tgang, 1), (ofB w.dfr, 1), (ofB w.marker, 1), (ofB w.abn, 1)]

/-- A CSR of a watch's partition, 0 where it has none. -/
def State.partCsr (s : State) (k : Nat) (f : Part → Word) : Word :=
  match s.part? (s.watch k).part with
  | some p => f p
  | none => 0
/-- What a CSR number reads for watch `k`; none where it is not assigned (R379). -/
def State.csr? (s : State) (k n : Nat) : Option Word :=
  let w := s.watch k
  let c := s.coreAt (k / 4)
  let b := s.boardAt (boardOf (k / 4))
  match n with
  | 0x001 => some w.fst
  | 0x010 => some w.lnch
  | 0x011 => some w.gph
  | 0x012 => some (s.partCsr k fun p => BitVec.ofNat 64 p.phase)
  | 0x050 => some (s.partCsr k fun p => BitVec.ofNat 64 p.win)
  | 0x060 => some w.bwin
  | 0x061 => some c.bpool
  | 0x062 => some c.bspl
  | 0x070 => some (w.nlend.setWidth 64)
  | 0x071 => some (w.nbt.setWidth 64)
  | 0x080 => some (BitVec.ofNat 64 w.quota)
  | 0x081 => some (BitVec.ofNat 64 w.pins.length)
  | 0x082 => some (packWord [(b.bypass, 32), (b.pinfail, 32)])
  | 0x083 => some b.bmodes
  | 0x0A4 => some (s.partCsr k fun p => packWord [(p.noclock, 32), (p.overflow, 32)])
  | 0x100 => some (s.tvb k)
  | 0x101 => some w.tcause
  | 0x102 => some w.taddr
  | 0x103 => some w.tnext
  | 0x104 => some w.tval
  | 0x105 => some w.tstat
  | 0x106 => some w.tsa0
  | 0x107 => some w.tsa1
  | 0x110 => some c.hcause
  | 0x111 => some c.hbell
  | 0x112 => some (BitVec.ofNat 64 c.hissue)
  | 0x113 => some c.hmsg
  | 0x118 => some (s.partCsr k fun p => BitVec.ofNat 64 p.dusk)
  | _ =>
    let cvr := fun (f : Cvr → Word) => some (s.partCsr k fun p => f (p.cvr[n % 8]'(Nat.mod_lt _ (by decide))))
    if 0x040 ≤ n ∧ n < 0x048 then cvr fun v => packWord [(v.deposits, 32), (v.window, 32)]
    else if 0x048 ≤ n ∧ n < 0x050 then cvr Cvr.maxres
    else if 0x090 ≤ n ∧ n < 0x0A0 then some (b.bank (n - 0x090)).fifo
    else if 0x0A0 ≤ n ∧ n < 0x0A4 then some (w.enrol (n - 0x0A0)).word
    else none
/-- CSRs that only a handler may write (R368, R379). -/
def handlerOnly (n : Nat) : Bool := n = 0x103 || n = 0x106 || n = 0x107
/-- A write of a CSR: its RW fields take the value; RO and RSV fields ignore it (R3, R4, R377). -/
def Watch.writeCsr (w : Watch) (n : Nat) (v : Word) : Watch :=
  match n with
  | 0x001 => w.writeFst v
  | 0x070 => { w with nlend := v.setWidth 16 }
  | 0x071 => { w with nbt := v.setWidth 16 }
  | 0x080 => { w with quota := min (v.toNat % 128) 64 }
  | 0x103 => { w with tnext := v &&& ~~~1 }
  | 0x106 => { w with tsa0 := v }
  | 0x107 => { w with tsa1 := v }
  | _ => w

/-- `csrr`: a number that is not assigned is illegal (R377). -/
def execCsrr (a : XReg) (n : BitVec 9) (m : Bool) (s : State) : Host.Outcome State Fault Refusal :=
  .next (s.runWord (.csrr a n m) { act := fun s k => match s.csr? k n.toNat with
    | some v => .ok (s.onWatch k fun w => w.xWrite a.val v)
    | none => .error (1, Instr.encoding (.csrr a n m)) })
/-- `csrw`: a handler-only CSR is illegal in user mode (R377). A write of `fst` takes the flags of the results that land in its
slot (R179). -/
def execCsrw (a : XReg) (n : BitVec 9) (m : Bool) (s : State) : Host.Outcome State Fault Refusal :=
  .next (s.runWord (.csrw a n m) {
    act := fun s k =>
      if (s.csr? k n.toNat).isNone || (handlerOnly n.toNat && !(s.watch k).hm) then .error (1, Instr.encoding (.csrw a n m))
      else .ok (s.onWatch k fun w =>
        let u := w.writeCsr n.toNat (w.xRead a.val)
        if n = 1 then u.orFlags w.img.landed else u) })

end Sys2Proof.Machine
end

