-- ==== Sys2Proof/Machine/Atomic.lean ====
section
/-!
DEFINITION. The `at` unit: its checks, its requests, and what a home does with each (R295, R303, R311 to R321, R398).
-/
namespace Sys2Proof.Machine

/-- The sizes an operation accepts (R311). -/
def atSizes : AtOp → List Nat
  | .afadd | .ldsib => [2]
  | .recon => [2, 3, 4, 5, 6]
  | .snap => [6]
  | .wslot | .wdrop => [0]
  | _ => [0, 1, 2, 3]
/-- Operations that act on the bytes at A as one value (R312). -/
def atPlain : AtOp → Bool
  | .recon | .ldsib | .snap | .wslot | .wdrop => false
  | _ => true
/-- A datum of R311 that gives BAD. -/
def atBad (o : AtOp) (d : Word) : Bool := bits d 63 3 ≠ 0 || !(atSizes o).contains (bits d 2 0)
/-- A control word of `recon` that gives BAD (R317). -/
def reconBad (b : Word) (size : Nat) : Bool :=
  let op := bits b 3 0
  let ty := bits b 7 4
  bits b 63 8 ≠ 0 || 5 < op || 2 < ty || (3 ≤ op && ty ≠ 0) || (ty = 1 && size = 2)
/-- What a trigger does before a request leaves: an own-slot trap, a status at once, or the place of its bytes, with the region
whose writer the watch must be (R295, R311). -/
inductive AtPlan where
  | trap (cause : Nat) (v : Word) | status (st : Nat) | go (p : Place) (writes : Option Nat)
deriving DecidableEq, Repr
/-- The kind of access that an operation's A is checked as: a change, a keeping load, a load (R287, R303, R312). -/
def atAcc (o : AtOp) : Acc := if atPlain o then .atomic else if o = .ldsib then .keep else .load
def State.atPlan (s : State) (k : Nat) (o : AtOp) (d : Word) : AtPlan :=
  let w := s.watch k
  let a := w.latch .atA
  let b := w.latch .atB
  let n := if o = .wslot || o = .wdrop then 1 else 2 ^ bits d 2 0
  if atBad o d then .status 3
  else if a.toNat % n ≠ 0 then .trap 4 a
  else match s.resolve k (atAcc o) a.toNat with
    | .error c => .trap c a
    | .ok p =>
      let region := match p with
        | .mem _ e => if pteType e = 1 then some (pteAux e) else none
        | _ => none
      let ty := match p with
        | .mem _ e => pteType e
        | _ => 0
      if (o = .recon || o = .wslot || o = .wdrop) && region = none then .status 3
      else if o = .recon && reconBad b (bits d 2 0) then .status 3
      else if o = .ldsib && 4 ≤ b.toNat then .status 3
      else if o = .snap && (ty = 3 || ty = 4 || b.toNat % 64 ≠ 0 || !inWindow b.toNat) then .status 3
      else
        match (if o = .snap then s.resolve k .store b.toNat else .ok p) with
        | .error c => .trap c b
        | .ok _ => .go p (if atPlain o || o = .recon then region else none)
/-- The own-slot checks of an `at` trigger: the trap, or the state with the enrolment that it needs (R295, R311). -/
def State.atCheck (s : State) (k : Nat) (o : AtOp) (d : Word) : Except (Nat × Word) State :=
  match s.atPlan k o d with
  | .trap c v => .error (c, v)
  | .go _ (some r) => match s.writerOf k r true with
    | some (_, s) => .ok s
    | none => .error (0xB, (s.watch k).latch .atA)
  | _ => .ok s

/-- `wslot` and `wdrop`, made at the trigger (R321). -/
def State.slotOp (s : State) (k ord : Nat) (o : AtOp) (r : Nat) : State :=
  let pc := (s.watch k).pc
  let p := (s.watch k).part
  if o = .wslot then
    match s.enrolIn k r with
    | .ok (i, s) =>
      let e := (s.watch k).enrol i
      let g := s.region p r
      s.result k ⟨ord, .at, packWord [(e.slot, 6), (0, 2), (ofB g.due, 1), (0, 23), (g.counters.get 0 e.slot, 24)], 0, 0, pc⟩
    | .error .full => s.result k ⟨ord, .at, 0, 2, 0, pc⟩
    | .error .noSlot => s.defer k ⟨ord, 0xB, pc, (s.watch k).latch .atA⟩
  else match (s.watch k).enrolled r with
    | none => s.result k ⟨ord, .at, 0, 15, 0, pc⟩
    | some i =>
      let e := (s.watch k).enrol i
      ((s.retire p r e.slot).onWatch k fun w => w.setEnrol i Enrol.fresh).result k ⟨ord, .at, 0, 0, 0, pc⟩
/-- The memory that an `at` operation acts on. -/
def AtPlan.span (p : AtPlan) (n : Nat) : List (Nat × Nat) :=
  match p with
  | .go (.mem a _) _ => [(a, n)]
  | _ => []
/-- A request leaves the core, whose own lines over its bytes drain first (R312). -/
def State.sendAt (s : State) (k ord : Nat) (o : AtOp) (n : Nat) (p : Place) (slot : Option Nat) : State :=
  let w := s.watch k
  let (pa, region, board) := match p with
    | .mem pa e => (pa, if pteType e = 1 then some (pteAux e) else none, false)
    | .bank b off => (storeAddr b off, none, true)
    | .slot c off => (storeAddr (boardOf c) off, none, true)
  let s := if board then s else s.drainOver (k / 4) pa n
  let (t, s) := s.newTicket
  let s := s.onWatch k fun w => { w with img := w.img.await t (some .at) }
  { s with atomq := s.atomq ++
    [(⟨t, k, ord, w.pc, o, w.latch .atA, pa, n, w.latch .atB, w.latch .atC, w.part, region, slot, board, false⟩ : AtReq)] }
/-- An `at` operation starts in one member: it ends at once, or its request is on its way (R312). One that the memory path has held
can meet its trap here, which is then taken at the marker. -/
def State.startAt (s : State) (k : Nat) (o : AtOp) (d : Word) : State :=
  let w := s.watch k
  let (ord, s) := s.takeOrd k
  match s.atPlan k o d with
  | .trap c v => s.defer k ⟨ord, c, w.pc, v⟩
  | .status st => s.result k ⟨ord, .at, 0, st, 0, w.pc⟩
  | .go p writes =>
    match o, p with
    | .wslot, .mem _ e => s.slotOp k ord o (pteAux e)
    | .wdrop, .mem _ e => s.slotOp k ord o (pteAux e)
    | _, _ => match writes with
      | none => s.sendAt k ord o (2 ^ bits d 2 0) p none
      | some r => match s.writerOf k r true with
        | none => s.defer k ⟨ord, 0xB, w.pc, w.latch .atA⟩
        | some (i, s) => s.sendAt k ord o (2 ^ bits d 2 0) p (if o = .recon then some ((s.watch k).enrol i).slot else none)

/-- `atomicApply`: the request that `a` numbers reaches its home (R312, R356). -/
def execAtomicApply (s : State) : Host.Outcome State Fault Refusal :=
  .next (match s.atomq[s.opnd.a]? with
    | some q => s.atomicReach q
    | none => s)
/-- An earlier stamped store of the watch to bytes of this one has not been decided (R277). -/
def State.behindKeep (s : State) (q : KeepReq) : Bool :=
  s.keepq.any fun p => p.watch = q.watch && p.ticket < q.ticket && p.bytes.any fun x => q.bytes.any fun y => x.1 = y.1
/-- `keepStoreDecide`: the home decides the stamped store that `a` numbers, unless it waits for a clock or a retry (R300). -/
def execKeepStoreDecide (s : State) : Host.Outcome State Fault Refusal :=
  .next (match s.keepq[s.opnd.a]? with
    | some q => if q.wantPush || 0 < q.due || s.behindKeep q then s else s.keepReach q
    | none => s)
/-- `clockPush`: the core pushes the clock that the home asked for, and the store is tried again (R301). -/
def execClockPush (s : State) : Host.Outcome State Fault Refusal :=
  .next (match s.keepq[s.opnd.a]? with
    | some q => if q.wantPush then s.pushClock q else s
    | none => s)
/-- `keepRetry`: a refused store is tried again once its wait is over (R307). -/
def execKeepRetry (s : State) : Host.Outcome State Fault Refusal :=
  .next (match s.keepq[s.opnd.a]? with
    | some q => if 0 < q.due && q.due ≤ s.cycles then s.keepReach q else s
    | none => s)

end Sys2Proof.Machine
end

