-- ==== Sys2Proof/Machine/Tensor.lean ====
section
/-!
DEFINITION. Tensor headers and elements: their fields and checks, where an element lies, how it is widened and narrowed, the
scale and the mask that belong to it, and the tensor table (R88, R170 to R177, R229, R238 to R244, R258).
-/
namespace Sys2Proof.Machine

/-! ## Headers (R175 to R177, R239, R240) -/

def Header.field (h : Header) (off n : Nat) : Nat := h.toNat / 2 ^ (8 * off) % 2 ^ (8 * n)
/-- The header with one field replaced. -/
def Header.setField (h : Header) (off n v : Nat) : Header :=
  BitVec.ofNat 512 (h.toNat - h.field off n * 2 ^ (8 * off) + v % 2 ^ (8 * n) * 2 ^ (8 * off))
def Header.fmt (h : Header) : Nat := h.field 5 1
def Header.exp (h : Header) : Nat := h.field 6 1
def Header.len (h : Header) : Nat := h.field 7 1
def Header.base (h : Header) : Nat := h.field 8 8
def Header.scale (h : Header) : Nat := h.field 16 8
def Header.ndims (h : Header) : Nat := h.field 24 1
def Header.order (h : Header) : Nat := h.field 25 1
def Header.kv (h : Header) : Nat := h.field 26 1
def Header.scalelay (h : Header) : Nat := h.field 27 1
def Header.dim (h : Header) (i : Nat) : Nat := h.field (28 + 4 * i) 4
def Header.stride (h : Header) (i : Nat) : Nat := h.field (44 + 5 * i) 5
/-- The width of an element in bits (R176). -/
def Header.width (h : Header) : Nat :=
  match h.fmt with
  | 1 => 16
  | 2 => 32
  | 3 => 1 + h.exp + h.len
  | _ => 8
/-- The dimension of K, and that of the rows (R239). -/
def Header.kdim (h : Header) : Nat := h.order % 4
def Header.rdim (h : Header) : Nat := h.order / 4 % 4
/-- The fill factor of a format (R228). -/
def Header.fill (h : Header) : Nat := if h.fmt = 4 then 2 else if h.fmt = 5 then 4 else 1
/-- The logical size of K (R229, R240). -/
def Header.ksize (h : Header) : Nat := h.fill * h.dim h.kdim
/-- The number of rows: one where there is one dimension (R240, R333). -/
def Header.rows (h : Header) : Nat := if h.ndims = 1 then 1 else h.dim h.rdim
/-- The number of scales of the layout (R240). -/
def Header.nsc (h : Header) : Nat :=
  let kb := (h.ksize + 127) / 128
  match h.scalelay with
  | 1 => kb * ((h.rows + 127) / 128)
  | 2 => h.rows * kb
  | _ => 0
/-- The checks of `tbind` and `tset` (R177, R239, R240, R243). -/
def Header.ok (h : Header) : Bool :=
  decide (h.field 0 4 = 0x4A4C5444 ∧ h.field 4 1 = 1 ∧ h.fmt ≤ 5)
  && (if h.fmt = 3 then [4, 5, 8, 11].contains h.exp && decide (1 ≤ h.len ∧ h.len ≤ 52 ∧ h.exp + h.len ≤ 63)
      else decide (h.exp = 0 ∧ h.len = 0))
  && decide (1 ≤ h.ndims ∧ h.ndims ≤ 4)
  && (List.range 4).all (fun i => if i < h.ndims then h.dim i ≠ 0 else h.dim i = 0 && h.stride i = 0)
  && decide (h.width ≤ h.stride 0 ∧ h.base < 2 ^ 56 ∧ h.scale < 2 ^ 56 ∧ h.scalelay ≤ 2)
  && (if h.scalelay = 0 then h.scale = 0 && h.fmt ≤ 3 else h.scale % 4 = 0)
  && (if h.ndims = 1 then h.order = 0 else decide (h.order < 16 ∧ h.kdim ≠ h.rdim ∧ h.kdim < h.ndims ∧ h.rdim < h.ndims))

/-! ## Elements (R170 to R173, R176, R258) -/

/-- The stream bit at which an element starts (R176). -/
def Header.bit (h : Header) (ix : List Nat) : Nat :=
  8 * h.base + (ix.zipIdx.map fun e => e.1 * h.stride e.2).sum
/-- The index of the stored element (k, n), with every other index 0 (R230). -/
def Header.index (h : Header) (k n : Nat) : List Nat :=
  (List.range 4).map fun i => if i = h.kdim then k else if i = h.rdim && 1 < h.ndims then n else 0
/-- The format of an element's bits. -/
def Header.ffmt (h : Header) : FFmt :=
  match h.fmt with
  | 1 => ⟨8, 7, false⟩
  | 2 => ⟨8, 23, false⟩
  | 3 => ⟨h.exp, h.len, false⟩
  | _ => ⟨4, 3, true⟩
/-- An element's value in the transport form, exactly (R172, R258). -/
def widen (f : FFmt) (code : Nat) : Word :=
  match f.unpack code with
  | .nan n frac => if f.f8 then 0x7FF8000000000000
      else BitVec.ofNat 64 ((if n then 2 ^ 63 else 0) + 2047 * 2 ^ 52 + frac)
  | v => (finishBead 52 .rne v).1
/-- A value rounded into an element, and the flags it records (R173, R258). -/
def Header.narrow (h : Header) (mode : RMode) (w : Word) : Nat × FFlags :=
  let f := h.ffmt
  match ofBits w with
  | .nan n frac =>
    let fl : FFlags := { nv := (FVal.nan n frac).isSnan }
    match h.fmt with
    | 1 => (0x7FC0, fl)
    | 2 => (0x7FC00000, fl)
    | 3 => ((f.pack .store mode (.nan n frac)).1, fl)
    | _ => (0x7F, fl)
  | .inf n => ((f.pack .store mode (.inf n)).1, if f.f8 then { of := true, nx := true } else .none)
  | v => f.pack (if h.fmt = 1 || h.fmt = 2 then .ieee else if h.fmt = 3 then .store else .f8) mode v
/-- The bytes that hold the `w` bits of a stream from bit `b` on: their address and their number. -/
def spanOf (b w : Nat) : Nat × Nat := (b / 8, (b % 8 + w + 7) / 8)
/-- The bits of an element out of the bytes that hold it. -/
def takeBits (b w : Nat) (l : List Byte) : Nat := leNat l / 2 ^ (b % 8) % 2 ^ w
/-- The form of a store of `w` bits at bit `b`, and the bytes that it stores (R174). -/
def bitStore (b w v : Nat) (loose : Bool) : StoreForm × List Byte :=
  let n := (spanOf b w).2
  ({ loose := loose, low := b % 8, high := 8 * n - (b % 8 + w) }, leBytes n (v % 2 ^ w * 2 ^ (b % 8)))
/-- The bytes with an element's bits replaced (R174). -/
def putBits (b w v : Nat) (l : List Byte) : List Byte :=
  leBytes l.length (leNat l - takeBits b w l * 2 ^ (b % 8) + v % 2 ^ w * 2 ^ (b % 8))

/-! ## Scales and masks (R229, R240) -/

/-- The address of the scale that covers logical k and row n; none where every scale is 1.0. -/
def Header.scaleAddr (h : Header) (k n : Nat) : Option Nat :=
  match h.scalelay with
  | 1 => some (h.scale + 4 * (k / 128 * ((h.rows + 127) / 128) + n / 128))
  | 2 => some (h.scale + 4 * (n * ((h.ksize + 127) / 128) + k / 128))
  | _ => none
/-- The address of the mask of group `g` of row `n` (R229). -/
def Header.maskAddr (h : Header) (g n : Nat) : Nat := h.scale + 64 * ((4 * h.nsc + 63) / 64) + g * h.rows + n

/-! ## The tensor table (R238, R242 to R244) -/

/-- The entry of a tensor id of a watch's partition. -/
def State.tensor? (s : State) (k : Nat) (tid : Word) : Option Header :=
  match s.part? (s.watch k).part with
  | some p => if tid.toNat < 1024 then p.tensors.get none tid.toNat else none
  | none => none
def State.setTensor (s : State) (k tid : Nat) (h : Option Header) : State :=
  s.onPart (s.watch k).part fun p => { p with tensors := Tbl.put none p.tensors tid h }
/-- `tbind` (R243): a header with a fault on its read changes nothing. -/
def State.tbind (s : State) (k ord : Nat) (a d : Word) : State :=
  let pc := (s.watch k).pc
  let fin := fun (s : State) (v st : Nat) => s.result k ⟨ord, .tb, BitVec.ofNat 64 v, st, 0, pc⟩
  let any := d = BitVec.allOnes 64
  if a.toNat % 64 ≠ 0 ∨ (!any ∧ 1024 ≤ d.toNat) then fin s 0 3
  else match s.unitLoad k a.toNat 64 with
    | .error (c, v) => s.defer k ⟨ord, c, pc, v⟩
    | .ok (l, s) =>
      let h : Header := BitVec.ofNat 512 (leNat l)
      if !h.ok then fin s 0 3
      else match if any then (List.range 1024).find? fun i => (s.tensor? k (BitVec.ofNat 64 i)).isNone else some d.toNat with
        | none => fin s 0 2
        | some t => if (s.tensor? k (BitVec.ofNat 64 t)).isSome then fin s 0 9 else fin (s.setTensor k t (some h)) t 0
/-- A `tb` operation starts in one member (R243). `h` is the tensor that a `tget` names, as it stood at the trigger, `dots` those that
its store has taken then (R299). -/
def State.startTb (s : State) (k : Nat) (o : TbOp) (d : Word) (h : Option Header) (dots : List Stamp) : State :=
  let w := s.watch k
  let (ord, s) := s.takeOrd k
  let fin := fun (s : State) (st : Nat) => s.result k ⟨ord, .tb, 0, st, 0, w.pc⟩
  let a := w.latch .tbA
  let b := w.latch .tbB
  match o with
  | .tbind => s.tbind k ord a d
  | .tfree =>
    if 1024 ≤ d.toNat then fin s 3
    else if (s.tensor? k d).isNone then fin s 10
    else fin (s.setTensor k d.toNat none) 0
  | .tget =>
    if 1024 ≤ d.toNat then fin s 3
    else match h with
      | none => fin s 10
      | some h =>
        if a.toNat % 64 ≠ 0 then fin s 3
        else match s.unitStore k ord {} a.toNat (leBytes 64 h.toNat) dots with
          | .error (c, v) => s.defer k ⟨ord, c, w.pc, v⟩
          | .ok s => fin s 0
  | .tset =>
    if 1024 ≤ d.toNat ∨ 2 < a.toNat ∨ (a = 2 ∧ 255 < b.toNat) then fin s 3
    else match s.tensor? k d with
      | none => fin s 10
      | some h =>
        let h' := if a = 2 then h.setField 26 1 b.toNat else h.setField (if a = 0 then 8 else 16) 8 b.toNat
        if h'.ok then fin (s.setTensor k d.toNat (some h')) 0 else fin s 3

end Sys2Proof.Machine
end

