-- ==== Sys2Proof/Machine/Boards.lean ====
section
/-!
DEFINITION. The `ls` unit and the bank controllers: tensor elements, pins, bulk prefetches, FIFO slots, bank modes (R246 to
R264).
-/
namespace Sys2Proof.Machine

/-! ## FIFO slots (R252, R253) -/

/-- A bank address: its board, its bank, and the base of the window it stands in (R257). -/
def bankOf (c : Nat) (a : Word) : Option (Nat × Nat × Nat) :=
  let off := a.toNat % 2 ^ 24
  if inWindow a.toNat && off < 0x80000 && off % 0x8000 = 0 then
    some (if a.toNat / 2 ^ 24 = 0xFE00000000 then boardOf c else a.toNat / 2 ^ 24 % 1024, off / 0x8000, a.toNat - off)
  else none
/-- The watch numbers from here on in a bank's queue stand for engines: this number plus the engine's. -/
def engineBase : Nat := 16384
/-- An engine entry that waits for a slot has it now. The waiter's ticket is its chain's header, its order the entry's
sequence number. -/
def State.grantEngine (s : State) (w : Waiter) (slot : Nat) : State :=
  { s with chains := s.chains.map fun c =>
      if c.eng + engineBase = w.watch ∧ c.header.toNat = w.ticket then
        { c with entries := c.entries.map fun e => if e.seq = w.ord then { e with slot := some slot } else e }
      else c }
/-- A reservation takes the tail slot (R252). -/
def State.grant (s : State) (b n : Nat) (w : Waiter) : State :=
  let k := (s.boardAt b).bank n
  let i := k.tail
  let s := s.onBank b n fun k => { k with tail := (i + 1) % k.slotCount, slots := k.slots.put .free i (.reserved 0) }
  if engineBase ≤ w.watch then s.grantEngine w i
  else s.finish w.watch w.ticket ⟨w.ord, .ls, BitVec.ofNat 64 (w.base + n * 0x8000 + i * k.slotSize), 0, 0, 0⟩
/-- A waiter that still waits: a watch, or an engine entry that no halt has ended. -/
def State.stillWaits (s : State) (w : Waiter) : Bool :=
  w.watch < engineBase || s.chains.any fun c => c.eng + engineBase = w.watch && c.header.toNat = w.ticket &&
    c.entries.any fun e => e.seq = w.ord && e.st = .captured && e.slot = none
/-- The oldest waiting reservation is served, if the tail slot is FREE. -/
def State.reserveNext (s : State) (b n : Nat) : State :=
  let s := s.onBank b n fun k => { k with pushes := k.pushes.filter s.stillWaits }
  let k := (s.boardAt b).bank n
  match k.pushes with
  | w :: t => if k.mode = 2 ∧ k.slot k.tail = .free then (s.onBank b n fun k => { k with pushes := t }).grant b n w else s
  | [] => s
/-- A take takes the head slot (R253). -/
def State.grantTake (s : State) (b n : Nat) (w : Waiter) : State :=
  let k := (s.boardAt b).bank n
  let i := k.head
  let s := s.onBank b n fun k =>
    { k with head := (i + 1) % k.slotCount, slots := k.slots.put .free i (.taken w.watch w.ord) }
  let s := s.onWatch w.watch fun v => { v with taken := v.taken ++ [(b, n, i)] }
  s.finish w.watch w.ticket ⟨w.ord, .ls, BitVec.ofNat 64 (w.base + n * 0x8000 + i * k.slotSize), 0, 0, 0⟩
/-- The oldest parked take is served, if the head slot is COMPLETE. -/
def State.takeNext (s : State) (b n : Nat) : State :=
  let k := (s.boardAt b).bank n
  match k.takes with
  | w :: t =>
    if k.mode = 2 ∧ k.slot k.head = .complete then (s.onBank b n fun k => { k with takes := t }).grantTake b n w else s
  | [] => s
/-- A new reservation: served at once, or behind those that wait. -/
def State.reserve (s : State) (b n : Nat) (w : Waiter) : State :=
  (s.onBank b n fun k => { k with pushes := k.pushes ++ [w] }).reserveNext b n
/-- A new take: served at once, or behind those that wait. -/
def State.take (s : State) (b n : Nat) (w : Waiter) : State :=
  (s.onBank b n fun k => { k with takes := k.takes ++ [w] }).takeNext b n

/-! ## Bank modes (R250, R251) -/

/-- The bytes of a bank are undefined: free values (R250). -/
def State.scramble (s : State) (b n : Nat) : State :=
  let base := storeAddr b (n * 0x8000)
  let s' := (List.range 4096).foldl (fun (s : State) i => s.putWord (base + 8 * i) (Config.freeWord (s.free + i))) s
  { s' with free := s.free + 4096 }
/-- Takes parked at a bank that stops being a FIFO end with BAD. -/
def State.endTakes (s : State) (b n : Nat) : State :=
  let k := (s.boardAt b).bank n
  (s.each k.takes fun s w => s.finish w.watch w.ticket ⟨w.ord, .ls, 0, 3, 0, 0⟩).onBank b n fun k => { k with takes := [] }
/-- The dirty words of a way are written back, once the board's stores to its lines are acknowledged (R250, R270); false while one of
them waits for a link. -/
def State.writeBack (s : State) (b n : Nat) : Bool × State :=
  let lines := ((s.boardAt b).ways.filter fun e => e.2.bank = n).map Prod.fst
  let s := s.each lines fun s l => s.each (List.range 4) fun s i => s.drainOver (4 * b + i) (l * 64) 64
  (!s.stores.any fun f => boardOf f.core = b && f.bytes.any fun e => lines.contains (e.1 / 64), s)
/-- A mode change takes effect: its status and the state (R250). -/
def State.changeMode (s : State) (b n mode z : Nat) : Nat × State :=
  let s := s.each ((s.boardAt b).bank n).pushes fun s _ => s.reserveNext b n
  let v := s.boardAt b
  let k := v.bank n
  let set := fun (s : State) => s.onBank b n fun k =>
    { k with mode := mode, z := if mode = 2 then z else 0, slots := [], head := 0, tail := 0 }
  if k.mode = mode ∧ mode ≠ 2 then (0, s)
  else if k.mode = 0 then
    if v.ways.any fun e => e.2.bank = n && e.2.pins ≠ [] then (9, s)
    else (0, (set (s.onBoard b fun v => { v with ways := v.ways.filter fun e => e.2.bank ≠ n })).scramble b n)
  else if k.mode = 2 then
    if k.slots ≠ [] then (12, s)
    else (0, set (if mode = 2 then s else s.endTakes b n))
  else (0, set s)
/-- The oldest mode change on its way to a bank takes effect there, once a write-back that it needs is done (R251, R263). -/
def State.applyMode (s : State) (b n : Nat) : State :=
  match ((s.boardAt b).bank n).changes with
  | [] => s
  | q :: t =>
    let k := (s.boardAt b).bank n
    let old := k.mode + k.z * 16
    let (ready, s) := if k.mode = 0 ∧ q.mode ≠ 0 then s.writeBack b n else (true, s)
    if !ready then s
    else
    let (st, s) := (s.onBank b n fun k => { k with changes := t }).changeMode b n q.mode q.z
    s.finish q.watch q.ticket ⟨q.ord, .ls, BitVec.ofNat 64 old, st, 0, 0⟩

/-! ## The operations (R258 to R263) -/

/-- The board that an access through the remote window may not reach (R245). -/
def State.lsCheck (s : State) (k : Nat) (o : LsOp) (d : Word) : Option (Nat × Word) :=
  match o, bankOf (k / 4) d with
  | .push, some (b, _, base) =>
    if base < 0xFE00000000000000 && !s.reaches (s.watch k).part b then some (6, d) else none
  | _, _ => none

/-- The indices of the element that a trigger of watch `k` names; none where they are BAD (R258). -/
def State.elementIndex (s : State) (k : Nat) (h : Header) (d : Word) : Option (List Nat) :=
  let b := (s.watch k).latch .lsB
  let ix := [bits d 31 0, bits b 31 0, bits b 47 32, bits b 63 48]
  if bits d 63 32 ≠ 0 ∨ ix.zipIdx.any (fun e => if e.2 < h.ndims then h.dim e.2 ≤ e.1 else e.1 ≠ 0) then none else some ix
/-- `ldt` and `stt` (R258), of the tensor as it stood at the trigger; `dots` are those that its store has taken then (R299). An element
that starts at stream bit 8 × 2^64 or beyond lies at its address modulo 2^64 (log 61). -/
def State.element (s : State) (k : Nat) (stores : Bool) (d : Word) (h : Option Header) (dots : List Stamp) : State :=
  let w := s.watch k
  let a := w.latch .lsA
  let now := fun (s : State) (v : Word) (st : Nat) (fl : BitVec 6) => let (o, s) := s.takeOrd k; s.result k ⟨o, .ls, v, st, fl, w.pc⟩
  let fault := fun (s : State) (c : Nat) (v : Word) => let (o, s) := s.takeOrd k; s.defer k ⟨o, c, w.pc, v⟩
  match h with
  | none => fault s 0xF a
  | some h => match s.elementIndex k h d with
    | none => now s 0 3 0
    | some ix =>
      let p := h.bit ix
      let va := (spanOf p h.width).1
      if stores then
        let (e, fl) := h.narrow w.mode (w.latch .lsC)
        let (f, bytes) := bitStore p h.width e (h.fmt = 3)
        let (o, s) := s.takeOrd k
        match s.unitStore k o f va bytes dots with
        | .error (c, v) => s.defer k ⟨o, c, w.pc, v⟩
        | .ok s => s.result k ⟨o, .ls, 0, 0, fl.bits, w.pc⟩
      else match s.unitLoad k va (spanOf p h.width).2 (h.fmt = 3) with
        | .error (c, v) => fault s c v
        | .ok (l, s) => now s (widen h.ffmt (takeBits p h.width l)) 0 0

/-- The pin count of a watch as a result (R259). -/
def State.pinDone (s : State) (k st : Nat) : State :=
  let (o, s) := s.takeOrd k
  let s := if st = 2 ∨ st = 11 then
      s.onBoard (boardOf (k / 4)) fun b => { b with pinfail := (b.pinfail + 1) % 2 ^ 32 } else s
  s.result k ⟨o, .ls, BitVec.ofNat 64 (s.watch k).pins.length, st, 0, (s.watch k).pc⟩
/-- `pin` and `unpin` (R259). -/
def State.pinOp (s : State) (k : Nat) (un : Bool) (d : Word) : State :=
  let w := s.watch k
  let b := boardOf (k / 4)
  if inWindow d.toNat then s.pinDone k 3
  else match s.translate (k / 4) w.part d.toNat with
    | none => let (o, s) := s.takeOrd k; s.defer k ⟨o, 5, w.pc, d⟩
    | some (e, size) =>
      let line := s.paOf w.part e size d.toNat false / 64
      let held := w.pins.contains (b, line)
      let mark := fun (s : State) (f : List Nat → List Nat) => s.onBoard b fun v =>
        { v with ways := v.ways.map fun x => if x.1 = line then (x.1, { x.2 with pins := f x.2.pins }) else x }
      if un then
        if !held then s.pinDone k 3
        else ((mark s fun l => l.erase k).onWatch k fun w => { w with pins := w.pins.erase (b, line) }).pinDone k 0
      else if !cacheable e then s.pinDone k 3
      else if held then s.pinDone k 0
      else if w.quota ≤ w.pins.length then s.pinDone k 11
      else if ((s.boardAt b).way? line).isNone && ((s.boardAt b).victimBank line).isNone then s.pinDone k 2
      else
        let s := s.needLine line false
        if !s.fills e (line * 64) then s.pinDone k 2
        else ((mark (s.fillWay b line) fun l => l ++ [k]).onWatch k fun w => { w with pins := w.pins ++ [(b, line)] }).pinDone k 0

/-- `pfr`: its token's add is exempt from the writer-core check (R260, R312). -/
def State.prefetchOp (s : State) (k : Nat) (d : Word) : State :=
  let w := s.watch k
  let b := boardOf (k / 4)
  let (o, s) := s.takeOrd k
  let fin := fun (s : State) (st : Nat) => s.result k ⟨o, .ls, 0, st, 0, w.pc⟩
  let n := (w.latch .lsB).toNat
  if n = 0 ∨ 2 ^ 32 < n ∨ d.toNat % 8 ≠ 0 ∨ inWindow d.toNat then fin s 3
  else match s.translate (k / 4) w.part d.toNat with
    | none => s.defer k ⟨o, 5, w.pc, d⟩
    | some (e, _) =>
      if 2 ≤ pteType e then fin s 3
      else if 16 ≤ (s.prefetches.filter fun p => boardOf (p.core / 4) = b).length then fin s 2
      else
        let (t, s) := s.newTicket
        fin { s with prefetches := s.prefetches ++ [(⟨t, w.latch .lsA, n, d, w.part, k⟩ : Prefetch)] } 0

/-- A trigger parks until its ticket is served. -/
def State.parkLs (s : State) (k : Nat) : Nat × Nat × State :=
  let (o, s) := s.takeOrd k
  let (t, s) := s.newTicket
  (o, t, s.onWatch k fun w => { w with img := w.img.await t (some .ls) })
/-- `push` (R261). -/
def State.pushOp (s : State) (k : Nat) (d : Word) : State :=
  match bankOf (k / 4) d with
  | some (b, n, base) =>
    if ((s.boardAt b).bank n).mode = 2 then
      let (o, t, s) := s.parkLs k
      s.reserve b n ⟨k, t, o, base⟩
    else let (o, s) := s.takeOrd k; s.result k ⟨o, .ls, 0, 3, 0, (s.watch k).pc⟩
  | none => let (o, s) := s.takeOrd k; s.result k ⟨o, .ls, 0, 3, 0, (s.watch k).pc⟩
/-- `pop` (R262). -/
def State.popOp (s : State) (k : Nat) (d : Word) : State :=
  let w := s.watch k
  let fl := (w.latch .lsA).toNat
  let fin := fun (s : State) (st : Nat) => let (o, s) := s.takeOrd k; s.result k ⟨o, .ls, 0, st, 0, w.pc⟩
  match bankOf (k / 4) d with
  | none => fin s 3
  | some (b, n, base) =>
    if base < 0xFE00000000000000 ∨ ((s.boardAt b).bank n).mode ≠ 2 ∨ fl = 0 ∨ 3 < fl then fin s 3
    else
      let oldest := w.taken.find? fun e => e.1 = b && e.2.1 = n
      match fl % 2, oldest with
      | 1, none => fin s 3
      | r, _ =>
        let s := match r, oldest with
          | 1, some e => (s.onBank b n fun v => { v with slots := v.slots.put .free e.2.2 .free }).onWatch k fun w =>
              { w with taken := w.taken.erase e }
          | _, _ => s
        if fl / 2 = 0 then fin s 0
        else
          let (o, t, s) := s.parkLs k
          s.take b n ⟨k, t, o, base⟩
/-- `bmode` (R263): a request that may be made goes to the bank controller. -/
def State.bmodeOp (s : State) (k : Nat) (d : Word) : State :=
  let w := s.watch k
  let a := w.latch .lsA
  let mode := bits a 1 0
  let z := bits a 6 4
  let fin := fun (v : Nat) => let (o, s) := s.takeOrd k; s.result k ⟨o, .ls, BitVec.ofNat 64 v, 3, 0, w.pc⟩
  match bankOf (k / 4) d with
  | none => fin 0
  | some (b, n, base) =>
    let v := (s.boardAt b).bank n
    if base < 0xFE00000000000000 then fin 0
    else if a &&& ~~~0x73 ≠ 0 ∨ mode = 3 ∨ (mode ≠ 2 ∧ z ≠ 0) ∨ v.locked ∨ v.mode = 3 then fin (v.mode + v.z * 16)
    else
      let (o, t, s) := s.parkLs k
      s.onBank b n fun v => { v with changes := v.changes ++ [(⟨mode, z, k, t, o⟩ : ModeReq)] }
/-- An `ls` operation starts in one member (R257), with the tensor that it names and the dots that it has taken. -/
def State.startLs (s : State) (k : Nat) (o : LsOp) (d : Word) (h : Option Header) (dots : List Stamp) : State :=
  match o with
  | .ldt => s.element k false d h dots
  | .stt => s.element k true d h dots
  | .pin => s.pinOp k false d
  | .unpin => s.pinOp k true d
  | .pfr => s.prefetchOp k d
  | .push => s.pushOp k d
  | .pop => s.popOp k d
  | .bmode => s.bmodeOp k d

/-! ## Events of the board store -/

/-- The lines of a bulk prefetch are brought into their slices; whether none was skipped (R256). -/
def State.bringIn (s : State) (core p : Nat) : Nat → Nat → Bool × State
  | 0, _ => (true, s)
  | n + 1, line =>
    let (rest, s) := s.bringIn core p n (line + 1)
    let va := line * 64 % 2 ^ 64
    if inWindow va then (false, s)
    else match s.translate core p va with
      | none => (false, s)
      | some (e, size) =>
        if pteType e = 1 ∨ pteType e = 4 || s.badPa e (s.paOf p e size va false) then (false, s) else (rest, s.needLine (s.paOf p e size va false / 64) false)
/-- `prefetchDone`: the bulk prefetch that `a` numbers ends and adds its token (R256). -/
def execPrefetchDone (s : State) : Host.Outcome State Fault Refusal :=
  .next (match s.prefetches[s.opnd.a]? with
    | none => s
    | some q =>
      let first := q.start.toNat / 64
      let last := (q.start.toNat + q.len - 1) / 64
      let (all, s) := s.bringIn (q.core / 4) q.part (last + 1 - first) first
      { s with prefetches := s.prefetches.erase q }.deviceAdd q.part q.cell.toNat (if all then 1 else 2 ^ 32))
/-- `bankAccess`: the bank controller serves the access that `a` numbers; those of one watch arrive in order (R246, R272). -/
def execBankAccess (s : State) : Host.Outcome State Fault Refusal :=
  .next (match s.bankq[s.opnd.a]? with
    | none => s
    | some q => if (s.bankq.take s.opnd.a).any (·.watch = q.watch) then s else s.serveBank q)
/-- `fifoReserve`: the oldest reservation waiting at bank `b` of board `a` takes the tail slot (R252). -/
def execFifoReserve (s : State) : Host.Outcome State Fault Refusal := .next (s.reserveNext s.opnd.a s.opnd.b)
/-- `fifoTake`: the oldest take parked at bank `b` of board `a` takes the head slot (R253). -/
def execFifoTake (s : State) : Host.Outcome State Fault Refusal := .next (s.takeNext s.opnd.a s.opnd.b)
/-- `modeChange`: the oldest change on its way to bank `b` of board `a` takes effect (R251). -/
def execModeChange (s : State) : Host.Outcome State Fault Refusal := .next (s.applyMode s.opnd.a s.opnd.b)

end Sys2Proof.Machine
end

