-- ==== Sys2Proof/Machine/Branch.lean ====
section
/-! DEFINITION. `li`, `lh`, the branches and `loop` (R107, R111 to R117). -/
namespace Sys2Proof.Machine

/-- `li`: a sign-extended constant (R107). -/
def execLi (d : XReg) (v : BitVec 21) (m : Bool) (s : State) : Host.Outcome State Fault Refusal :=
  .next (s.plainWord (.li d v m) fun s k => s.onWatch k fun w => w.xWrite d.val (v.signExtend 64))
/-- `lh`: the register shifted left by 21, with the constant below (R107). -/
def execLh (d : XReg) (v : BitVec 21) (m : Bool) (s : State) : Host.Outcome State Fault Refusal :=
  .next (s.plainWord (.lh d v m) fun s k => s.onWatch k fun w =>
    w.xWrite d.val (w.xRead d.val <<< 21 ||| v.setWidth 64))

/-- The leader of the members a word runs in. -/
def State.lead (s : State) (ks : List Nat) : Watch := s.watch ((ks.head?).getD 0)
/-- The target of a pc-relative branch (R111). -/
def Watch.relTarget (w : Watch) (o : BitVec 19) : Word := w.pc + (o.signExtend 64 <<< 1)
/-- The link of a taken branch (R111, R112). -/
def Watch.link (w : Watch) : Watch := w.xWrite 31 (w.pc + 4)
/-- `b` and `bl`: taken when the guard holds in any member (R66, R111). -/
def State.branch (s : State) (i : Instr) (g : Guard) (o : BitVec 19) (lnk : Bool) : State :=
  s.runWord i {
    post := fun s ks => if lnk && s.anyGuard ks g then s.each ks fun s k => s.onWatch k Watch.link else s
    flow := fun s ks => if s.anyGuard ks g then .jump ((s.lead ks).relTarget o) else .seq }
def execB (g : Guard) (o : BitVec 19) (m : Bool) (s : State) : Host.Outcome State Fault Refusal :=
  .next (s.branch (.b g o m) g o false)
def execBl (g : Guard) (o : BitVec 19) (m : Bool) (s : State) : Host.Outcome State Fault Refusal :=
  .next (s.branch (.bl g o m) g o true)

/-- `jr` and `jlr`: the target is the leader's register, read before the link is written; an odd target of a taken
branch is the alignment trap, which the leader raises (R45, R112). -/
def State.branchReg (s : State) (i : Instr) (g : Guard) (t : XReg) (lnk : Bool) : State :=
  s.runWord i {
    act := fun s k =>
      let ks := s.members k
      let w := s.watch k
      if s.anyGuard ks g && ks.head? == some k && (w.xRead t.val).getLsbD 0 then .error (4, w.xRead t.val) else .ok s
    post := fun s ks => if lnk && s.anyGuard ks g then s.each ks fun s k => s.onWatch k Watch.link else s
    flow := fun s ks => if s.anyGuard ks g then .jump ((s.lead ks).xRead t.val) else .seq }
def execJr (g : Guard) (t : XReg) (m : Bool) (s : State) : Host.Outcome State Fault Refusal :=
  .next (s.branchReg (.jr g t m) g t false)
def execJlr (g : Guard) (t : XReg) (m : Bool) (s : State) : Host.Outcome State Fault Refusal :=
  .next (s.branchReg (.jlr g t m) g t true)

/-- The body of a loop: `n` words from an address on. Their last word's address, the address after it, and the state with
their lines fetched; or the first address that cannot be fetched, with its cause (R113). -/
def State.body (s : State) (k : Nat) : Nat → Nat → Nat → Except (Nat × Word) (Nat × Nat × State)
  | 0, last, a => .ok (last, a, s)
  | n + 1, _, a => match s.fetchHalf k a with
    | .error c => .error (c, BitVec.ofNat 64 a)
    | .ok (h, s) =>
      if !h.getLsbD 0 then s.body k n a (a + 2)
      else match s.fetchHalf k (a + 2) with
        | .error c => .error (c, BitVec.ofNat 64 (a + 2))
        | .ok (_, s) => s.body k n a (a + 4)
/-- A level is entered: the counter is the leader's register, and the loop buffer of the member's core takes the outermost body
(R113, R117; log 60). -/
def State.enterLoop (s : State) (k : Nat) (l : Loop) : State :=
  let s := if (s.watch k).img.loops = [] then s.onCore (k / 4) fun c => { c with loopTag := none } else s
  (s.onWatch k fun w => { w with img := { w.img with loops := l :: w.img.loops } }).refill k
/-- `loop`: the body is located first, whether it is entered or skipped; a fourth level, or a body that ends beyond the
innermost active one, is the loop-buffer trap (R113, R115). -/
def execLoop (g : Guard) (len : BitVec 8) (c : XReg) (m : Bool) (s : State) : Host.Outcome State Fault Refusal :=
  let fetch := fun (s : State) (k : Nat) => s.body k (len.toNat + 1) 0 ((s.watch k).pc.toNat + 4)
  let count := fun (s : State) (ks : List Nat) => (s.lead ks).xRead c.val
  let enters := fun (s : State) (ks : List Nat) => s.anyGuard ks g && count s ks != 0
  .next (s.runWord (.loop g len c m) {
    stall := fun s k => match fetch s (((s.members k).head?).getD k) with
      | .error (c, _) => c = waitCause
      | .ok _ => false
    act := fun s k =>
      let ks := s.members k
      match fetch s ((ks.head?).getD k) with
      | .error (_, a) => if ks.head? = some k then .error (5, a) else .ok s
      | .ok (last, next, s) =>
        let w := s.watch k
        if !enters s ks then .ok s
        else match w.img.loops with
          | _ :: _ :: _ :: _ => .error (0x12, 0)
          | l :: _ => if l.last.toNat < last then .error (0x12, 1)
              else .ok (s.enterLoop k ⟨count s ks, w.pc + 4, BitVec.ofNat 64 last, BitVec.ofNat 64 next⟩)
          | [] => .ok (s.enterLoop k ⟨count s ks, w.pc + 4, BitVec.ofNat 64 last, BitVec.ofNat 64 next⟩)
    flow := fun s ks => if enters s ks then .seq
      else match fetch s ((ks.head?).getD 0) with
        | .ok (_, next, _) => .skip (BitVec.ofNat 64 next)
        | .error _ => .seq })

end Sys2Proof.Machine
end

