-- ==== Sys2Proof/Machine/Timed.lean ====
section
/-!
DEFINITION. Starting an operation of a timed unit: its result, its latency and its flight (R58, R109, R110, R181, R203 to
R213).
-/
namespace Sys2Proof.Machine

/-- The position of a member in its gang's list, and the gang's size. -/
def State.gangSize (s : State) (k : Nat) : Nat := (s.watch k).gs

/-- Own-slot checks of a timed trigger: precision exhausted (R190, R204). -/
def Watch.timedCheck (w : Watch) (o : UOp) (k : VxCtl) : Option (Nat × Word) :=
  let bc := BitVec.ofNat 64 w.bc
  match o with
  | .sf _ => if 23 < w.bc ∧ !w.sx then some (7, bc) else none
  | .va o t => if vaPrec o t w.bc w.sx then some (7, bc) else none
  | .vx o => if vxPrec o k w.bc then some (7, bc) else none
  | _ => none

/-- An operation of a scalar timed unit or of `va` starts in one member (R51, R58). -/
def Watch.startTimed (w : Watch) (o : UOp) (wide : Bool) (gp : Nat) (d : Datum) : Watch :=
  let c := d.toScalar
  let op8 := o.code.toNat
  let L := w.bc
  let m := w.mode
  match o with
  | .ia o => w.launchTimed { Flight.ofWord .ia (iaResult o wide (w.latch .iaA) c) with op8 := op8, pc := w.pc } 1
  | .im o => w.launchTimed { Flight.ofWord .im (imResult o wide (w.latch .imA) c) with op8 := op8, pc := w.pc } (imLatency o)
  | .fa o =>
    let r := faResult o L m (w.latch .faA) (w.latch .faB) c
    w.launchTimed { Flight.ofWord .fa r.1 with fl := r.2.bits, op8 := op8, pc := w.pc } (faLatency L)
  | .fd o =>
    let r := fdResult o L m (w.latch .fdA) c
    w.launchTimed { Flight.ofWord .fd r.1 with fl := r.2.bits, op8 := op8, pc := w.pc } (fdLatency L)
  | .sf o =>
    let r := sfResult o (min L 23) m (w.latch .sfA) c
    w.launchTimed { Flight.ofWord .sf r.1 with fl := r.2.bits, op8 := op8, pc := w.pc } 18
  | .va o t =>
    let v := vaResult o t L m gp (w.vlatch .vaA) (w.vlatch .vaB) d.toVec
    w.launchTimed { Flight.ofVec .va v with op8 := op8, pc := w.pc } (vaLatency o)
  | _ => w

/-- The elements of type `t` of a gang, member by member (R201). -/
def gangLanes (t : VTy) (l : List Vec) : List Nat := l.flatMap (lanes (vtyWidth t))
/-- The elements of member `m`. -/
def memberVec (t : VTy) (m : Nat) (l : List Nat) : Vec :=
  let n := 256 / vtyWidth t
  join (vtyWidth t) ((l.drop (m * n)).take n)
/-- The neighbour read that a member's `nbr` asks for (R210): none where the answer is 0 at once. -/
def nbrTarget (k : Nat) (ctl : VxCtl) : Option Nat :=
  let q : Int := (posOf (k / 4) : Int) + ctl.s
  if (ctl.s = 0 ∨ ctl.s < -3 ∨ 3 < ctl.s ∨ q < 0 ∨ 31 < q) then none
  else some (rodCore (rodOf (k / 4)) q.toNat)

/-- An operation of `vx` starts over the whole gang: its operands are the members' latches and data, its control word the
leader's (R208 to R213). -/
def State.startVx (s : State) (ks : List Nat) (o : VxOp) (data : List Vec) : State :=
  let lead := s.watch ((ks.head?).getD 0)
  let ctl := vxCtl ((lead.vlatch .vxB).setWidth 64)
  let t := ctl.t
  let A := ks.map fun k => (s.watch k).vlatch .vxA
  let a0 := (A.head?).getD 0
  let c0 := (data.head?).getD 0
  let out := vxLanes o ctl lead.bc lead.mode (gangLanes t A) (gangLanes t data)
  let lat := vxLatency ks.length
  let op8 := (UOp.vx o).code.toNat
  s.each ks.zipIdx fun s e =>
    let k := e.1
    let m := e.2
    let start := fun (s : State) (v : Vec) (q : Option Vec) => s.onWatch k fun w =>
      w.launchTimed { Flight.ofVec .vx v with q := q, op8 := op8, pc := w.pc } lat
    match o with
    | .nbr =>
      let s := start s 0 (some 0)
      match nbrTarget k ctl with
      | none => s
      | some c => s.onWatch k fun w => { w with nbr := some ⟨s.cycles, c, ctl.nw, ctl.vreg, false⟩ }
    | .tkclr =>
      let n := min (max (c0.setWidth 64).toNat 1) 64
      (start s 0 (some 0)).onWatch k fun w => { w with tk := ⟨t, n, []⟩ }
    | .tk =>
      (start s 0 (some 0)).onWatch k fun w =>
        { w with tk := tkStep w.tk (a0.setWidth 64).toNat (gangLanes w.tk.t data) }
    | .tkrd =>
      let r := tkRead (s.watch k).tk ctl.s.toNat m
      start s r.1 (some r.2)
    | _ => start s (memberVec t m out.r) (out.q.map fun q => join 32 (List.replicate 8 q))

end Sys2Proof.Machine
end

