-- ==== Sys2Proof/Machine/Compact.lean ====
section
/-! DEFINITION. The 16-bit words (R46, R108): one meaning per operation over one shared form. -/
namespace Sys2Proof.Machine

/-- A compact word: the unit's A latch takes `a`, the unit starts with datum `b`, and the result lands in the unit's port
and in `xd` (R46, R108). -/
def Watch.compact (w : Watch) (o : UOp) (l : Latch) (d : XReg) (a b : Word) : Watch :=
  let w := w.setLatch l a
  let w := w.startTimed o false 0 (.scalar b)
  { w with
    loads := if d.val = 0 then w.loads else w.loads.filter fun x => x.reg ≠ .x d
    img := { w.img with flights := w.img.flights.zipIdx.map fun f =>
      if f.2 + 1 = w.img.flights.length then { f.1 with xd := some d } else f.1 } }
/-- A compact word over `ia` or `im` with registers `xd` and `xs` as operands. -/
def State.compact (s : State) (i : Instr) (o : UOp) (l : Latch) (d x : XReg) : State :=
  s.plainWord i fun s k => s.onWatch k fun w => w.compact o l d (w.xRead d.val) (w.xRead x.val)

/-- `c.cp`: A is zero (R46). -/
def execCCp (d x : XReg) (m : Bool) (s : State) : Host.Outcome State Fault Refusal :=
  .next (s.plainWord (.cCp d x m) fun s k => s.onWatch k fun w => w.compact (.ia .orOp) .iaA d 0 (w.xRead x.val))
/-- `c.add` (R46). -/
def execCAdd (d x : XReg) (m : Bool) (s : State) : Host.Outcome State Fault Refusal :=
  .next (s.compact (.cAdd d x m) (.ia .add) .iaA d x)
/-- `c.sub` (R46). -/
def execCSub (d x : XReg) (m : Bool) (s : State) : Host.Outcome State Fault Refusal :=
  .next (s.compact (.cSub d x m) (.ia .sub) .iaA d x)
/-- `c.and` (R46). -/
def execCAnd (d x : XReg) (m : Bool) (s : State) : Host.Outcome State Fault Refusal :=
  .next (s.compact (.cAnd d x m) (.ia .andOp) .iaA d x)
/-- `c.or` (R46). -/
def execCOr (d x : XReg) (m : Bool) (s : State) : Host.Outcome State Fault Refusal :=
  .next (s.compact (.cOr d x m) (.ia .orOp) .iaA d x)
/-- `c.xor` (R46). -/
def execCXor (d x : XReg) (m : Bool) (s : State) : Host.Outcome State Fault Refusal :=
  .next (s.compact (.cXor d x m) (.ia .xor) .iaA d x)
/-- `c.shl` (R46). -/
def execCShl (d x : XReg) (m : Bool) (s : State) : Host.Outcome State Fault Refusal :=
  .next (s.compact (.cShl d x m) (.ia .shl) .iaA d x)
/-- `c.shr` (R46). -/
def execCShr (d x : XReg) (m : Bool) (s : State) : Host.Outcome State Fault Refusal :=
  .next (s.compact (.cShr d x m) (.ia .shr) .iaA d x)
/-- `c.sar` (R46). -/
def execCSar (d x : XReg) (m : Bool) (s : State) : Host.Outcome State Fault Refusal :=
  .next (s.compact (.cSar d x m) (.ia .sar) .iaA d x)
/-- `c.mul` (R46). -/
def execCMul (d x : XReg) (m : Bool) (s : State) : Host.Outcome State Fault Refusal :=
  .next (s.compact (.cMul d x m) (.im .mul) .imA d x)
/-- `c.min` (R46). -/
def execCMin (d x : XReg) (m : Bool) (s : State) : Host.Outcome State Fault Refusal :=
  .next (s.compact (.cMin d x m) (.ia .min) .iaA d x)
/-- `c.max` (R46). -/
def execCMax (d x : XReg) (m : Bool) (s : State) : Host.Outcome State Fault Refusal :=
  .next (s.compact (.cMax d x m) (.ia .max) .iaA d x)
/-- `c.minn` (R46). -/
def execCMinn (d x : XReg) (m : Bool) (s : State) : Host.Outcome State Fault Refusal :=
  .next (s.compact (.cMinn d x m) (.ia .minn) .iaA d x)
/-- `c.maxn` (R46). -/
def execCMaxn (d x : XReg) (m : Bool) (s : State) : Host.Outcome State Fault Refusal :=
  .next (s.compact (.cMaxn d x m) (.ia .maxn) .iaA d x)
/-- `c.andn` (R46). -/
def execCAndn (d x : XReg) (m : Bool) (s : State) : Host.Outcome State Fault Refusal :=
  .next (s.compact (.cAndn d x m) (.ia .andn) .iaA d x)
/-- `c.addi`: the trigger datum is the sign-extended field (R46). -/
def execCAddi (d : XReg) (v : BitVec 5) (m : Bool) (s : State) : Host.Outcome State Fault Refusal :=
  .next (s.plainWord (.cAddi d v m) fun s k => s.onWatch k fun w =>
    w.compact (.ia .add) .iaA d (w.xRead d.val) (v.signExtend 64))

end Sys2Proof.Machine
end

