-- ==== Sys2Proof/Machine/Work.lean ====
section
/-!
DEFINITION. Launches, graphs and cancelling: descriptors, placement of indices, the start and the predecessors of a launch,
completion counters, continuations, and the levels that `cancel` names (R19 to R33, R140 to R142).
-/
namespace Sys2Proof.Machine

/-! ## Descriptors (R140, R141) -/

abbrev Desc := Vector Word 8
def Desc.word (d : Desc) (i : Nat) : Word := Vector.at0 d i
def Desc.handler (d : Desc) : Word := BitVec.ofNat 64 (bits (d.word 0) 55 0)
def Desc.arg (d : Desc) (i : Nat) : Word := d.word (1 + i)
def Desc.n (d : Desc) : Nat := bits (d.word 5) 31 0
def Desc.policy (d : Desc) : Nat := bits (d.word 5) 33 32
def Desc.cls (d : Desc) : Nat := bits (d.word 5) 35 34
def Desc.ranged (d : Desc) : Bool := (d.word 5).getLsbD 36
def Desc.place (d : Desc) : Nat := bits (d.word 5) 50 37
def Desc.preds (d : Desc) : List Nat :=
  ([bits (d.word 0) 63 58, bits (d.word 6) 63 58, bits (d.word 5) 56 51, bits (d.word 5) 62 57]).filter (· ≠ 63)
def Desc.cell (d : Desc) : Nat := bits (d.word 6) 55 0
def Desc.contCore (d : Desc) : Nat := bits (d.word 7) 63 52
def Desc.cont (d : Desc) : Nat := bits (d.word 7) 51 0
/-- The descriptor at a physical address. -/
def State.desc (s : State) (a : Nat) : Desc := Vector.ofFn fun i => s.homeWord (a + 8 * i.val)
/-- The cores a launch is spread over (R23). -/
def Desc.cores (d : Desc) (p : Part) : List Nat :=
  if d.policy = 2 then [d.place % 4096]
  else if d.ranged then p.cores.filter fun c => d.place % 128 ≤ rodOf c && rodOf c ≤ d.place / 128
  else p.cores
/-- A malformed descriptor (R141). -/
def Desc.bad (d : Desc) (p : Part) : Bool :=
  d.n = 0 || d.policy = 3
  || bits (d.word 0) 57 56 ≠ 0 || bits (d.word 6) 57 56 ≠ 0 || (d.word 5).getLsbD 63
  || (d.word 0).getLsbD 0 || d.cont % 2 = 1 || d.cell % 8 ≠ 0
  || (d.policy = 2 && (d.ranged || 4096 ≤ d.place || !p.cores.contains d.place))
  || (d.policy ≠ 2 && d.ranged && (d.place / 128 < d.place % 128 || (d.cores p).isEmpty))
  || (d.policy ≠ 2 && !d.ranged && d.place ≠ 0)
  || (d.cont ≠ 0 && !p.cores.contains d.contCore)
/-- The cursors of a started launch: core, first index, step and count (R23, R120). -/
def Desc.cursors (d : Desc) (p : Part) : List (Nat × Nat × Nat × Nat) :=
  let cs := d.cores p
  let m := cs.length
  let n := d.n
  (cs.zipIdx.map fun e =>
    let j := e.2
    if d.policy = 2 then (e.1, 0, 1, n)
    else if d.policy = 1 then (e.1, j, m, (n + m - 1 - j) / m)
    else
      let lo := (j * n + m - 1) / m
      let hi := ((j + 1) * n + m - 1) / m
      (e.1, lo, 1, hi - lo)).filter fun e => 0 < e.2.2.2

/-! ## Launches and graphs -/

def Graph.fresh : Graph := ⟨false, false, false, 0, 0, []⟩
def Part.graphAt (p : Part) (g : Nat) : Graph := p.graphs.get Graph.fresh g
def State.onGraph (s : State) (p g : Nat) (f : Graph → Graph) : State :=
  s.onPart p fun q => { q with graphs := q.graphs.set g (f (q.graphAt g)) }
/-- A free pending-launch entry (R142). -/
def Part.freeEntry (p : Part) : Option Nat := (List.range 256).find? fun l => !(p.launchAt l).used
/-- A launch is accepted into an entry; its graph counts it (R29, R142). -/
def State.accept (s : State) (p l g : Nat) (idx : Option Nat) (d : Desc) (notify : Bool) : State :=
  let s := s.onLaunch p l fun v =>
    { v with used := true, started := false, cancelled := false, desc := d, graph := g, idx := idx, notify := notify,
             counter := 0, toPlace := [] }
  s.onGraph p g fun v => { v with unfinished := v.unfinished + 1 }
/-- A launch starts: its counter is n, its indices are to be placed, and the boards' read-only caches hold nothing older
(R23, R25, R286). -/
def State.startLaunch (s : State) (p l : Nat) : State :=
  match s.part? p with
  | none => s
  | some q =>
    let s := s.onLaunch p l fun v =>
      { v with started := true, counter := Desc.n v.desc, toPlace := if v.notify then [] else Desc.cursors v.desc q }
    s.each q.boards fun s b => s.onBoard b fun v => { v with ro := [] }
/-- A closed graph without unfinished launches completes (R29). -/
def State.endGraph (s : State) (p g : Nat) : State :=
  s.onGraph p g fun v => if v.used ∧ v.closed ∧ v.unfinished = 0 then { v with used := false } else v
/-- What becomes of a launch that waits: its start is forbidden by a cancellation of it, of its graph or of a predecessor; it starts
once its predecessors have completed normally; it waits (R26, R29, R32). -/
inductive Start where
  | forbidden | starts | waits
deriving DecidableEq, Repr
def Part.startOf (q : Part) (v : Launch) : Start :=
  let ends := (if v.idx = none then [] else Desc.preds v.desc).map fun i => (q.graphAt v.graph).ended.get 0 i
  if v.cancelled || (q.graphAt v.graph).cancelled || ends.any (· = 2) then .forbidden
  else if ends.all (· = 1) then .starts
  else .waits
/-- A launch that has not started starts, waits, or ends cancelled by `stop` (R29). -/
def State.startOr (s : State) (p l : Nat) (stop : State → State) : State :=
  match s.part? p with
  | none => s
  | some q =>
    let v := q.launchAt l
    if !v.used || v.started then s
    else match q.startOf v with
      | .forbidden => stop (s.onLaunch p l fun v => { v with cancelled := true })
      | .starts => s.startLaunch p l
      | .waits => s
/-- A LAUNCH COMPLETES (R26, R28, R29): its cell takes the add, its continuation waits for an entry, its entry and notify page are
free, its graph counts it, and the launches of its graph that wait start, or end cancelled at once. -/
def State.endLaunch (s : State) (p l : Nat) : Nat → State
  | 0 => s
  | n + 1 =>
    match s.part? p with
    | none => s
    | some q =>
      let v := q.launchAt l
      let d : Desc := v.desc
      let s := if d.cell = 0 then s else s.deviceAdd p d.cell (if v.cancelled then 2 ^ 32 else 1)
      let s := if v.cancelled || d.cont = 0 then s
        else (s.onGraph p v.graph fun g => { g with unfinished := g.unfinished + 1 }).onPart p fun q =>
          { q with conts := q.conts ++ [(⟨v.desc, v.graph⟩ : Cont)] }
      let s := s.onLaunch p l fun v =>
        { v with used := false, started := false, cancelled := false, gen := (v.gen + 1) % 2 ^ 16, toPlace := [], notify := false }
      let s := s.onPart p fun q => { q with pages := q.pages.filter fun e => !(v.notify && e.2.launch = l) }
      let s := s.onGraph p v.graph fun g => { g with
        unfinished := g.unfinished - 1
        ended := match v.idx with
          | some i => g.ended.set i (if v.cancelled then 2 else 1)
          | none => g.ended }
      let s := s.each ((List.range 256).filter fun j => (q.launchAt j).used && (q.launchAt j).graph = v.graph) fun s j =>
        s.startOr p j fun s => s.endLaunch p j n
      s.endGraph p v.graph
/-- A launch that is accepted starts, waits or ends (R29, R32). -/
def State.tryStart (s : State) (p l : Nat) : State := s.startOr p l fun s => s.endLaunch p l 257

/-! ## Cancelling (R32, R33) -/

/-- The unplaced or unadmitted indices of a launch. -/
def Launch.unplaced (v : Launch) (q : Part) (l : Nat) : Nat :=
  (v.toPlace.map fun e => e.2.2.2).sum +
    (if v.notify ∧ v.started then ((q.pages.find? fun e => e.2.launch = l).map fun e => e.2.n - e.2.adm).getD 0 else 0) +
    (q.admitted.filter fun e => e.2.launch = l).length
/-- Launches are cancelled at the work slice: of a started one the indices not yet placed are discarded and a notice goes to the
cores of the partition; one that has not started ends at once (R26, R32). -/
def State.cancelLaunches (s : State) (p : Nat) (ls : List Nat) : State :=
  match s.part? p with
  | none => s
  | some q =>
    let ls := ls.filter fun l => (q.launchAt l).used && !(q.launchAt l).cancelled
    let (on, off) := ls.partition fun l => (q.launchAt l).started
    let s := s.each on fun s l => s.onLaunch p l fun v =>
      { v with cancelled := true, counter := v.counter - v.unplaced q l, toPlace := [] }
    let s := if on = [] then s else s.onPart p fun q => { q with
      admitted := q.admitted.filter fun e => !on.contains e.2.launch
      notices := q.notices ++ [⟨on.map fun l => (l, (q.launchAt l).gen), s.bell⟩] }
    let s := s.each off fun s l => s.onLaunch p l fun v => { v with cancelled := true }
    s.each off fun s l => s.tryStart p l
/-- The continuations of a graph that wait for an entry are forbidden to start (R28, R32). -/
def State.dropConts (s : State) (p : Nat) (gs : List Nat) : State :=
  match s.part? p with
  | none => s
  | some q =>
    let gone := q.conts.filter fun c => gs.contains c.graph
    let s := s.onPart p fun q => { q with conts := q.conts.filter fun c => !gs.contains c.graph }
    s.each gone fun s c => (s.onGraph p c.graph fun v => { v with unfinished := v.unfinished - 1 }).endGraph p c.graph
/-- Graphs and every launch in them are cancelled. -/
def State.cancelGraphs (s : State) (p : Nat) (gs : List Nat) : State :=
  match s.part? p with
  | none => s
  | some q =>
    let s := s.each gs fun s g => s.onGraph p g fun v => { v with cancelled := true }
    let ls := (List.range 256).filter fun l => (q.launchAt l).used && gs.contains (q.launchAt l).graph
    (s.cancelLaunches p ls).dropConts p gs
def ChEntry.word (e : ChEntry) (i : Nat) : Word := Vector.at0 e.words i
def ChEntry.kind (e : ChEntry) : Nat := bits (e.word 0) 63 56
/-- An entry has not started: it is captured and no FIFO slot is reserved for it, or it is a WAIT, which does no work (R329,
R335, R336). -/
def ChEntry.idle (e : ChEntry) : Bool :=
  e.st = .captured && e.slot = none || e.st = .running && e.kind = 10
/-- A chain is halted: its captured entries that have not started end HALTED (R329, R347). -/
def Chain.haltLater (c : Chain) : Chain :=
  { c with halted := true, entries := c.entries.map fun e => if e.idle then { e with st := .worked, code := 17 } else e }
/-- A cancelled phase or job ends the entries of its chains that have not started (R336, R347). -/
def State.haltPart (s : State) (p : Nat) : State :=
  { s with chains := s.chains.map fun c => if c.part = p then c.haltLater else c }
/-- `cancel` of a level: its status, 0 OK, 1 STALE, 2 BADH, and the state; a level that is cancelled already stays as it is (R32). -/
def State.cancelLevel (s : State) (p level : Nat) (h : Word) : Nat × State :=
  match s.part? p with
  | none => (1, s)
  | some q =>
    let all := (List.range 64).filter fun g => (q.graphAt g).used
    if level = 0 then
      let l := bits h 7 0
      if bits h 63 24 ≠ 0 then (2, s)
      else if !(q.launchAt l).used || (q.launchAt l).gen ≠ bits h 23 8 then (1, s)
      else (0, s.cancelLaunches p [l])
    else if level = 1 then
      if bits h 63 6 ≠ 0 then (2, s)
      else if !(q.graphAt (bits h 5 0)).used then (1, s)
      else if (q.graphAt (bits h 5 0)).cancelled then (0, s)
      else (0, s.cancelGraphs p [bits h 5 0])
    else if level = 2 then
      if bits h 63 32 ≠ 0 then (2, s)
      else if bits h 31 0 ≠ q.phase ∨ !q.phaseOpen then (1, s)
      else if q.phaseCancelled then (0, s)
      else (0, ((s.cancelGraphs p all).haltPart p).onPart p fun q => { q with phaseCancelled := true })
    else
      match q.job with
      | none => (1, s)
      | some j => if j.cancelled then (0, s) else (0, ((s.cancelGraphs p all).haltPart p).onPart p fun q =>
          { q with phaseCancelled := true, job := some { j with cancelled := true } })

end Sys2Proof.Machine
end

