-- ==== Sys2Proof/Machine/Messages.lean ====
section
/-!
DEFINITION. Messages and objects: the `ms` unit's messages and deposits, acceptance and overflow, records and deposits at
their home, wake entries, launches and multicasts from tasks (R41, R120 to R145).
-/
namespace Sys2Proof.Machine

/-! ## The header (R124) -/

def Msg.word (m : Msg) (i : Nat) : Word := Vector.at0 m.words i
def Msg.dcore (m : Msg) : Nat := bits (m.word 0) 63 52
def Msg.score (m : Msg) : Nat := bits (m.word 0) 51 40
def Msg.kind (m : Msg) : Nat := bits (m.word 0) 39 36
def Msg.pcls (m : Msg) : Nat := bits (m.word 0) 35 34
def Msg.rcls (m : Msg) : Nat := bits (m.word 0) 33 32
def Msg.type (m : Msg) : Nat := bits (m.word 0) 31 24
def Msg.slot (m : Msg) : Nat := bits (m.word 0) 23 18
def Msg.dkind (m : Msg) : Nat := bits (m.word 0) 17 16
def Msg.wake (m : Msg) : Bool := (m.word 0).getLsbD 15
def Msg.aux (m : Msg) : Nat := bits (m.word 0) 14 12
def Msg.seq (m : Msg) : Nat := bits (m.word 0) 11 0
/-- A header from its fields, lowest first. -/
def msgHeader (seq aux wake dkind slot type rcls pcls kind score dcore : Nat) : Word :=
  packWord [(seq, 12), (aux, 3), (wake, 1), (dkind, 2), (slot, 6), (type, 8), (rcls, 2), (pcls, 2), (kind, 4), (score, 12),
    (dcore, 12)]

/-! ## Objects (R132 to R134) -/

def oidBoard (o : Word) : Nat := bits o 35 26
def oidCore (o : Word) : Nat := bits o 35 24
def oidType (o : Word) : Nat := bits o 23 16
/-- The offset of an object's record in its board's store. -/
def oidOff (o : Word) : Nat := 64 * bits o 12 0
def oidOk (o : Word) : Bool := bits o 63 36 = 0 && bits o 15 13 = 0
def TypeEnt.slots (t : TypeEnt) : Nat := bits t.control 5 0
def TypeEnt.size (t : TypeEnt) : Nat := 16 * 2 ^ bits t.control 7 6
def TypeEnt.damp (t : TypeEnt) : Nat := bits t.control 12 8
def TypeEnt.cvr (t : TypeEnt) : Nat := bits t.control 15 13
def TypeEnt.feeds (t : TypeEnt) : Bool := t.control.getLsbD 16
def TypeEnt.resBase (t : TypeEnt) : Int := sgn 12 (bits t.control 31 20)
/-- The record words 0 to 3 of an object. -/
def State.record (s : State) (o : Word) (i : Nat) : Word := s.homeWord (storeAddr (oidBoard o) (oidOff o + 8 * i))
def State.setRecord (s : State) (o : Word) (i : Nat) (v : Word) : State :=
  s.putWord (storeAddr (oidBoard o) (oidOff o + 8 * i)) v
/-- A record that lies in unlocked PAD banks (R131, R251). -/
def State.recordOk (s : State) (o : Word) (t : TypeEnt) : Bool :=
  let e := oidOff o + 64 + t.slots * t.size
  e ≤ 0x80000 && (List.range 16).all fun n =>
    !(n * 0x8000 < e && oidOff o < (n + 1) * 0x8000) ||
      (((s.boardAt (oidBoard o)).bank n).mode = 1 && !((s.boardAt (oidBoard o)).bank n).locked)
/-- The pending bit of an object is cleared (R33, R137). -/
def State.clearPending (s : State) (o : Word) : State := s.setRecord o 0 (s.record o 0 &&& ~~~1)
/-- A wake entry is dispatched: dirty and maxres are read and cleared with pending (R137). -/
def State.takeWake (s : State) (o : Word) : Word × Word × State :=
  let d := s.record o 1 &&& 0xFFFFFFFFFFFF
  (d, s.record o 2, ((s.clearPending o).setRecord o 1 (s.record o 1 &&& ~~~0xFFFFFFFFFFFF)).setRecord o 2 0)
/-- The residual class (R136). -/
def resClass (r : Word) (b : Int) : Nat :=
  let e := bits r 62 52
  if e = 0 then 0 else if e = 2047 then 3 else (min (max ((e : Int) - 1023 - b) 0) 3).toNat

/-! ## Queueing (R120 to R123, R130, R131) -/

/-- The address of a core's slot as memory names it, and as its core sees it (R121). -/
def slotPa (c i : Nat) : Nat := storeAddr (boardOf c) (0x800000 + c % 4 * 0x1000 + i * 64)
def slotVa (c i : Nat) : Word := BitVec.ofNat 64 (0xFE00000000800000 + c % 4 * 0x1000 + i * 64)
/-- The handler of a type of a partition. -/
def State.typeOf (s : State) (p t : Nat) : Option TypeEnt := (s.part? p).bind fun q => q.types.get none t
/-- The run-queue entry of a message in slot `i` of its core (R122, R123). -/
def State.entryOf (s : State) (m : Msg) (i : Nat) : Task :=
  let c := m.dcore
  let w := m.word
  let base : Task := ⟨.task, m.pcls, m.pcls, m.part, m.launch, m.gen, w 1, #v[w 2, w 3, w 4, w 5], 0, m.aux, s.cycles, s.bell, 0⟩
  match m.kind with
  | 1 => { base with kind := .call }
  | 2 => { base with kind := .reply }
  | 3 => { base with kind := .code, handler := slotVa c i + 8, args := #v[w 6, w 7, 0, 0] }
  | 5 => { base with
      kind := .wake, cls := m.pcls, cls0 := m.pcls, oid := w 1, args := #v[0, 0, 0, 0],
      handler := ((s.typeOf m.part m.type).map fun t => t.handler &&& 0x00FFFFFFFFFFFFFF).getD 0 }
  | _ => base
/-- A message or wake entry takes a slot; a message's bytes stand in it, and in a slot that holds none of a message those of the last
one (log 62). -/
def State.intoSlot (s : State) (i : Nat) (m : Msg) : State :=
  let s := s.onCore m.dcore fun c => c.setSlot i (.queued (s.entryOf m i))
  if m.kind = 5 then s else s.putBytes (((List.range 64).map (slotPa m.dcore i + ·)).zip (m.words.toList.flatMap fun w => leBytes 8 w.toNat))
/-- Room in a board's overflow area (R131): partitions that share the board share the area, which for a message has the size of its
own partition's (log 62). -/
def State.overflowRoom (s : State) (m : Msg) : Bool :=
  match s.part? m.part with
  | some p => (s.boardAt (boardOf m.dcore)).overflow.length < p.ovf
  | none => false
def State.intoOverflow (s : State) (m : Msg) : State :=
  s.onBoard (boardOf m.dcore) fun b => { b with overflow := b.overflow ++ [m] }
/-- A message of a cancelled lineage, at a core the notice has reached (R32, R33). -/
def State.noticed (s : State) (p c l gen : Nat) : Bool :=
  match s.part? p with
  | some q => (q.notices.take (s.coreAt c).notices).any fun n => n.entries.contains (l, gen)
  | none => false
/-- What becomes of a message or wake entry at its core: a slot, the overflow area behind those that wait there, or nothing
yet, none (R130). `late` says that it has waited its time in the router. -/
def State.offer (s : State) (m : Msg) (late : Bool) : Option State :=
  let c := m.dcore
  if (s.boardAt (boardOf c)).overflow.any (·.dcore = c) then if s.overflowRoom m then some (s.intoOverflow m) else none
  else match (s.coreAt c).freeSlot with
    | some i => some (s.intoSlot i m)
    | none => if late && s.overflowRoom m then some (s.intoOverflow m) else none
/-- The sender's trigger ends with a status (R126). -/
def State.sent (s : State) (m : Msg) (st : Nat) : State :=
  s.finish m.watch m.ticket ⟨m.ord, .ms, if m.kind = 4 then 0 else BitVec.ofNat 64 m.seq, st, 0, 0⟩
/-- A core has received a message (R384); one that it refuses is not received (log 62). -/
def State.received (s : State) (c : Nat) : State := s.onCore c fun v => { v with rcvd := (v.rcvd + 1) % 2 ^ 32 }
/-- A message is accepted, refused or discarded on arrival, or waits in its router (R32, R130, R131). The sender of one that a
cancellation discards sees OK, and the core has received it (log 62). -/
def State.arriveMsg (s : State) (m : Msg) (late : Bool) : State :=
  let gone := { s with msgs := s.msgs.erase m }
  let behind := (s.boardAt (boardOf m.dcore)).overflow.any (·.dcore = m.dcore)
  if s.noticed m.part m.dcore m.launch m.gen then ((gone.received m.dcore).countDown m.part m.launch).sent m 0
  else match gone.offer m late with
    | some s => (s.received m.dcore).sent m 0
    | none => if late || behind then (gone.countDown m.part m.launch).sent m 1 else s
/-- A partition that takes part in the mesh. -/
def State.live (s : State) (p : Nat) : Bool :=
  match s.part? p with
  | some q => q.run = .running
  | none => false
/-- No earlier message of the same source is on its way to the same core (R41). -/
def State.firstOfPair (s : State) (m : Msg) : Bool :=
  !(s.msgs ++ s.deposits).any fun x => x.score = m.score && x.dcore = m.dcore && decide (x.ticket < m.ticket)
/-- The next router on the way to a board, and the cycles of the hop (R10 to R12). -/
def nextHop (b d : Nat) : Nat × Nat :=
  let col := fun (n : Nat) => n / 512 * 16 + n % 16
  let row := fun (n : Nat) => n / 16 % 32
  let board := fun (x y : Nat) => x / 16 * 512 + y * 16 + x % 16
  let (x, y) := (col b, row b)
  let move := fun (a z : Nat) => let n := if 4 ≤ max a z - min a z then 4 else 1; if a < z then a + n else a - n
  if x ≠ col d then
    let x' := move x (col d)
    (board x' y, if x / 16 = x' / 16 then 2 else 4)
  else (board x (if y < row d then y + 1 else y - 1), 2)
/-- The messages that hold a place of a router (R388). -/
def State.atRouter (s : State) (b : Nat) : Nat := ((s.msgs ++ s.deposits).filter fun m => m.router = b).length
/-- A message on the mesh may make its next hop: it has reached a router that is not its core's, and the next one has a place free
among its 64 (R388). -/
def State.mayHop (s : State) (m : Msg) : Bool :=
  m.router ≠ boardOf m.dcore && s.live m.part && decide (s.atRouter (nextHop m.router (boardOf m.dcore)).1 < 64)
/-- A message goes on to its next router, which it reaches after the cycles of the hop (R12, R388). -/
def State.hop (s : State) (m : Msg) : State :=
  if s.cycles < m.since || !s.mayHop m then s
  else
    let (r, n) := nextHop m.router (boardOf m.dcore)
    let go := fun (x : Msg) => if x.ticket = m.ticket then { x with router := r, since := s.cycles + n } else x
    { s with msgs := s.msgs.map go, deposits := s.deposits.map go }
/-- The messages on the mesh go on, those that have waited longest first (R11; log 29). -/
def State.mesh (s : State) : State := s.each (s.msgs ++ s.deposits) State.hop
/-- A message has reached its core's router. -/
def State.there (s : State) (m : Msg) : Bool :=
  m.router = boardOf m.dcore && decide (m.since ≤ s.cycles) && s.firstOfPair m && s.live m.part
/-- `messageAccept`: the message that `a` numbers reaches its core (R130). -/
def execMessageAccept (s : State) : Host.Outcome State Fault Refusal :=
  let s := s.mesh
  .next (match s.msgs[s.opnd.a]? with
    | some m => if s.there m then s.arriveMsg m false else s
    | none => s)
/-- `overflowTimeout`: the message that `a` numbers has waited 1,024 cycles in its router (R130). -/
def execOverflowTimeout (s : State) : Host.Outcome State Fault Refusal :=
  let s := s.mesh
  .next (match s.msgs[s.opnd.a]? with
    | some m => if s.there m && m.since + 1024 ≤ s.cycles then s.arriveMsg m true else s
    | none => s)
/-- `overflowDrain`: the oldest overflow message for core `a` moves into a freed slot (R130). -/
def execOverflowDrain (s : State) : Host.Outcome State Fault Refusal :=
  let c := s.opnd.a
  .next (match (s.boardAt (boardOf c)).overflow.find? (·.dcore = c), (s.coreAt c).freeSlot with
    | some m, some i =>
      if s.live m.part then (s.onBoard (boardOf c) fun b => { b with overflow := b.overflow.erase m }).intoSlot i m else s
    | _, _ => s)
/-- `wakeRetry`: the home offers the waiting wake entry that `a` numbers again, 1,024 cycles after it last did (R131). -/
def execWakeRetry (s : State) : Host.Outcome State Fault Refusal :=
  .next (match s.wakes[s.opnd.a]? with
    | some m =>
      if m.since + 1024 ≤ s.cycles && s.live m.part then
        match { s with wakes := s.wakes.erase m }.offer m true with
        | some s => s
        | none => { s with wakes := s.wakes.map fun x => if x = m then { m with since := s.cycles } else x }
      else s
    | none => s)

/-! ## Deposits at the home (R33, R135 to R139) -/

/-- The residual counts as the greatest by its transport form, a NaN above infinity (R136). -/
def magnitude (r : Word) : Word := r &&& 0x7FFFFFFFFFFFFFFF
/-- One lane of a slot under a deposit (R135). -/
def depLane (kind k v n : Nat) : Nat :=
  let f := fun o a c => vaFloat o .w32 23 .rne a 0 c
  match kind with
  | 0 => n
  | 1 => f .add v (f .mul (f .sub n v) ((127 - k) * 2 ^ 23))
  | _ => f .add v n
/-- A wake entry is queued, or raised to the deposit's class where it waits (R123). -/
def raiseTask (o : Word) (cls : Nat) (t : Task) : Task :=
  if t.kind = .wake ∧ t.oid = o then { t with cls := max t.cls cls } else t
def raiseMsg (o : Word) (cls : Nat) (m : Msg) : Msg :=
  if m.kind = 5 ∧ m.word 1 = o then
    { m with words := m.words.set 0 (msgHeader m.seq 0 0 0 0 m.type 0 (max m.pcls cls) 5 m.score m.dcore) } else m
def State.raiseWake (s : State) (o : Word) (cls : Nat) : State :=
  let s := s.onCore (oidCore o) fun c => { c with slots := c.slots.map fun e => match e.2 with
    | .queued t => (e.1, .queued (raiseTask o cls t))
    | _ => e }
  let s := s.onBoard (oidBoard o) fun b => { b with overflow := b.overflow.map (raiseMsg o cls) }
  { s with wakes := s.wakes.map (raiseMsg o cls) }
/-- A deposit is dropped (R134, R135). -/
def State.dropDeposit (s : State) (m : Msg) (t : TypeEnt) : State :=
  ((s.deviceAdd m.part (t.addr.toNat + 24) 1).countDown m.part m.launch).sent m 4
/-- A deposit is applied at its home, or dropped (R135). A cancel notice has reached the home's board once the object's host core has
received it (R33; log 62). One whose type is installed no more is dropped, and no count is kept of it; a wake entry that finds no free slot goes
to the overflow area at once (log 62). -/
def State.applyDeposit (s : State) (m : Msg) : State :=
  let o := m.word 1
  match s.typeOf m.part m.type with
  | none => (s.countDown m.part m.launch).sent m 4
  | some t =>
    let sl := m.slot
    let w0 := s.record o 0
    if !s.recordOk o t || w0.getLsbD (16 + sl) then s.dropDeposit m t
    else
      let at' := storeAddr (oidBoard o) (oidOff o + 64 + sl * t.size)
      let s := if m.dkind = 3 then
          (s.putNat at' t.size 0).setRecord o 0 (w0 ||| BitVec.ofNat 64 (2 ^ (16 + sl)))
        else
          let n := if t.size = 16 then 16 else 32
          let a := at' + (if m.aux % 2 = 1 then 32 else 0)
          let val := leNat ((m.words.toList.drop 2).take 4 |>.flatMap fun w => leBytes 8 w.toNat)
          s.each (List.range (n / 4)) fun s j =>
            s.putNat (a + 4 * j) 4 (depLane m.dkind t.damp (s.homeNat (a + 4 * j) 4) (val / 2 ^ (32 * j) % 2 ^ 32))
      let r := magnitude (m.word 6)
      let s := s.setRecord o 1 (s.record o 1 ||| BitVec.ofNat 64 (2 ^ sl))
      let s := s.setRecord o 3 (s.record o 3 + 1)
      let s := s.setRecord o 2 (if (magnitude (s.record o 2)).toNat < r.toNat then r else s.record o 2)
      let s := if t.feeds then s.onBoard (oidBoard o) fun b =>
          let n := m.part * 8 + t.cvr
          let v := b.conv.get ⟨0, 0⟩ n
          { b with conv := Tbl.put ⟨0, 0⟩ b.conv n ⟨v.count + 1, if v.maxres.toNat < r.toNat then r else v.maxres⟩ } else s
      let wakes := m.wake && !s.noticed m.part (oidCore o) m.launch m.gen
      if !wakes then (s.countDown m.part m.launch).sent m 0
      else if (s.record o 0).getLsbD 0 then ((s.raiseWake o m.rcls).countDown m.part m.launch).sent m 0
      else
        let s := s.setRecord o 0 (s.record o 0 ||| 1)
        let e : Msg := { m with
          words := #v[msgHeader m.seq 0 0 0 0 m.type 0 m.rcls 5 m.score m.dcore, o, 0, 0, 0, 0, 0, 0], since := s.cycles }
        let s := match s.offer e true with
          | some s => s
          | none => { s with wakes := s.wakes ++ [e] }
        s.sent m 0
/-- A SNAP holds the object of a deposit, from its hold time on (R340). -/
def Snap.holdsId (n : Snap) (bell p : Nat) (o : Word) : Bool := (n.held || decide (n.t ≤ bell)) && n.part = p && n.ids.contains o
def State.holds (s : State) (n : Snap) (m : Msg) : Bool := n.holdsId s.bell m.part (m.word 1)
/-- A SNAP's hold defers deposits to an object, and the dispatch of its wake entries (R340). -/
def State.holding (s : State) (p : Nat) (o : Word) : Bool := s.snaps.any fun n => n.holdsId s.bell p o
/-- A convergence window has ended whose boundary the boards have still to act on (R37, R138). -/
def State.windowDue (s : State) (p : Nat) : Bool :=
  match s.part? p with
  | some q => decide ((q.window + 1) * 2 ^ q.win ≤ s.bell)
  | none => false
/-- `depositApply`: the deposit that `a` numbers reaches its object's home: applied, dropped, or deferred under a hold, with
its result at once, while the home's 1,024 places for deferred deposits last; every SNAP that holds the object defers it (R135,
R340). -/
def execDepositApply (s : State) : Host.Outcome State Fault Refusal :=
  let s := s.mesh
  .next (match s.deposits[s.opnd.a]? with
    | none => s
    | some m =>
      if !s.there m || s.windowDue m.part then s
      else
        let gone := { s with deposits := s.deposits.erase m }.received m.dcore
        if !s.holding m.part (m.word 1) then gone.applyDeposit m
        else
          let home := oidBoard (m.word 1)
          let kept := ((s.snaps.flatMap (·.deferred)).eraseDups.filter fun x => oidBoard (x.word 1) = home).length
          let put := fun (n : Snap) => if s.holds n m then { n with deferred := n.deferred ++ [m] } else n
          if 1024 ≤ kept then s else { gone with snaps := gone.snaps.map put }.sent m 0)

/-! ## The operations of `ms` (R126 to R145) -/

/-- A trigger of `ms` ends at once; one that sends nothing leaves 0 in `ms.r` (log 62). -/
def State.msDone (s : State) (k : Nat) (v : Word) (st : Nat) : State :=
  let (o, s) := s.takeOrd k
  s.result k ⟨o, .ms, v, st, 0, (s.watch k).pc⟩
def State.msFault (s : State) (k : Nat) (e : Nat × Word) : State :=
  let (o, s) := s.takeOrd k
  s.defer k ⟨o, e.1, (s.watch k).pc, e.2⟩
/-- A core that belongs to a partition. -/
def State.holdsCore (s : State) (p c : Nat) : Bool :=
  match s.part? p with
  | some q => q.rods.contains (rodOf c)
  | none => false
/-- The router of a core has no place for another message, which waits (R388). -/
def State.meshFull (s : State) (k : Nat) : Bool := decide (64 ≤ s.atRouter (boardOf (k / 4)))
/-- A message leaves a core: its numbers and counters, and what its sender waits for (R25, R124, R126). -/
def State.launchMsg (s : State) (k : Nat) (m : Nat → Vector Word 8) : Msg × State :=
  let w := s.watch k
  let c := k / 4
  let q := ((s.coreAt c).seq + 1) % 4096
  let s := s.onCore c fun v => { v with seq := q, sent := (v.sent + 1) % 2 ^ 32 }
  let (o, s) := s.takeOrd k
  let (t, s) := s.newTicket
  let s := s.onWatch k fun w => { w with img := w.img.await t (some .ms) }
  let gen := match s.part? w.part with
    | some p => (p.launchAt w.launch).gen
    | none => 0
  (⟨t, m q, w.part, w.launch, gen, k, o, boardOf c, s.cycles⟩, s.countUp w.part w.launch)
/-- `send`, `callat`, `reply` and `sendc` (R127, R128); `xs` are x1 to x4 at the trigger. -/
def State.sendOp (s : State) (k : Nat) (o : MsOp) (d : Word) (xs : Vector Word 4) : State :=
  let w := s.watch k
  let a := w.latch .msA
  let b := w.latch .msB
  let c := w.latch .msC
  let dst := bits a 11 0
  let cls := bits a 13 12
  let len := bits a 18 16
  let code := decide (o = MsOp.sendc)
  if a &&& ~~~0x73FFF ≠ 0 ∨ !s.holdsCore w.part dst ∨ (if code then len = 0 ∨ 5 < len ∨ b.toNat % 8 ≠ 0 else len ≠ 0) then
    s.msDone k 0 3
  else
    let x := Vector.at0 xs
    let head := fun q kind => msgHeader q len 0 0 0 0 0 cls kind (k / 4) dst
    let post := fun (s : State) (kind : Nat) (body : Vector Word 7) =>
      if s.meshFull k then s.msFault k (waitCause, 0)
      else
      let (m, s) := s.launchMsg k fun q => #v[head q kind, Vector.at0 body 0, Vector.at0 body 1, Vector.at0 body 2, Vector.at0 body 3,
        Vector.at0 body 4, Vector.at0 body 5, Vector.at0 body 6]
      { s with msgs := s.msgs ++ [m] }
    match o with
    | .callat => post s 1 #v[b, x 0, x 1, x 2, x 3, c, d]
    | .reply => post s 2 #v[c, d, x 1, x 2, x 3, 0, 0]
    | .sendc =>
      match s.unitLoad k b.toNat (8 * len) true with
      | .error e => s.msFault k e
      | .ok (l, s) =>
        let wd := fun i => BitVec.ofNat 64 (leNat ((l.drop (8 * i)).take 8))
        post s 3 #v[wd 0, wd 1, wd 2, wd 3, wd 4, c, d]
    | _ => post s 0 #v[b, x 0, x 1, x 2, x 3, c, d]
/-- `dep` (R135). An object id with a bit set that R132 has 0 is BAD (log 62). A retire reads no value. -/
def State.depOp (s : State) (k : Nat) (d : Word) : State :=
  let w := s.watch k
  let o := w.latch .msA
  let b := w.latch .msB
  let va := (w.latch .msC).toNat
  let sl := bits b 5 0
  let kind := bits b 9 8
  match s.typeOf w.part (oidType o) with
  | none => s.msDone k 0 3
  | some t =>
    let half := b.getLsbD 11
    let n := if t.size = 16 then 16 else 32
    if b &&& ~~~0xF3F ≠ 0 ∨ !oidOk o ∨ t.slots ≤ sl ∨ (half ∧ t.size ≠ 64) ∨ !s.holdsCore w.part (oidCore o) ∨ va % n ≠ 0 then s.msDone k 0 3
    else
      let post := fun (s : State) (l : List Byte) =>
        let wd := fun i => BitVec.ofNat 64 (leNat ((l.drop (8 * i)).take 8))
        if s.meshFull k then s.msFault k (waitCause, 0)
        else
        let (m, s) := s.launchMsg k fun q =>
          #v[msgHeader q (ofB half) (bits b 10 10) kind sl (oidType o) (resClass d t.resBase) 0 4 (k / 4) (oidCore o),
            o, wd 0, wd 1, wd 2, wd 3, d, 0]
        { s with deposits := s.deposits ++ [m] }
      if kind = 3 then post s []
      else match s.unitLoad k va n with
        | .error e => s.msFault k e
        | .ok (l, s) => post s l
/-- `launch` (R29, R141, R142). A launch that joins a cancelled graph ends cancelled at once (R26, R32). -/
def State.launchOp (s : State) (k : Nat) (d : Word) : State :=
  let w := s.watch k
  if d.toNat % 64 ≠ 0 then s.msDone k 0 3
  else match s.unitLoad k d.toNat 64 with
    | .error e => s.msFault k e
    | .ok (l, s) =>
      match s.part? w.part with
      | none => s.msDone k 0 3
      | some p =>
        let desc : Desc := Vector.ofFn fun i => BitVec.ofNat 64 (leNat ((l.drop (8 * i.val)).take 8))
        let g := w.gph.toNat
        if Desc.bad desc p then s.msDone k 0 3
        else match p.freeEntry with
          | none => s.msDone k 0 2
          | some e =>
            let s := s.accept w.part e g none desc false
            (s.tryStart w.part e).msDone k (handleOf e (p.launchAt e).gen) 0
/-- A board's neighbour by a mask bit: N, NE, E, SE, S, SW, W, NW, itself (R9, R145). -/
def neighbour (b i : Nat) : Option Nat :=
  let col := b / 512 * 16 + b % 16
  let row := b / 16 % 32
  let dx : Int := if i = 1 ∨ i = 2 ∨ i = 3 then 1 else if i = 5 ∨ i = 6 ∨ i = 7 then -1 else 0
  let dy : Int := if i = 7 ∨ i = 0 ∨ i = 1 then -1 else if i = 3 ∨ i = 4 ∨ i = 5 then 1 else 0
  let x := (col : Int) + dx
  let y := (row : Int) + dy
  if x < 0 ∨ 31 < x ∨ y < 0 ∨ 31 < y then none
  else some (x.toNat / 16 * 512 + y.toNat * 16 + x.toNat % 16)
/-- `mcast` (R145): a copy that a bank refuses leaves its trap for the marker. A mask of other bits, and a source outside the local
window, are BAD (log 62). -/
def State.mcastOp (s : State) (k : Nat) (d : Word) : State :=
  let w := s.watch k
  let own := boardOf (k / 4)
  let a := (w.latch .msA).toNat
  let n := (w.latch .msB).toNat
  let mask := w.latch .msC
  let places := ((List.range 9).filter mask.getLsbD).map fun i => if i = 8 then some own else neighbour own i
  let sane := a / 2 ^ 24 = 0xFE00000000 && a % 2 ^ 24 + n ≤ 0x80000 && a % 64 = 0 && 64 ≤ n && n ≤ 8192 && n % 64 = 0
    && d.toNat % 64 = 0 && d.toNat + n ≤ 0x80000 && bits mask 63 9 = 0
    && places.all fun p => match p with
      | some b => s.reaches w.part b
      | none => false
  if !sane then s.msDone k 0 3
  else match s.unitLoad k a n with
    | .error e => s.msFault k e
    | .ok (l, s) =>
      let r := (places.filterMap id).foldl (fun (acc : Option (Nat × Word) × State) b =>
        match acc.2.bankStore b d.toNat l with
        | .ok s => (acc.1, s)
        | .error c => (acc.1.orElse fun _ => some (c, BitVec.ofNat 64 (storeAddr b d.toNat)), acc.2)) (none, s)
      match r.1 with
      | some e => r.2.msFault k e
      | none => r.2.msDone k 0 0

end Sys2Proof.Machine
end

