-- ==== Sys2Proof/Machine/Engines.lean ====
section
/-!
DEFINITION. Engines: chains and their capture, entries and what each does, ends and halts, groups and collectives, night-copy
flips and SNAPs, and the `ce` unit (R145, R324 to R348).
-/
namespace Sys2Proof.Machine

/-! ## Accesses of an engine (R330)

An engine is named by its board, or by 1,024 plus its die. -/

def State.engTranslate (s : State) (p b va : Nat) : Option (Word × Nat) :=
  if 2 ^ 56 ≤ va then none
  else match (if b < 1024 then tlbFind (s.boardAt b).tlb p va else none) with
    | some r => some r
    | none => (s.part? p).bind fun q => s.walk va 4 q.root
/-- Where an access of board `b`'s engine goes, or the code that ends the entry. -/
def State.engPlace (s : State) (p b : Nat) (night : Bool) (va : Nat) : Except Nat Place :=
  if inWindow va then
    let off := va % 2 ^ 24
    let isLocal := decide (va / 2 ^ 24 = 0xFE00000000)
    let b := if isLocal then b % 1024 else va / 2 ^ 24 % 1024
    if off < 0x80000 && (isLocal || s.reaches p b) then .ok (.bank b off) else .error 20
  else match s.engTranslate p b va with
    | none => .error 19
    | some (e, size) =>
      let pa := s.paOf p e size va night
      if s.badPa e pa then .error 19 else .ok (.mem pa e)
/-- The code that stands for an access that waits for a link that retrains: its entry stays as it is (R399). No entry ends with
it. -/
def waitCode : Nat := 255
/-- Memory behind a link that retrains. -/
def State.waits (s : State) (a : Nat) : Bool := !s.cutOff a && s.behindRetrain a
/-- The place of the first byte with an uncorrectable error among `n`. -/
def State.firstError (s : State) (a n : Nat) : Nat := ((List.range n).find? fun i => s.ecc.contains (a + i)).getD 0
/-- Bytes that stand where an engine reads them; or the code and the address that end its entry (R326, R330). -/
def State.engRead (s : State) (p b : Nat) (night : Bool) (va n : Nat) : Except (Nat × Word) (List Byte) :=
  (blocks va (n / 0x8000 + 2) 0 n).foldlM (fun (acc : List Byte) q =>
    let addr := fun (i : Nat) => BitVec.ofNat 64 (q.1 + i)
    match s.engPlace p b night q.1 with
    | .error c => .error (c, addr 0)
    | .ok (.mem a _) =>
      if s.waits a then .error (waitCode, 0)
      else if s.poisoned a q.2.2 then .error (21, addr (s.firstError a q.2.2)) else .ok (acc ++ s.homeBytes a q.2.2)
    | .ok (.bank b o) => match s.bankLoad b o q.2.2 with
      | .ok l => .ok (acc ++ l)
      | .error 0x18 => .error (21, addr (s.firstError (storeAddr b o) q.2.2))
      | .error _ => .error (20, addr 0)
    | .ok (.slot _ _) => .error (20, addr 0)) []
/-- The lines of memory that an engine reads have come to their slices, and what they wait for there is served (R356, R357). -/
def State.engReach (s : State) (p b : Nat) (night : Bool) (va n : Nat) : State :=
  s.each (blocks va (n / 0x8000 + 2) 0 n) fun s q => match s.engPlace p b night q.1 with
    | .ok (.mem a e) =>
      if s.waits a then s
      else s.each (List.range ((a + q.2.2 - 1) / 64 + 1 - a / 64)) fun s i => s.needLine (a / 64 + i) (pteType e = 1)
    | _ => s
/-- An engine reads bytes, through the slices of their lines. -/
def State.engFetch (s : State) (p b : Nat) (night : Bool) (va n : Nat) : Except (Nat × Word) (List Byte) × State :=
  let s := s.engReach p b night va n
  (s.engRead p b night va n, s)
/-- The pair and its id (R337). -/
def State.pair? (s : State) (p i : Nat) : Option Pair := (s.part? p).bind fun q => (q.pairs.find? (·.1 = i)).map Prod.snd
/-- One piece that an engine writes: the code that refuses it, and the state. -/
def State.engPut (s : State) (p b : Nat) (night : Bool) (va : Nat) (l : List Byte) : Nat × State :=
  match s.engPlace p b night va with
  | .error c => (c, s)
  | .ok (.mem a e) =>
    let isPair := pteType e = 2 && pteAux e / 2 ^ 11 = 1 && (s.pair? p (pteAux e % 64)).isSome
    if s.waits a then (waitCode, s)
    else if pteType e = 0 || pteType e = 3 || (isPair && night) then
      let s := (s.ownHost e a).post a
      let bytes := ((List.range l.length).map (a + ·)).zip l
      (0, if s.cutOff a then s else (s.arrived bytes).agentWrite bytes)
    else (20, s)
  | .ok (.bank b o) =>
    let k := (s.boardAt b).bank (o / 0x8000)
    match s.bankStore b o l with
    | .ok s => (0, s)
    | .error _ => (if k.mode = 2 ∧ !k.locked then 22 else 20, s)
  | .ok (.slot _ _) => (20, s)
/-- How an entry fares: the state, its code, the address that goes with it, its flags. -/
structure EngRun where
  s : State
  code : Nat := 0
  addr : Word := 0
  flags : BitVec 6 := 0
/-- An entry that has failed does nothing more. -/
def EngRun.go (r : EngRun) (f : State → EngRun) : EngRun :=
  if r.code ≠ 0 then r else let t := f r.s; { t with flags := t.flags ||| r.flags }
/-- Bytes that an engine writes, in pieces, until one is refused. -/
def EngRun.write (r : EngRun) (p b : Nat) (night : Bool) (va : Nat) (l : List Byte) : EngRun :=
  (blocks va (l.length / 0x8000 + 2) 0 l.length).foldl (fun r q => r.go fun s =>
    let (c, s) := s.engPut p b night q.1 ((l.drop q.2.1).take q.2.2)
    { s := s, code := c, addr := if c = 0 ∨ c = 22 then 0 else BitVec.ofNat 64 q.1 }) r
/-- An access of an engine that waits for a link. -/
def State.engWaits (s : State) (p b va : Nat) : Bool :=
  match s.engPlace p b false va with
  | .ok (.mem a _) => s.waits a
  | _ => false
/-- A fault of a read ends the entry. -/
def EngRun.fault (s : State) (e : Nat × Word) : EngRun := { s := s, code := e.1, addr := e.2 }
/-- A tensor element moves: read, widened, narrowed in a mode, written; `none` writes +0 (R333). -/
def EngRun.elem (r : EngRun) (p b : Nat) (night : Bool) (mode : RMode) (src : Option (Header × List Nat)) (dst : Header)
    (ix : List Nat) : EngRun :=
  r.go fun s =>
    let from' := src.map fun x => (x.1, x.1.bit x.2)
    let (bytes, s) : Except (Nat × Word) (List Byte) × State := match from' with
      | none => (.ok [], s)
      | some (h, q) => s.engFetch p b false (spanOf q h.width).1 (spanOf q h.width).2
    let got : Except (Nat × Word) (Nat × FFlags) := bytes.map fun l => match from' with
      | none => (0, .none)
      | some (h, q) => dst.narrow mode (widen h.ffmt (takeBits q h.width l))
    match got with
    | .error e => EngRun.fault s e
    | .ok (v, fl) =>
      let q := dst.bit ix
      let (va, n) := spanOf q dst.width
      if q % 8 = 0 ∧ dst.width % 8 = 0 then { (({ s := s } : EngRun).write p b night va (leBytes n v)) with flags := fl.bits }
      else match s.engFetch p b night va n with
        | (.error e, s) => EngRun.fault s e
        | (.ok l, s) => { (({ s := s } : EngRun).write p b night va (putBits q dst.width v l)) with flags := fl.bits }
/-- A row moves (R333): `none` for a source writes +0. -/
def EngRun.row (r : EngRun) (p b : Nat) (night : Bool) (mode : RMode) (src : Option (Header × Nat)) (dst : Header) (n : Nat) : EngRun :=
  (List.range (dst.dim dst.kdim)).foldl (fun r k =>
    r.elem p b night mode (src.map fun x => (x.1, x.1.index k x.2)) dst (dst.index k n)) r

/-! ## Entries (R326, R327) -/

def ChEntry.night (e : ChEntry) : Bool := (e.word 0).getLsbD 51
def ChEntry.mode (e : ChEntry) : RMode := if (e.word 0).getLsbD 55 then .rto else RMode.ofCode (bits (e.word 0) 54 52)
def ChEntry.ty (e : ChEntry) : Nat := bits (e.word 0) 47 44
def ChEntry.op (e : ChEntry) : Nat := bits (e.word 0) 43 40
def ChEntry.len (e : ChEntry) : Nat := bits (e.word 4) 31 0
def tensorKind (k : Nat) : Bool := k = 2 || k = 3 || k = 4 || k = 6
def collectiveKind (k : Nat) : Bool := 0x10 ≤ k && k ≤ 0x13
/-- The kinds that an engine accepts (R324). -/
def acceptsKind (collective : Bool) (k : Nat) : Bool :=
  if collective then collectiveKind k || k = 9 || k = 10 else 1 ≤ k && k ≤ 11
/-- The width in bytes of a collective's type. -/
def tyBytes (t : Nat) : Nat := if t = 1 then 8 else 4
/-- The fields of an entry's words (R326, R327). -/
def entryOk (w : Nat → Word) : Bool :=
  let k := bits (w 0) 63 56
  let coll := collectiveKind k
  bits (w 0) 50 48 = 0 && bits (w 0) 39 0 = 0 && bits (w 0) 54 52 ≤ 4 && w 6 = 0 && w 7 = 0
  && (if coll then bits (w 0) 47 44 ≤ 2 else bits (w 0) 47 44 = 0)
  && (if k = 0x11 then bits (w 0) 43 40 ≤ 2 else bits (w 0) 43 40 = 0)
  && (let tids := bits (w 2) 15 10 = 0 && bits (w 2) 63 26 = 0
      let len := bits (w 4) 31 0 ≠ 0 && bits (w 4) 63 32 = 0
      match k with
      | 1 | 5 => len && w 5 = 0
      | 2 | 4 => tids && (w 3).toNat % 4 = 0 && len && w 5 = 0
      | 3 => tids && (w 3).toNat % 4 = 0 && bits (w 4) 31 0 ≠ 0 && bits (w 4) 63 48 = 0
          && 1 ≤ bits (w 4) 47 32 && bits (w 4) 47 32 ≤ 4096 && w 5 = 0
      | 6 => tids && w 3 = 0 && w 4 = 0 && w 5 = 0
      | 7 => (w 2).toNat % 8 = 0 && (w 3).toNat % 64 = 0 && 1 ≤ bits (w 4) 15 0 && bits (w 4) 15 0 ≤ 4096
          && bits (w 4) 31 16 = 0 && bits (w 4) 63 48 = 0 && bits (w 4) 47 32 % 64 = 0
      | 8 => bits (w 2) 63 6 = 0 && w 3 = 0 && w 4 = 0
      | 9 => (w 2).toNat ≤ 6 && w 3 = 0 && w 4 = 0 && w 5 = 0
      | 10 => (w 2).toNat % 64 = 0 && w 4 = 0 && w 5 = 0
      | 11 => w 3 = 0 && len && w 5 = 0
      | 0x10 | 0x12 => len && w 5 = 0
      | 0x11 => len && bits (w 4) 31 0 % tyBytes (bits (w 0) 47 44) = 0 && w 5 = 0
      | 0x13 => w 2 = 0 && w 3 = 0 && w 4 = 0 && w 5 = 0
      | _ => false)
/-- The tensors of an entry fit its kind (R333, R334). -/
def tensorsOk (k : Nat) (a b : Header) : Bool :=
  a.fmt ≤ 3 && a.dim a.kdim = b.dim b.kdim
  && (if k = 3 then a.kv ≠ 0 && b.kv = a.kv && b.fmt = 0 else b.fmt ≤ 3)
  && (k ≠ 6 || (a.ndims = b.ndims && (List.range 4).all fun i => a.dim i = b.dim i))
/-- The eight words of a 64-byte record that stand where board `b`'s engine reads it. -/
def State.engWords (s : State) (p b va : Nat) : Option (Nat → Word) :=
  match s.engRead p b false va 64 with
  | .ok l => some fun i => BitVec.ofNat 64 (leNat ((l.drop (8 * i)).take 8))
  | .error _ => none
/-- An entry is captured; none where a check fails (R328). -/
def State.capture (s : State) (p eng : Nat) (va : Word) (member : Nat) : Option ChEntry :=
  let page := match s.engPlace p eng false va.toNat with
    | .ok (.mem _ e) => pteType e = 0 || pteType e = 3
    | _ => false
  if va.toNat % 64 ≠ 0 ∨ !page then none
  else match s.engWords p eng va.toNat with
    | none => none
    | some w =>
      let k := bits (w 0) 63 56
      let tid := fun (i : Nat) => match s.part? p with
        | some q => if tensorKind k then q.tensors.get none i else none
        | none => none
      let src := tid (bits (w 2) 9 0)
      let dst := tid (bits (w 2) 25 16)
      let fits := if tensorKind k then (match src, dst with
        | some a, some b => tensorsOk k a b
        | _, _ => false) else true
      if acceptsKind (1024 ≤ eng) k && entryOk w && fits then
        some ⟨va, 0, Vector.ofFn fun i => w i.val, src, dst, .captured, 0, 0, 0, false, 0, none, member⟩
      else none

/-! ## Chains (R325, R329, R344) -/

def State.chain? (s : State) (p : Nat) (h : Word) : Option Chain := s.chains.find? fun c => c.part = p && c.header = h
/-- Change one chain. A chain without unended entries is not held: its header's words stand in memory. -/
def State.onChain (s : State) (p : Nat) (h : Word) (f : Chain → Chain) : State :=
  { s with chains := (s.chains.map fun c => if c.part = p ∧ c.header = h then f c else c).filter fun c => c.entries ≠ [] }
def Chain.board (c : Chain) : Nat := c.eng
/-- An engine writes words of a chain's header or of an entry. -/
def State.engWord (s : State) (p eng : Nat) (va : Nat) (w : Word) : State := (s.engPut p eng false va (leBytes 8 w.toNat)).2
/-- The entries from one to the last of an append, following `next`, none where they do not reach it; or a read of theirs waits
(R344). They have come to their slices. -/
def State.followNext (s : State) (p eng : Nat) (last : Word) : Nat → Word → Except Unit (Option (List Word)) × State
  | 0, _ => (.ok none, s)
  | n + 1, a =>
    if s.engWaits p eng a.toNat then (.error (), s)
    else
      let s := s.engReach p eng false a.toNat 64
      if a = last then (.ok (some [a]), s)
      else match s.engRead p eng false (a.toNat + 8) 8 with
        | .error _ => (.ok none, s)
        | .ok l =>
          let next := BitVec.ofNat 64 (leNat l)
          if next = 0 then (.ok none, s)
          else
            let r := s.followNext p eng last n next
            (r.1.map fun o => o.map (a :: ·), r.2)
/-- Entries are numbered and appended (R329). -/
def numberFrom (n : Nat) : List ChEntry → List ChEntry
  | [] => []
  | e :: t => { e with seq := n } :: numberFrom (n + 1) t
def State.appendTo (s : State) (c : Chain) (es : List ChEntry) : State :=
  let es := numberFrom (c.tseq + 1) es
  let c' := { c with tseq := c.tseq + es.length, entries := c.entries ++ es }
  let s := { s with chains := (s.chains.filter fun (x : Chain) => !(x.part = c.part && x.header = c.header)) ++ [c'] }
  s.engWord c.part c.eng (c.header.toNat + 8) (BitVec.ofNat 64 c'.tseq)
/-- A chain as it stands, from the engine or from its header. -/
def State.openChain (s : State) (p eng : Nat) (h : Word) (w : Nat → Word) : Chain :=
  (s.chain? p h).getD ⟨h, p, eng, (w 0).toNat, (w 1).toNat, w 2, [], none, false⟩

/-- The `ce` results. -/
def State.ceDone (s : State) (k : Nat) (v : Word) (st : Nat) : State :=
  let (o, s) := s.takeOrd k
  s.result k ⟨o, .ce, v, st, 0, (s.watch k).pc⟩
/-- A watch's task has appended entries, the last one numbered so (R33). -/
def State.noteEntry (s : State) (k : Nat) (h : Word) (n : Nat) : State :=
  s.onWatch k fun w => { w with appended := w.appended ++ [(h, n)] }
/-- A trigger waits for a link. -/
def State.ceHeld (s : State) (k : Nat) : State := let (o, s) := s.takeOrd k; s.defer k ⟨o, waitCause, (s.watch k).pc, 0⟩
/-- `tail` (R344). A chain that has been halted takes no append before its done equals its tseq (R329, R343; log 63). -/
def State.tailOp (s : State) (k : Nat) (d : Word) : State :=
  let w := s.watch k
  let p := w.part
  let h := w.latch .ceB
  if h.toNat % 64 ≠ 0 then s.ceDone k 0 3
  else if s.engWaits p (boardOf (k / 4)) h.toNat then s.ceHeld k
  else
    let s := s.engReach p (boardOf (k / 4)) false h.toNat 64
    match s.engWords p (boardOf (k / 4)) h.toNat with
    | none => s.ceDone k 0 3
    | some hw =>
      let eng := (hw 3).toNat
      if 1024 ≤ eng ∨ !s.reaches p eng then s.ceDone k 0 3
      else match s.followNext p eng d 256 (w.latch .ceA) with
        | (.error _, s) => s.ceHeld k
        | (.ok none, s) => s.ceDone k 0 3
        | (.ok (some l), s) => match l.mapM fun a => s.capture p eng a 0 with
          | none => s.ceDone k 0 3
          | some es =>
            let own := s.chains.filter (·.eng = eng)
            let c := s.openChain p eng h hw
            if c.halted then s.ceDone k 0 17
            else if (c.entries = [] ∧ 16 ≤ own.length) ∨ 256 < (own.map fun c => c.entries.length).sum + es.length then s.ceDone k 0 2
            else ((s.appendTo c es).noteEntry k h (c.tseq + es.length)).ceDone k (BitVec.ofNat 64 (c.tseq + es.length)) 0
/-- `done` of a chain, read at its home as an acquire by watch `k` (R345). -/
def State.readDone (s : State) (k : Nat) (h : Word) : Except (Nat × Word) (Word × State) :=
  match s.unitLoad k h.toNat 8 false true with
  | .error e => .error e
  | .ok (l, s) => .ok (BitVec.ofNat 64 (leNat l), s)
/-- Change a pair. -/
def State.onPair (s : State) (p i : Nat) (f : Pair → Pair) : State :=
  s.onPart p fun q => { q with pairs := q.pairs.map fun e => if e.1 = i then (e.1, f e.2) else e }
/-- The first and last virtual address of a tensor's elements. -/
def Header.extent (h : Header) : Nat × Nat :=
  let last := (List.range h.ndims).map fun i => h.dim i - 1
  (h.base, (h.bit last + h.width + 7) / 8)
/-- The members of the group of a chain. -/
def State.groupSize (s : State) (c : Chain) : Nat :=
  (((s.part? c.part).bind fun q => c.group.bind fun g => q.groups.get none g).map fun (g : Group) => g.members.length).getD 0
/-- The bytes that an entry without a tensor writes, in a group of `m` (R327, R340, R342). -/
def ChEntry.bytes (e : ChEntry) (m : Nat) : Nat :=
  match e.kind with
  | 1 | 5 | 0x11 => e.len
  | 7 => bits (e.word 4) 15 0 * bits (e.word 4) 47 32
  | 0x10 | 0x12 => m * e.len
  | _ => 0
/-- The virtual range that an entry writes. -/
def ChEntry.target (e : ChEntry) (m : Nat) : Nat × Nat :=
  match e.dst with
  | some h => h.extent
  | none => ((e.word 3).toNat, (e.word 3).toNat + e.bytes m)
/-- An entry with the night bit that touches a pair. -/
def ChEntry.touches (e : ChEntry) (m : Nat) (r : Pair) : Bool :=
  e.night && decide ((e.target m).1 < r.va.toNat + r.len ∧ r.va.toNat < (e.target m).2)
/-- An entry has started: a FIFO slot that is reserved for it starts it (R329, R335). -/
def ChEntry.started (e : ChEntry) : Bool := e.st ≠ .captured || e.slot.isSome
/-- Night writes already started to a pair, or earlier entries of a chain with the night bit, that have not ended (R339). -/
def State.nightBusy (s : State) (p : Nat) (r : Pair) (chain : Option (Word × Nat)) : Bool :=
  s.chains.any fun c => c.part = p && c.entries.any fun e =>
    (e.started && e.touches (s.groupSize c) r) ||
    (match chain with
      | some (h, n) => c.header = h && e.seq < n && e.night
      | none => false)
/-- A flip is armed at `t`, or 200 ticks ahead (R339): the time, and whether it was raised. -/
def State.armTime (s : State) (t : Word) : Nat × Bool :=
  if t.toNat < s.bell + 200 then (s.bell + 200, true) else (t.toNat, false)
/-- What a waiting `wseq`, `pub` or `halt` comes to, once its condition holds (R345 to R347). -/
def State.pollWait (s : State) (q : CeWait) : State :=
  let gone := { s with ceWaits := s.ceWaits.erase q }
  let fin := fun (s : State) (v : Word) (st : Nat) => s.finish q.watch q.ticket ⟨q.ord, .ce, v, st, 0, 0⟩
  let p := (s.watch q.watch).part
  match q.op with
  | .wseq =>
    match gone.readDone q.watch q.header with
    | .error e => if e.1 = waitCause then s else gone.fail q.watch q.ticket ⟨q.ord, e.1, q.pc, e.2⟩
    | .ok (v, t) => if q.n.toNat ≤ v.toNat then fin t v 0 else s
  | .halt =>
    if (s.chain? p q.header).isSome then s
    else match gone.readDone q.watch q.header with
      | .error e => if e.1 = waitCause then s else gone.fail q.watch q.ticket ⟨q.ord, e.1, q.pc, e.2⟩
      | .ok (v, t) => fin t v 0
  | .pub =>
    match s.pair? p q.header.toNat with
    | none => fin gone 0 3
    | some r =>
      if r.flip.isSome then fin gone 0 9
      else if s.nightBusy p r none then s
      else
        let (t, late) := s.armTime q.n
        fin (gone.onPair p q.header.toNat fun r => { r with flip := some ⟨t, 0, 0, 0⟩ }) (BitVec.ofNat 64 t) (if late then 18 else 0)
  | _ => s
/-- Every wait whose condition holds ends. -/
def State.pollAll (s : State) : State := s.each s.ceWaits State.pollWait
/-- A trigger parks until its condition holds, which may be now. -/
def State.parkCe (s : State) (k : Nat) (o : CeOp) (h n : Word) : State :=
  let (ord, s) := s.takeOrd k
  let (t, s) := s.newTicket
  let s := s.onWatch k fun w => { w with img := w.img.await t (some .ce) }
  let q : CeWait := ⟨t, k, ord, (s.watch k).pc, o, h, n⟩
  { s with ceWaits := s.ceWaits ++ [q] }.pollWait q
/-- A `ce` operation starts in one member (R343 to R347). -/
def State.startCe (s : State) (k : Nat) (o : CeOp) (d : Word) : State :=
  let w := s.watch k
  let fault := fun (s : State) (e : Nat × Word) => let (ord, s) := s.takeOrd k; s.defer k ⟨ord, e.1, w.pc, e.2⟩
  let a := w.latch .ceA
  match o with
  | .tail => s.tailOp k d
  | .seq =>
    if d.toNat % 64 ≠ 0 then s.ceDone k 0 3
    else match s.readDone k d with
      | .error e => fault s e
      | .ok (v, s) => s.ceDone k v 0
  | .wseq =>
    if a.toNat % 64 ≠ 0 then s.ceDone k 0 3
    else match s.readDone k a with
      | .error e => fault s e
      | .ok _ => s.parkCe k .wseq a d
  | .pub =>
    if (s.pair? w.part (bits a 5 0)).isNone then s.ceDone k 0 3 else s.parkCe k .pub (a &&& 63) d
  | .halt =>
    if d.toNat % 64 ≠ 0 then s.ceDone k 0 3
    else
      let s := s.engReach w.part (boardOf (k / 4)) false d.toNat 64
      match s.engWords w.part (boardOf (k / 4)) d.toNat with
      | none => fault s (match s.readDone k d with
        | .error e => e
        | .ok _ => (5, d))
      | some hw =>
        if (hw 3).getLsbD 16 then s.ceDone k 0 3
        else (s.onChain w.part d Chain.haltLater).parkCe k .halt d 0

/-! ## Starting and ending entries (R329, R336) -/

def State.chainAt (s : State) (i : Nat) : Option Chain := s.chains[i]?
/-- An entry may start: those before it have, and no FENCE or WAIT before it is open; no armed flip holds it (R329, R336,
R339). -/
def State.mayStart (s : State) (c : Chain) (e : ChEntry) : Bool :=
  e.st = .captured && s.live c.part
  && (c.entries.filter fun x => x.seq < e.seq).all (fun x => x.started && x.kind ≠ 9 && x.kind ≠ 10)
  && !(match s.part? c.part with
      | some q => q.pairs.any fun r => r.2.flip.isSome && e.touches (s.groupSize c) r.2
      | none => false)
def Chain.setEntry (c : Chain) (seq member : Nat) (f : ChEntry → ChEntry) : Chain :=
  { c with entries := c.entries.map fun e => if e.seq = seq ∧ e.member = member then f e else e }
/-- An entry's work is done, and noted in the state that its work left; one that waits for a link has done nothing. -/
def State.ran (s : State) (r : EngRun) (f : State → State) : State := if r.code = waitCode then s else f r.s
/-- An entry's work is done. -/
def State.worked (s : State) (c : Chain) (e : ChEntry) (r : Nat × Word × BitVec 6) : State :=
  s.onChain c.part c.header fun c => c.setEntry e.seq e.member fun e =>
    { e with st := .worked, code := r.1, result := r.2.1, flags := r.2.2 }
/-- A data entry of a kind runs, as chain `a`, entry `b` name it. -/
def State.runEntry (s : State) (kind : Nat) (f : State → Chain → ChEntry → EngRun) : State :=
  match s.chainAt s.opnd.a with
  | none => s
  | some c => match c.entries[s.opnd.b]? with
    | none => s
    | some e =>
      if e.kind ≠ kind ∨ 1024 ≤ c.eng ∨ !s.mayStart c e then s
      else
        let r := f s c e
        s.ran r fun s => s.worked c e (r.code, r.addr, r.flags)
/-- Where the bytes of a range stand that an engine reaches, as address and length. -/
def State.spots (s : State) (p b : Nat) (night : Bool) (va n : Nat) : List (Nat × Nat) :=
  (blocks va (n / 0x8000 + 2) 0 n).filterMap fun q => match s.engPlace p b night q.1 with
    | .ok (.mem a _) => some (a, q.2.2)
    | .ok (.bank c o) => some (storeAddr c o, q.2.2)
    | _ => none
/-- The bytes of an overlap of a COPY's source with the place that it writes are undefined after it: free values (R332). -/
def State.spoil (s : State) (src dst : List (Nat × Nat)) (l : List Byte) : List Byte × State :=
  let hit := fun (a : Nat) => src.any fun r => decide (r.1 ≤ a ∧ a < r.1 + r.2)
  let at' := dst.flatMap fun r => (List.range r.2).map (r.1 + ·)
  if at'.any hit then
    ((l.zip at').zipIdx.map fun e =>
      if hit e.1.2 then (Config.freeWord (s.free + e.2 / 8) >>> (8 * (e.2 % 8))).setWidth 8 else e.1.1,
     { s with free := s.free + l.length / 8 + 1 })
  else (l, s)
/-- The FIFO bank whose first byte a COPY or FILL names (R335). -/
def State.fifoTarget (s : State) (c : Chain) (e : ChEntry) : Option (Nat × Nat × Nat) :=
  match bankOf (c.eng * 4) (e.word 3) with
  | some (b, n, base) =>
    let k := (s.boardAt b).bank n
    if k.mode = 2 ∧ !k.locked ∧ (base = 0xFE00000000000000 ∨ s.reaches c.part b) then some (b, n, base) else none
  | none => none
/-- A partition whose boards are its own: it runs, is stopped, or is leaving them. -/
def State.present (s : State) (p : Nat) : Bool :=
  match s.part? p with
  | some q => q.run ≠ .switched
  | none => false
/-- The bytes of a COPY or FILL, which `data` gives for the place that takes them, are written: to a FIFO bank's reserved slot, once
there is one, or as a plain write (R335). An entry whose slot is reserved has started, and a stop or a switch does not end it (R383,
R387). -/
def State.runBytes (s : State) (kind : Nat)
    (data : State → Chain → ChEntry → List (Nat × Nat) → Except (Nat × Word) (List Byte) × State) : State :=
  match s.chainAt s.opnd.a with
  | none => s
  | some c => match c.entries[s.opnd.b]? with
    | none => s
    | some e =>
      if e.kind ≠ kind ∨ 1024 ≤ c.eng ∨ !(if e.slot.isSome then e.st = .captured && s.present c.part else s.mayStart c e) then s
      else
        let put := fun (s : State) (va : Nat) =>
          let (got, s) := data s c e (s.spots c.part c.eng e.night va e.len)
          let r : EngRun := match got with
            | .error x => EngRun.fault s x
            | .ok l => ({ s := s } : EngRun).write c.part c.eng e.night va l
          s.ran r fun s => s.worked c e (r.code, r.addr, r.flags)
        match s.fifoTarget c e, e.slot with
        | none, none => put s (e.word 3).toNat
        | none, some _ => s.worked c e (22, 0, 0)
        | some (b, n, base), some i => put s (base + n * 0x8000 + i * ((s.boardAt b).bank n).slotSize)
        | some (b, n, base), none =>
          let k := (s.boardAt b).bank n
          let w : Waiter := ⟨engineBase + c.eng, c.header.toNat, e.seq, base⟩
          if e.len ≠ k.slotSize then s.worked c e (22, 0, 0)
          else if k.pushes.contains w then s
          else s.reserve b n w
/-- A tensor that an entry may not name: one based in a FIFO bank (R335). -/
def State.inFifo (s : State) (c : Chain) (h : Header) : Bool :=
  match s.engPlace c.part c.eng false h.base with
  | .ok (.bank b off) => ((s.boardAt b).bank (off / 0x8000)).mode = 2
  | _ => false
/-- An index of an entry's list, as a signed 32-bit number. -/
def State.indexAt (s : State) (c : Chain) (e : ChEntry) (i : Nat) : Except (Nat × Word) Int × State :=
  let r := s.engFetch c.part c.eng false ((e.word 3).toNat + 4 * i) 4
  (r.1.map fun l => sgn 32 (leNat l), r.2)
/-- A tensor entry with both its tensors. -/
def State.tensorEntry (s : State) (c : Chain) (e : ChEntry) (f : Header → Header → EngRun) : EngRun :=
  match e.src, e.dst with
  | some a, some b =>
    if s.inFifo c a || s.inFifo c b then
      { s := s, code := 20, addr := BitVec.ofNat 64 (if s.inFifo c b then b.base else a.base) }
    else f a b
  | _, _ => { s := s, code := 3 }
/-- `entryCopy` (R332). -/
def execEntryCopy (s : State) : Host.Outcome State Fault Refusal :=
  .next (s.runBytes 1 fun s c e dst =>
    match s.engFetch c.part c.eng false (e.word 2).toNat e.len with
    | (.error x, s) => (.error x, s)
    | (.ok l, s) => let r := s.spoil (s.spots c.part c.eng false (e.word 2).toNat e.len) dst l; (.ok r.1, r.2))
/-- `entryFill` (R332). -/
def execEntryFill (s : State) : Host.Outcome State Fault Refusal :=
  .next (s.runBytes 5 fun s _ e _ => (.ok ((List.range e.len).map fun i => (e.word 2 >>> (8 * (i % 8))).setWidth 8), s))
/-- `entryPrefetch` (R332). -/
def execEntryPrefetch (s : State) : Host.Outcome State Fault Refusal :=
  .next (s.runEntry 11 fun s c e =>
    let first := (e.word 2).toNat / 64
    let last := ((e.word 2).toNat + e.len - 1) / 64
    { s := (s.bringIn (c.eng * 4) c.part (last + 1 - first) first).2 })
/-- `entryGather` (R333). -/
def execEntryGather (s : State) : Host.Outcome State Fault Refusal :=
  .next (s.runEntry 2 fun s c e => s.tensorEntry c e fun a b =>
    (List.range e.len).foldl (fun (r : EngRun) i => r.go fun s =>
      match s.indexAt c e i with
      | (.error x, s) => EngRun.fault s x
      | (.ok j, s) =>
        if b.rows ≤ i ∨ j < -1 ∨ (a.rows : Int) ≤ j then { s := s, code := 3 }
        else ({ s := s } : EngRun).row c.part c.eng e.night e.mode (if j = -1 then none else some (a, j.toNat)) b i) { s := s })
/-- One row of a SCATTER. Of two rows for the same row of the destination, either may remain: a free value says which (R333). -/
def EngRun.scatter (c : Chain) (e : ChEntry) (a b : Header) (x : EngRun × List Int) (i : Nat) : EngRun × List Int :=
  let j := match (x.1.s.indexAt c e i).1 with
    | .ok j => j
    | .error _ => -1
  let put := fun (r : EngRun) => r.go fun s => match s.indexAt c e i with
    | (.error f, s) => EngRun.fault s f
    | (.ok j, s) =>
      if j = -1 then { s := s }
      else if j < 0 ∨ (b.rows : Int) ≤ j ∨ a.rows ≤ i then { s := s, code := 3 }
      else ({ s := s } : EngRun).row c.part c.eng e.night e.mode (some (a, i)) b j.toNat
  if j = -1 ∨ j ∉ x.2 then (put x.1, j :: x.2)
  else
    let (any, s) := x.1.s.anyWord
    let r := put { x.1 with s := s }
    (if any.getLsbD 0 || decide (r.code ≠ 0) then r else { r with s := s }, x.2)
/-- `entryScatter` (R333). -/
def execEntryScatter (s : State) : Host.Outcome State Fault Refusal :=
  .next (s.runEntry 4 fun s c e => s.tensorEntry c e fun a b =>
    ((List.range e.len).foldl (EngRun.scatter c e a b) ({ s := s }, [])).1)
/-- `entrySelgather` (R334). -/
def execEntrySelgather (s : State) : Host.Outcome State Fault Refusal :=
  .next (s.runEntry 3 fun s c e => s.tensorEntry c e fun a b =>
    let n := bits (e.word 4) 47 32
    (List.range (e.len * n)).foldl (fun (r : EngRun) i => r.go fun s =>
      match s.indexAt c e (i / n) with
      | (.error x, s) => EngRun.fault s x
      | (.ok x, s) =>
        if b.rows ≤ i ∨ x < -1 ∨ (a.rows : Int) < (x + 1) * n then { s := s, code := 3 }
        else ({ s := s } : EngRun).row c.part c.eng e.night e.mode (if x = -1 then none else some (a, x.toNat * n + i % n)) b i)
      { s := s })
/-- Every index of a tensor, dimension 0 fastest. -/
def Header.indices (h : Header) : List (List Nat) :=
  (List.range 4).foldr (fun i (l : List (List Nat)) =>
    (List.range (if i < h.ndims then h.dim i else 1)).flatMap fun x => l.map (x :: ·)) [[]]
/-- `entryConvert` (R333). -/
def execEntryConvert (s : State) : Host.Outcome State Fault Refusal :=
  .next (s.runEntry 6 fun s c e => s.tensorEntry c e fun a b =>
    b.indices.foldl (fun r ix => r.elem c.part c.eng e.night e.mode (some (a, ix)) b ix) { s := s })
/-- `entryFence` (R336): every earlier entry has ended, and its writes are performed as they are made. -/
def execEntryFence (s : State) : Host.Outcome State Fault Refusal :=
  .next (match s.chainAt s.opnd.a with
    | none => s
    | some c => match c.entries[s.opnd.b]? with
      | none => s
      | some e =>
        let ready := if c.group.isSome then e.st = .running else s.mayStart c e
        if e.kind = 9 && ready && (c.entries.filter fun x => x.seq < e.seq) = [] then s.worked c e (0, 0, 0) else s)
/-- `entryWait` (R336). -/
def execEntryWait (s : State) : Host.Outcome State Fault Refusal :=
  .next (match s.chainAt s.opnd.a with
    | none => s
    | some c => match c.entries[s.opnd.b]? with
      | none => s
      | some e =>
        let ready := if c.group.isSome then e.st = .running else s.mayStart c e
        if e.kind = 10 && ready then
          match s.engFetch c.part c.eng false (e.word 2).toNat 8 with
          | (.error x, t) => if x.1 = waitCode then s else t.worked c e (x.1, x.2, 0)
          | (.ok l, t) => if (e.word 3).toNat ≤ leNat l then t.worked c e (0, 0, 0) else s
        else s)

/-! ## Night copies (R337 to R339) -/

/-- `entryPublish` (R339): a flip of its pair is armed, once none is and no night write to it is open. -/
def execEntryPublish (s : State) : Host.Outcome State Fault Refusal :=
  .next (match s.chainAt s.opnd.a with
    | none => s
    | some c => match c.entries[s.opnd.b]? with
      | none => s
      | some e =>
        if e.kind ≠ 8 ∨ !s.mayStart c e then s
        else match s.pair? c.part (e.word 2).toNat with
          | none => s.worked c e (3, 0, 0)
          | some r =>
            if r.flip.isSome ∨ s.nightBusy c.part r (some (c.header, e.seq)) then s
            else
              let (t, late) := s.armTime (e.word 5)
              (s.onPair c.part (e.word 2).toNat fun r => { r with flip := some ⟨t, c.eng, c.header, e.seq⟩ }).onChain c.part c.header
                fun c => c.setEntry e.seq e.member fun e => { e with st := .running, t := t, late := late })
/-- A page of pair `i` of partition `p`, as a load of watch `k` meets it. -/
def State.ofPair (s : State) (p i k : Nat) (e : Word) : Bool :=
  (s.watch k).part = p && pteType e = 2 && pteAux e / 2 ^ 11 = 1 && pteAux e % 64 = i
/-- The loads of a pair that have been issued and not performed keep the bytes that the day side holds before the flip: their tags
are earlier (R338; log 65). -/
def State.freeze (s : State) (p i : Nat) : State :=
  let side := fun (a n : Nat) => (List.range n).map fun j => (a + j, s.home (a + j))
  let load := fun (q : LoadReq) => if q.old = [] && s.ofPair p i q.watch q.pte then { q with old := side q.addr q.len } else q
  let miss := fun (r : MissReq) => match r with
    | .load q => .load (load q)
    | r => r
  let held := fun (k : Nat) (h : Held) => match h.act with
    | .load f va ps [] => { h with act := .load f va ps (ps.flatMap fun q => match q.1 with
        | .mem a e => if s.ofPair p i k e then side a q.2.2.2 else []
        | _ => []) }
    | _ => h
  { s with
    linkLoads := s.linkLoads.map load
    slices := s.slices.map fun (e : Nat × Slice) => (e.1, { e.2 with
      misses := e.2.misses.map fun (m : Miss) => { m with reqs := m.reqs.map miss }
      queue := e.2.queue.map fun x => (x.1, miss x.2)
      port := e.2.port.map fun x => (x.1, miss x.2) })
    cores := s.cores.map fun (e : Nat × Core) => (e.1, { e.2 with
      watches := Vector.ofFn fun j => let w := e.2.watches[j]; { w with path := w.path.map (held (e.1 * 4 + j.val)) } }) }
/-- `dawnSwap`: the day and night sides of pair `b` of partition `a` exchange at the armed time (R338, R339). -/
def execDawnSwap (s : State) : Host.Outcome State Fault Refusal :=
  .next (match (s.pair? s.opnd.a s.opnd.b).bind (·.flip) with
    | none => s
    | some f =>
      if s.bell < f.t then s
      else
        let s := (s.freeze s.opnd.a s.opnd.b).onPair s.opnd.a s.opnd.b fun r => { r with day := r.night, night := r.day, flip := none }
        if f.seq = 0 then s
        else s.onChain s.opnd.a f.chain fun c => c.setEntry f.seq 0 fun e =>
          if e.st = .running then { e with st := .worked, result := BitVec.ofNat 64 f.t } else e)

/-! ## SNAP (R340) -/

/-- The object ids of a SNAP, or how it ends. -/
def State.snapIds (s : State) (c : Chain) (e : ChEntry) : Except (Nat × Word) (List Word) × State :=
  let n := bits (e.word 4) 15 0
  let stride := bits (e.word 4) 47 32
  match s.engFetch c.part c.eng false (e.word 2).toNat (8 * n) with
  | (.error x, s) => (.error x, s)
  | (.ok l, s) =>
    let ids := (List.range n).map fun i => BitVec.ofNat 64 (leNat ((l.drop (8 * i)).take 8))
    let ok := fun (o : Word) => oidOk o && s.reaches c.part (oidBoard o) &&
      (match s.typeOf c.part (oidType o) with
        | some t => 64 + t.slots * t.size ≤ stride
        | none => false)
    (if ids.all ok then .ok ids else .error (3, 0), s)
/-- `entrySnap` (R340): the list is checked and the hold is armed. -/
def execEntrySnap (s : State) : Host.Outcome State Fault Refusal :=
  .next (match s.chainAt s.opnd.a with
    | none => s
    | some c => match c.entries[s.opnd.b]? with
      | none => s
      | some e =>
        if e.kind ≠ 7 ∨ !s.mayStart c e then s
        else match s.snapIds c e with
          | (.error x, t) => if x.1 = waitCode then s else t.worked c e (x.1, x.2, 0)
          | (.ok ids, s) =>
            let (t, late) := s.armTime (e.word 5)
            let n : Snap := ⟨c.part, c.eng, c.header, e.seq, ids, e.word 3, bits (e.word 4) 47 32, t, false, []⟩
            { s with snaps := s.snaps ++ [n] }.onChain c.part c.header fun c => c.setEntry e.seq e.member fun e =>
              { e with st := .running, t := t, late := late })
/-- `snapHold`: the SNAP that `a` numbers begins its hold at its time, whether its partition runs or not (R340, R383, R387). -/
def execSnapHold (s : State) : Host.Outcome State Fault Refusal :=
  .next { s with snaps := s.snaps.zipIdx.map fun e =>
    if e.2 = s.opnd.a ∧ e.1.t ≤ s.bell then { e.1 with held := true } else e.1 }
/-- A partition that runs, or has stopped. -/
def State.stays (s : State) (p : Nat) : Bool :=
  match s.part? p with
  | some q => !(q.run = .leaving || q.run = .switched)
  | none => false
/-- A wake task of a SNAP's set is running (R340). -/
def State.wakeRunning (s : State) (n : Snap) : Bool :=
  n.ids.any fun o => (s.coreAt (oidCore o)).slots.any fun e => match e.2 with
    | .running t => t.kind = .wake && t.oid = o
    | _ => false
/-- One record of a SNAP is copied, unless it has an uncorrectable error (R331, R340). -/
def Snap.copy (n : Snap) (night : Bool) (s : State) (x : Word × Nat) : EngRun :=
  let size := match s.typeOf n.part (oidType x.1) with
    | some t => 64 + t.slots * t.size
    | none => 64
  let a := storeAddr (oidBoard x.1) (oidOff x.1)
  if s.errorIn a size then { s := s, code := 21, addr := BitVec.ofNat 64 (a + s.firstError a size) }
  else ({ s := s } : EngRun).write n.part n.eng night (n.dest.toNat + x.2 * n.stride) (s.homeBytes a size)
/-- A SNAP's hold ends: the deposits that it deferred are applied in arrival order, but for those whose object another SNAP holds, which
defers them, before those that have come since it began (R340). -/
def State.endHold (s : State) (n : Snap) : State :=
  let s := { s with snaps := s.snaps.erase n }
  let hand := fun (x : Snap) => n.deferred.filter fun m => s.holds x m && !x.deferred.contains m
  let s' := { s with snaps := s.snaps.map fun (x : Snap) => { x with deferred := hand x ++ x.deferred } }
  s'.each (n.deferred.filter fun m => !s.holding m.part (m.word 1)) State.applyDeposit
/-- `snapRelease`: once every wake task of the set has retired, the records are copied, the deferred deposits are applied,
and dispatch resumes (R340); in a stopped partition too, but not in one that a gang switch takes away (R383, R387). -/
def execSnapRelease (s : State) : Host.Outcome State Fault Refusal :=
  .next (match s.snaps[s.opnd.a]? with
    | none => s
    | some n =>
      if !n.held || !s.stays n.part || s.wakeRunning n || s.windowDue n.part then s
      else
        let night := match s.chain? n.part n.chain with
          | some c => c.entries.any fun e => e.seq = n.seq && e.night
          | none => false
        let r := n.ids.zipIdx.foldl (fun (r : EngRun) x => r.go fun s => n.copy night s x) { s := s }
        s.ran r fun s =>
        (s.endHold n).onChain n.part n.chain fun c => c.setEntry n.seq 0 fun e =>
          { e with st := .worked, code := r.code, result := if r.code = 0 then BitVec.ofNat 64 n.deferred.length else r.addr })

/-! ## Groups and collectives (R145, R341, R342) -/

/-- The members of a group descriptor, or none where it is malformed (R341). -/
def State.groupOf (s : State) (p : Nat) (w : Nat → Word) : Option (Nat × List Nat) :=
  let form := bits (w 0) 1 0
  let all := (List.range 6).foldl (fun v i => v + (w (i + 1)).toNat * 2 ^ (64 * i)) 0 + (w 7).toNat * 2 ^ 384
  let boardsOk := fun (l : List Nat) => l.all (s.reaches p) && l.eraseDups.length = l.length && 2 ≤ l.length
  let zeros := fun (i : Nat) => (List.range 7).all fun j => j < i || w j = 0
  if form = 0 then
    let f := fun hi lo => bits (w 1) hi lo
    let (r0, nr, c0, nc, rs, cs) := (f 4 0, f 10 5, f 15 11, f 21 16, f 26 22, f 31 27)
    let cells := (List.range nr).flatMap fun i => (List.range nc).map fun j => (r0 + i * rs, c0 + j * cs)
    let l := cells.map fun x => x.2 / 16 * 512 + x.1 * 16 + x.2 % 16
    if bits (w 0) 63 2 = 0 && f 63 32 = 0 && zeros 2 && 1 ≤ nr && nr ≤ 32 && 1 ≤ nc && nc ≤ 32 && rs ≠ 0 && cs ≠ 0
        && cells.all (fun x => x.1 < 32 && x.2 < 32) && boardsOk l then some (0, l) else none
  else if form = 1 then
    let n := bits (w 0) 15 8
    let l := (List.range n).map fun i => all / 2 ^ (10 * i) % 1024
    if bits (w 0) 7 2 = 0 && bits (w 0) 63 16 = 0 && 2 ≤ n && n ≤ 40 && (all % 2 ^ 384) / 2 ^ (10 * n) = 0 && boardsOk l then
      some (1, l) else none
  else if form = 2 then
    let l := (List.range 32).filter (w 1).getLsbD
    if bits (w 0) 63 2 = 0 && bits (w 1) 63 32 = 0 && zeros 2 && 2 ≤ l.length then some (2, l) else none
  else none
/-- A collective that a group has not finished. -/
def State.groupBusy (s : State) (p g : Nat) : Bool := s.chains.any fun c => c.part = p && c.group = some g
/-- `grp` (R145, R341): the chain's header is initialised. -/
def State.grpOp (s : State) (k : Nat) (d : Word) : State :=
  let w := s.watch k
  let a := w.latch .msA
  if a.toNat % 64 ≠ 0 then s.msDone k 0 3
  else match s.unitLoad k a.toNat 64 with
    | .error e => s.msFault k e
    | .ok (l, s) =>
      let word := fun i => BitVec.ofNat 64 (leNat ((l.drop (8 * i)).take 8))
      match s.groupOf w.part word with
      | none => s.msDone k 0 3
      | some (form, ms) =>
        if 16 ≤ d.toNat ∨ (word 7).toNat % 64 ≠ 0 then s.msDone k 0 3
        else if s.groupBusy w.part d.toNat then s.msDone k 0 2
        else
          let head := leBytes 24 0 ++ leBytes 8 (2 ^ 16) ++ leBytes 32 0
          let (c, s') := s.engPut w.part (boardOf (k / 4)) false (word 7).toNat head
          if c = waitCode then s.msFault k (waitCause, 0)
          else if c ≠ 0 then s.msDone k 0 3
          else (s'.onPart w.part fun q => { q with groups := Tbl.put none q.groups d.toNat (some ⟨word 7, form, ms⟩) }).msDone k d 0
/-- The rank of a board in a group: in a group of packages, the rank of this package, the lowest that is no peer. -/
def State.rankIn (s : State) (g : Group) (b : Nat) : Option Nat :=
  if g.form = 2 then g.members.findIdx? fun x => !s.fw.peers.contains x else g.members.idxOf? b
/-- The board whose store a member's local window names. -/
def Group.board (g : Group) (r : Nat) : Nat := if g.form = 2 then 1024 else (g.members[r]?).getD 0
/-- The group of a chain. -/
def State.groupFor (s : State) (c : Chain) : Option Group :=
  (s.part? c.part).bind fun q => c.group.bind fun g => q.groups.get none g
/-- The engine that holds an entry: of a group of boards, that of its member's die; of a group of packages, that of the chain (R348). -/
def State.engineOf (s : State) (c : Chain) (e : ChEntry) : Nat :=
  match s.groupFor c with
  | some g => if g.form = 2 then c.eng else 1024 + g.board e.member / 512
  | none => c.eng
/-- `coll` (R145, R342). -/
def State.collOp (s : State) (k : Nat) (d : Word) : State :=
  let w := s.watch k
  let p := w.part
  let b := boardOf (k / 4)
  match (s.part? p).bind fun q => if (w.latch .msA).toNat < 16 then q.groups.get none (w.latch .msA).toNat else none with
  | none => s.msDone k 0 3
  | some g =>
    if s.engWaits p b g.header.toNat || s.engWaits p b d.toNat then s.msFault k (waitCause, 0)
    else
    let s := s.engReach p b false g.header.toNat 64
    match s.rankIn g b, s.engWords p b g.header.toNat with
    | some r, some hw =>
      let s := s.engReach p b false d.toNat 64
      match s.capture p (1024 + b / 512) d r with
      | none => s.msDone k 0 3
      | some e =>
        let c := { s.openChain p (1024 + b / 512) g.header hw with group := some (w.latch .msA).toNat }
        let eng := s.engineOf c e
        let used := (s.chains.map fun c => (c.entries.filter fun e => s.engineOf c e = eng).length).sum
        if 64 ≤ used then s.msDone k 0 2
        else
          let seq := c.done + (c.entries.filter fun x => x.member = r).length + 1
          let c' := { c with tseq := max c.tseq seq, entries := c.entries ++ [{ e with seq := seq }] }
          let s := { s with chains := (s.chains.filter fun (x : Chain) => !(x.part = p && x.header = g.header)) ++ [c'] }
          ((s.engWord p eng (g.header.toNat + 8) (BitVec.ofNat 64 c'.tseq)).noteEntry k g.header seq).msDone k 0 0
    | _, _ => s.msDone k 0 3
/-- The ranks whose entries this package holds: every member, or of a group of packages its own. -/
def State.ranksHere (s : State) (g : Group) : List Nat :=
  if g.form = 2 then (s.rankIn g 0).toList else List.range g.members.length
/-- The entries of one collective that this package holds, by rank, once each of those members has appended its own. -/
def State.collSet (s : State) (c : Chain) (seq : Nat) : Option (Group × List ChEntry) :=
  match s.groupFor c with
  | none => none
  | some g => ((s.ranksHere g).mapM fun r => c.entries.find? fun e => e.seq = seq && e.member = r).map fun l => (g, l)
/-- `collectiveStart`: the collective of chain `a` whose sequence number is `b` starts, or ends MISMATCH (R342). Of a group of
packages the event says that the peers' entries have come, and where `c` is 1 that one of them differs (log 40). -/
def execCollectiveStart (s : State) : Host.Outcome State Fault Refusal :=
  .next (match s.chainAt s.opnd.a with
    | none => s
    | some c => match s.collSet c s.opnd.b with
      | none => s
      | some (g, es) =>
        let same := !(g.form = 2 && s.opnd.c = 1) && match es with
          | [] => true
          | e :: t => t.all fun x => x.kind = e.kind && x.ty = e.ty && x.op = e.op && x.len = e.len
        if es.all fun e => s.mayStart c e then
          s.onChain c.part c.header fun c => { c with entries := c.entries.map fun e =>
            if e.seq = s.opnd.b then (if same then { e with st := .running } else { e with st := .worked, code := 6 }) else e }
        else s)
/-- `n` free bytes: what a peer's source holds (log 40). -/
def State.anyBytes (s : State) (n : Nat) : List Byte × State :=
  ((List.range n).map fun i => (Config.freeWord (s.free + i / 8) >>> (8 * (i % 8))).setWidth 8, { s with free := s.free + n / 8 + 1 })
/-- What every rank's source holds: this package reads its own members' and receives its peers'. -/
def State.collData (s : State) (c : Chain) (g : Group) (es : List ChEntry) (n : Nat) : Except (Nat × Word) (List (List Byte)) × State :=
  (List.range g.members.length).foldl (fun (acc : Except (Nat × Word) (List (List Byte)) × State) r =>
    match acc.1 with
    | .error _ => acc
    | .ok l => match es.find? (·.member = r) with
      | some e => match acc.2.engFetch c.part (g.board r) false (e.word 2).toNat n with
        | (.ok b, s) => (.ok (l ++ [b]), s)
        | (.error x, s) => (.error x, s)
      | none => let (b, s) := acc.2.anyBytes n; (.ok (l ++ [b]), s)) (.ok [], s)
/-- A collective of one kind runs: what each rank's destination receives, from every rank's source of `size` blocks. -/
def State.runCollective (s : State) (kind : Nat) (size : Nat → Nat) (f : ChEntry → Nat → List (List Byte) → List Byte) : State :=
  match s.chainAt s.opnd.a with
  | none => s
  | some c => match s.collSet c s.opnd.b with
    | none => s
    | some (g, es) =>
      if !es.all fun e => e.kind = kind && e.st = .running then s
      else
        let len := ((es.head?).map (·.len)).getD 0
        match s.collData c g es (size g.members.length * len) with
        | (.error x, t) => if x.1 = waitCode then s else t.each es fun s e => s.worked c e (x.1, x.2, 0)
        | (.ok data, t) =>
          let runs := es.foldl (fun (acc : State × Bool) e =>
            let r := ({ s := acc.1 } : EngRun).write c.part (g.board e.member) e.night (e.word 3).toNat (f e e.member data)
            (r.s.worked c e (r.code, r.addr, 0), acc.2 || r.code = waitCode)) (t, false)
          if runs.2 then s else runs.1
/-- Block `j` of a list of bytes. -/
def block (b j : Nat) (l : List Byte) : List Byte := (l.drop (b * j)).take b
/-- `allgather` (R342). -/
def execAllgather (s : State) : Host.Outcome State Fault Refusal :=
  .next (s.runCollective 0x10 (fun _ => 1) fun _ _ data => data.flatten)
/-- The lanes of the blocks of every rank combined, in ascending rank (R317, R342). -/
def combine (op ty : Nat) : List (List Byte) → List Byte
  | [] => []
  | a :: t =>
    let n := tyBytes ty
    let lane := fun (l : List Byte) i => leNat ((l.drop (n * i)).take n)
    (List.range (a.length / n)).flatMap fun i => leBytes n (t.foldl (fun v l => reconTwo op ty v (lane l i)) (lane a i))
/-- `redscat` (R342). -/
def execRedscat (s : State) : Host.Outcome State Fault Refusal :=
  .next (s.runCollective 0x11 id fun e r data => combine e.op e.ty (data.map (block e.len r)))
/-- `alltoall` (R342). -/
def execAlltoall (s : State) : Host.Outcome State Fault Refusal :=
  .next (s.runCollective 0x12 id fun e r data => (data.map (block e.len r)).flatten)
/-- `entryBarrier` (R342). -/
def execEntryBarrier (s : State) : Host.Outcome State Fault Refusal :=
  .next (s.runCollective 0x13 (fun _ => 0) fun _ _ _ => [])

/-! ## The end of an entry (R326, R329) -/

/-- The status word of an entry that ends. -/
def ChEntry.status (e : ChEntry) : Word :=
  packWord [(e.flags.toNat, 6), (ofB e.late, 1), (0, 9), (e.code, 8), (0, 8), (e.seq, 32)]
/-- `errs` after an entry has ended (R325). -/
def errsAfter (w : Word) (e : ChEntry) : Word :=
  if e.code = 0 then w else packWord [(min (bits w 23 0 + 1) 0xFFFFFF, 24), (e.code, 8), (e.seq, 32)]
/-- `entryEnd`: the first entry of chain `a`, or the first collective of a group's chain, ends (R329). -/
def execEntryEnd (s : State) : Host.Outcome State Fault Refusal :=
  .next (match s.chainAt s.opnd.a with
    | none => s
    | some c =>
      let n := c.done + 1
      let es := c.entries.filter fun e => e.seq = n
      let full := match c.group with
        | none => es ≠ []
        | some _ => (s.collSet c n).isSome || (es ≠ [] && es.all fun e => e.code = 17)
      if !full || s.engWaits c.part c.eng c.header.toNat
          || (es.any fun e => e.st ≠ .worked || s.engWaits c.part c.eng e.addr.toNat) then s
      else
        let s := s.each es fun s e =>
          (s.engWord c.part c.eng (e.addr.toNat + 48) e.result).engWord c.part c.eng (e.addr.toNat + 56) e.status
        let errs := es.foldl errsAfter c.errs
        let rest := { c with done := n, errs := errs, entries := c.entries.filter fun e => e.seq ≠ n }
        let rest := if es.any fun e => e.code ≠ 0 then rest.haltLater else rest
        let s := (s.engWord c.part c.eng (c.header.toNat + 16) errs).engWord c.part c.eng c.header.toNat (BitVec.ofNat 64 n)
        (s.onChain c.part c.header fun _ => rest).pollAll)

end Sys2Proof.Machine
end

