-- ==== Sys2Proof/Machine/Sm.lean ====
section
/-!
DEFINITION. The SM3 digest and the SM2 signature on the standard's recommended 256-bit curve (R409). The specification names the two
standards; their text, which it does not repeat, is followed here (log 21).
-/
namespace Sys2Proof.Machine

/-! ## Bytes, highest first -/

/-- The number whose bytes are given, highest first. -/
def beNat (l : List Byte) : Nat := l.foldl (fun v b => 256 * v + b.toNat) 0
/-- The `n` bytes of a number, highest first. -/
def beBytes (n v : Nat) : List Byte := (List.range n).map fun i => BitVec.ofNat 8 (v / 2 ^ (8 * (n - 1 - i)))

/-! ## SM3 -/

abbrev Sm3Word := BitVec 32

/-- The chaining value, `a` to `h`. -/
structure Sm3 where
  a : Sm3Word
  b : Sm3Word
  c : Sm3Word
  d : Sm3Word
  e : Sm3Word
  f : Sm3Word
  g : Sm3Word
  h : Sm3Word

def Sm3.start : Sm3 :=
  ⟨0x7380166f, 0x4914b2b9, 0x172442d7, 0xda8a0600, 0xa96f30bc, 0x163138aa, 0xe38dee4d, 0xb0fb0e4e⟩
def Sm3.toNat (x : Sm3) : Nat := [x.a, x.b, x.c, x.d, x.e, x.f, x.g, x.h].foldl (fun v w => 2 ^ 32 * v + w.toNat) 0
def Sm3.xor (x y : Sm3) : Sm3 :=
  ⟨x.a ^^^ y.a, x.b ^^^ y.b, x.c ^^^ y.c, x.d ^^^ y.d, x.e ^^^ y.e, x.f ^^^ y.f, x.g ^^^ y.g, x.h ^^^ y.h⟩
/-- The two permutations of a word. -/
def sm3P0 (x : Sm3Word) : Sm3Word := x ^^^ x.rotateLeft 9 ^^^ x.rotateLeft 17
def sm3P1 (x : Sm3Word) : Sm3Word := x ^^^ x.rotateLeft 15 ^^^ x.rotateLeft 23
/-- The message padded to whole blocks of 64 bytes. -/
def sm3Pad (l : List Byte) : List Byte := l ++ 0x80 :: List.replicate ((119 - l.length % 64) % 64) 0 ++ beBytes 8 (8 * l.length)
/-- The 68 words that a block expands to, the last one first. -/
def sm3Expand (block : List Byte) : List Sm3Word :=
  let first := ((List.range 16).map fun i => BitVec.ofNat 32 (beNat ((block.drop (4 * i)).take 4))).reverse
  (List.range 52).foldl (fun r _ =>
    let w := fun (i : Nat) => r.getD (i - 1) 0
    (sm3P1 (w 16 ^^^ w 9 ^^^ (w 3).rotateLeft 15) ^^^ (w 13).rotateLeft 7 ^^^ w 6) :: r) first
/-- Round `j` of the compression, with its word and that word xored with the fourth after it. -/
def Sm3.round (x : Sm3) (j : Nat) (w w' : Sm3Word) : Sm3 :=
  let early := decide (j < 16)
  let t : Sm3Word := if early then 0x79cc4519 else 0x7a879d8a
  let s1 := (x.a.rotateLeft 12 + x.e + t.rotateLeft (j % 32)).rotateLeft 7
  let ff := if early then x.a ^^^ x.b ^^^ x.c else (x.a &&& x.b) ||| (x.a &&& x.c) ||| (x.b &&& x.c)
  let gg := if early then x.e ^^^ x.f ^^^ x.g else (x.e &&& x.f) ||| (~~~x.e &&& x.g)
  let t1 := ff + x.d + (s1 ^^^ x.a.rotateLeft 12) + w'
  let t2 := gg + x.h + s1 + w
  ⟨t1, x.a, x.b.rotateLeft 9, x.c, sm3P0 t2, x.e, x.f.rotateLeft 19, x.g⟩
def Sm3.compress (x : Sm3) (block : List Byte) : Sm3 :=
  let w := (sm3Expand block).reverse
  ((List.range 64).foldl (fun y j => y.round j (w.getD j 0) (w.getD j 0 ^^^ w.getD (j + 4) 0)) x).xor x
/-- The digest of a message, as a number of 256 bits, its first byte highest. -/
def sm3 (l : List Byte) : BitVec 256 :=
  let m := sm3Pad l
  BitVec.ofNat 256 ((List.range (m.length / 64)).foldl (fun x i => x.compress ((m.drop (64 * i)).take 64)) Sm3.start).toNat

/-! ## SM2 -/

/-- The recommended curve y² = x³ + ax + b over the integers modulo `p`, and its base point, of order `n`. -/
def sm2P : Nat := 0xFFFFFFFEFFFFFFFFFFFFFFFFFFFFFFFFFFFFFFFF00000000FFFFFFFFFFFFFFFF
def sm2A : Nat := sm2P - 3
def sm2B : Nat := 0x28E9FA9E9D9F5E344D5A9E4BCF6509A7F39789F515AB8F92DDBCBD414D940E93
def sm2N : Nat := 0xFFFFFFFEFFFFFFFFFFFFFFFFFFFFFFFF7203DF6B21C6052B53BBF40939D54123
def sm2G : Nat × Nat :=
  (0x32C4AE2C1F1981195F9904466A39C9948FE30BBFF2660BE1715A4589334C74C7,
   0xBC3736A2F4F6779C59BDCEE36B692153D0A9877CC62A474002DF32E52139F0A0)
/-- `x` to the power `e`, of up to `n` bits, modulo `m`. -/
def powMod (m : Nat) : Nat → Nat → Nat → Nat
  | 0, _, _ => 1
  | n + 1, x, e => if e = 0 then 1 else powMod m n (x * x % m) (e / 2) * (if e % 2 = 1 then x else 1) % m
/-- The inverse modulo a prime of 256 bits. -/
def invMod (m x : Nat) : Nat := powMod m 256 (x % m) (m - 2)
/-- The point on the chord, or tangent, of slope `l` through two points. -/
def sm2Third (l : Nat) (u v : Nat × Nat) : Nat × Nat :=
  let x := (l * l + 2 * sm2P - u.1 - v.1) % sm2P
  (x, (l * (u.1 + sm2P - x) + sm2P - u.2) % sm2P)
/-- The sum of two points; none is the point at infinity. -/
def sm2Add (u v : Option (Nat × Nat)) : Option (Nat × Nat) :=
  match u, v with
  | none, v => v
  | u, none => u
  | some u, some v =>
    if u.1 = v.1 then
      if u.2 = v.2 ∧ u.2 ≠ 0 then some (sm2Third ((3 * u.1 * u.1 + sm2A) * invMod sm2P (2 * u.2) % sm2P) u u) else none
    else some (sm2Third ((v.2 + sm2P - u.2) * invMod sm2P (v.1 + sm2P - u.1) % sm2P) u v)
/-- A multiple of a point, by a number of up to `n` bits. -/
def sm2Mul : Nat → Nat → Option (Nat × Nat) → Option (Nat × Nat)
  | 0, _, _ => none
  | n + 1, k, u => if k = 0 then none else sm2Add (if k % 2 = 1 then u else none) (sm2Mul n (k / 2) (sm2Add u u))
/-- A public key: a point of the curve. -/
def sm2Point (q : Nat × Nat) : Bool :=
  decide (q.1 < sm2P ∧ q.2 < sm2P) && q.2 * q.2 % sm2P = (q.1 * q.1 % sm2P * q.1 + sm2A * q.1 + sm2B) % sm2P
/-- The default identity of a signer, `1234567812345678`. -/
def sm2Signer : List Byte := (List.range 16).map fun i => BitVec.ofNat 8 (0x31 + i % 8)
/-- The digest that is signed: of the signer's identity and key, and the message. -/
def sm2Digest (q : Nat × Nat) (m : List Byte) : Nat :=
  let z := sm3 ([0x00, 0x80] ++ sm2Signer ++ [sm2A, sm2B, sm2G.1, sm2G.2, q.1, q.2].flatMap (beBytes 32))
  (sm3 (beBytes 32 z.toNat ++ m)).toNat
/-- A signature `(r, t)` of a message under a public key is good. -/
def sm2Verify (q : Nat × Nat) (m : List Byte) (sig : Nat × Nat) : Bool :=
  let (r, t) := sig
  let k := (r + t) % sm2N
  decide (0 < r ∧ r < sm2N ∧ 0 < t ∧ t < sm2N ∧ k ≠ 0) && sm2Point q &&
    match sm2Add (sm2Mul 256 t (some sm2G)) (sm2Mul 256 k (some q)) with
    | some u => (sm2Digest q m + u.1) % sm2N = r
    | none => false
/-- The signature of a digest with private key `d` and the number `k`, none where that number gives none. -/
def sm2Try (d e k : Nat) : Option (Nat × Nat) :=
  match sm2Mul 256 k (some sm2G) with
  | none => none
  | some u =>
    let r := (e + u.1) % sm2N
    let t := invMod sm2N (1 + d) * (k + r * (sm2N - d % sm2N)) % sm2N
    if r = 0 ∨ (r + k) % sm2N = 0 ∨ t = 0 then none else some (r, t)
/-- The public key of a private one. -/
def sm2Public (d : Nat) : Nat × Nat := (sm2Mul 256 d (some sm2G)).getD (0, 0)
/-- The bytes of a signature: `r`, then `t`. -/
def sm2Bytes (sig : Nat × Nat) : List Byte := beBytes 32 sig.1 ++ beBytes 32 sig.2

/-! ## The device's checks and signatures (R408 to R410) -/

/-- A record or an extension carries its signature in its last 64 bytes (log 21). -/
def signedBody (l : List Byte) : List Byte := l.take (l.length - 64)
/-- The vendor has signed a record or an extension (R408 to R410). -/
def signatureOk (l : List Byte) : Bool :=
  let sig := l.drop (l.length - 64)
  decide (64 ≤ l.length) && sm2Verify Config.vendorKey (signedBody l) (beNat (sig.take 32), beNat (sig.drop 32))
/-- The signature that the identity key makes of a message, with the first number of a list that gives one (R409, R410). -/
def signatureOf (m : List Byte) (ks : List Nat) : List Byte :=
  let e := sm2Digest (sm2Public Config.identityKey) m
  sm2Bytes ((ks.findSome? (sm2Try Config.identityKey e)).getD (0, 0))

end Sys2Proof.Machine
end

