-- ==== Sys2Proof/Machine/Macros.lean ====
section
/-!
DEFINITION. The `mx` unit and the macros: joining a rod operation, its checks, fetching tensor data, the arithmetic and its
checks, and the end of the operation (R214 to R237).
-/
namespace Sys2Proof.Machine

/-! ## Values (R214, R222, R223) -/

/-- An f8 value in units of 2^−9; none for a NaN (R214). -/
def f8Units (b : Byte) : Option Int :=
  let e := b.toNat / 8 % 16
  let f := b.toNat % 8
  if e = 15 ∧ f = 7 then none
  else
    let m : Int := if e = 0 then f else (8 + f) * 2 ^ (e - 1)
    some (if b.getLsbD 7 then -m else m)
/-- A NaN counts as zero in sums and checksums (R223). -/
def f8Int (b : Byte) : Int := (f8Units b).getD 0
def f8Nan (b : Byte) : Bool := (f8Units b).isNone
/-- A slice sum, in units of 2^−18, rounded to binary32 (R222). -/
def rne32 (p : Int) : Nat := rndElem .w32 23 .rne (ofInt p (-18) false)
def mul32 (a b : Nat) : Nat := vaFloat .mul .w32 23 .rne a 0 b
/-- The steps of R222 after the sum, for one slice of one output. -/
def macStep (acc : Nat) (p : Int) (nan : Bool) (sa sb : Nat) : Nat :=
  addElem .w32 23 .rne acc (if nan then 0x7FC00000 else mul32 (rne32 p) (mul32 sa sb))
def dotInt (a b : List Byte) : Int := ((a.zip b).map fun e => f8Int e.1 * f8Int e.2).sum
/-- 1.0 in binary32. -/
def one32 : Nat := 0x3F800000

/-! ## Macros and rods (R215, R216) -/

def Tile.fresh : Tile := ⟨.empty, [], [], [], 0, 0, []⟩
def Mac.tile (m : Mac) (i : Nat) : Tile := m.tiles.get Tile.fresh i
def Mac.setTile (m : Mac) (i : Nat) (t : Tile) : Mac := { m with tiles := Tbl.put Tile.fresh m.tiles i t }
/-- A slot is left EMPTY; its spares stay as they are mapped (R225, R227). -/
def Mac.clearTile (m : Mac) (i : Nat) : Mac := m.setTile i { Tile.fresh with remap := (m.tile i).remap }
def Mac.accAt (m : Mac) (row col : Nat) : Nat := m.acc.get 0 (64 * row + col)
def Mac.setAcc (m : Mac) (row col v : Nat) : Mac := { m with acc := m.acc.put 0 (64 * row + col) v }
def Mac.count (m : Mac) (i : Nat) : Mac := { m with counts := m.counts.setIfInBounds i ((m.counts[i]?).getD 0 + 1) }
def State.onMac (s : State) (c : Nat) (f : Mac → Mac) : State := s.onCore c fun v => { v with mac := f v.mac }
def State.mac (s : State) (c : Nat) : Mac := (s.coreAt c).mac
def tileFill : TileFmt → Nat
  | .sp48 => 2
  | .sp28 => 4
  | _ => 1

/-! ## Operands (R230 to R236) -/

/-- A rows operand: first row and count; none where it is malformed. -/
def rowsOf (w : Word) : Option (Nat × Nat) :=
  let r := bits w 4 0
  let n := bits w 10 5
  if bits w 63 11 = 0 ∧ 1 ≤ n ∧ n ≤ 32 ∧ r + n ≤ 32 then some (r, n) else none
/-- A slots operand: first slot, slots, batch; none where it is malformed (R234, R235). -/
def slotsOf (w : Word) (batch : Bool) : Option (Nat × Nat × Nat) :=
  let s0 := bits w 3 0
  let ns := bits w 8 4
  let nb := bits w 12 9
  if bits w 63 13 = 0 ∧ 1 ≤ ns ∧ ns ≤ 16 ∧ s0 + ns ≤ 16 ∧ (if batch then 1 ≤ nb ∧ nb ≤ 8 else nb = 0) then some (s0, ns, nb)
  else none
/-- The operands that must agree in every core (R230). -/
def MxTrig.wide (t : MxTrig) : List Word :=
  match t.op with
  | .mmul => [t.b]
  | .rowld | .mvset => [t.a, t.b, t.c, t.d]
  | _ => []
def namesTensor : MxOp → Bool
  | .rowld | .wld | .mvset | .mmv => true
  | _ => false
/-- Operands that break their limits (R218, check 3). -/
def MxTrig.malformed (t : MxTrig) (h : Header) : Bool :=
  match t.op with
  | .mmul => (rowsOf t.b).isNone || 16 ≤ t.d.toNat
  | .rowld => (rowsOf t.d).isNone || t.c.toNat % 128 ≠ 0
  | .wld => 16 ≤ t.d.toNat || t.b.toNat % (128 * h.fill) ≠ 0 || t.c.toNat % 64 ≠ 0
  | .mvset => (slotsOf t.d true).isNone || t.c.toNat % 128 ≠ 0
  | .mmv => (slotsOf t.d false).isNone || t.c = 0 || 256 < t.c.toNat
  | .aread => 8 < t.a.toNat || 32 ≤ t.d.toNat
  | .aclr => 2 ^ 32 ≤ t.d.toNat
  | .mchk => 256 ≤ t.d.toNat || !(t.d.toNat ≤ 4 || (16 ≤ t.d.toNat && t.d.toNat < 32))
/-- Slots of one `mvset` that follow one another (R235). -/
def Mac.vecRun (m : Mac) (s0 ns : Nat) : Bool :=
  (List.range ns).all fun i =>
    (m.tile (s0 + i)).fmt = .vec && (m.tile (s0 + i)).setId = (m.tile s0).setId
      && (m.tile (s0 + i)).kbase = (m.tile s0).kbase + 1024 * i
/-- Formats an operation does not accept (R218, check 4); for `mmv` also VEC slots that no one `mvset` filled, or that do not follow one
another (R235; log 62). -/
def MxTrig.misfit (t : MxTrig) (h : Header) (m : Mac) : Bool :=
  match t.op with
  | .mmul => match (m.tile t.d.toNat).fmt with
    | .dense | .sp48 | .sp28 => false
    | _ => true
  | .rowld | .mvset => h.fmt ≠ 0
  | .wld => !(h.fmt = 0 || h.fmt = 4 || h.fmt = 5) || 1 < h.scalelay
  | .mmv => h.fmt ≠ 0 || (match slotsOf t.d false with
    | some (s0, ns, _) => !m.vecRun s0 ns
    | none => false)
  | _ => false

/-! ## Fetching (R227, R230) -/

/-- What a fetch yields: a value or the record of a fault, and the state. -/
abbrev Got (α : Type) := Except (Nat × Word) α × State
/-- Fetch for every item of a list, until one faults. -/
def gather {ι α : Type} (f : State → ι → Got α) : State → List ι → Got (List α)
  | s, [] => (.ok [], s)
  | s, i :: t =>
    match f s i with
    | (.error e, s) => (.error e, s)
    | (.ok v, s) => match gather f s t with
      | (.error e, s) => (.error e, s)
      | (.ok l, s) => (.ok (v :: l), s)
/-- The stored F8 value (k, n) of a tensor, read by watch `w`: +0 beyond its extent. -/
def State.fetchF8 (s : State) (w : Nat) (h : Header) (n : Nat) (k : Nat) : Got Byte :=
  if h.dim h.kdim ≤ k ∨ h.rows ≤ n then (.ok 0, s)
  else
    let p := h.bit (h.index k n)
    let (va, len) := spanOf p 8
    match s.unitLoad w va len true with
    | .error e => (.error e, s)
    | .ok (l, s) => (.ok (BitVec.ofNat 8 (takeBits p 8 l)), s)
/-- The scale that covers logical (k, n): 1.0 beyond the extent. -/
def State.fetchScale (s : State) (w : Nat) (h : Header) (k n : Nat) : Got Nat :=
  if h.ksize ≤ k ∨ h.rows ≤ n then (.ok one32, s)
  else match h.scaleAddr k n with
    | none => (.ok one32, s)
    | some a => match s.unitLoad w a 4 with
      | .error e => (.error e, s)
      | .ok (l, s) => (.ok (leNat l), s)
/-- A piece of data and its scale, paired by the core's sequence number (R227): `len` stored values of row `n` from stored
`k` on, and the scale that covers logical `kl`. -/
def State.piece (s : State) (c w : Nat) (h : Header) (op8 n k len kl : Nat) : Got (List Byte × Nat) :=
  let q := (s.mac c).seq
  let lost := (s.mac c).lost.contains q
  let s := s.onMac c fun m => { m with seq := (q + 1) % 2 ^ 16, lost := m.lost.erase q }
  if lost then (.error (0xD, packWord [(q, 16), (q + 1, 16), (op8, 8)]), s.onMac c fun m => m.count 4)
  else match gather (fun s k => s.fetchF8 w h n k) s ((List.range len).map (k + ·)) with
    | (.error e, s) => (.error e, s)
    | (.ok l, s) => match s.fetchScale w h kl n with
      | (.error e, s) => (.error e, s)
      | (.ok v, s) => (.ok (l, v), s)
/-- The mask of group `g` of row `n`; none beyond the extent (R229). -/
def State.fetchMask (s : State) (w : Nat) (h : Header) (n g : Nat) : Got (Option Byte) :=
  if h.ksize ≤ 8 * g ∨ h.rows ≤ n then (.ok none, s)
  else match s.unitLoad w (h.maskAddr g n) 1 with
    | .error e => (.error e, s)
    | .ok (l, s) => (.ok (l.head?), s)
/-- The kept positions of a mask, in ascending order (R228). -/
def kept (m : Byte) : List Nat := (List.range 8).filter m.getLsbD

/-! ## The product check (R224 to R226) -/

/-- The errors that show in the next check of a slot: the oldest of each path. -/
def Mac.showing (m : Mac) (slot : Nat) : List ColErr :=
  (m.errs.filter (·.slot = slot)).foldl (fun l e => if l.any (·.path = e.path) then l else l ++ [e]) []
/-- One row and slice on the column paths of a slot: its sums, compared with the checksum, evaluated once more where they
disagree, and remapped where that may mend it. The outcome is the sums to go on with, or how many paths differed. -/
def Mac.verify (m : Mac) (slot : Nat) (P : List Int) (sumC : Int) : Except Nat (List Int × Bool) × Mac :=
  let tile := m.tile slot
  let errs := m.showing slot
  let m := { m.count 0 with errs := errs.foldl List.erase m.errs }
  let add := fun (f : ColErr → Int) => P.zipIdx.map fun e => e.1 + ((errs.filter (·.path = e.2)).map f).sum
  let P1 := add ColErr.first
  if P1.sum = sumC then (.ok (P1, false), m)
  else
    let m := m.count 1
    let P2 := add ColErr.second
    let diff := (List.range P.length).filter fun j => P1[j]? ≠ P2[j]?
    let free := 2 - tile.remap.length
    let fault := fun (m : Mac) => (Except.error (min diff.length 7), m.count 3)
    if 1 ≤ diff.length ∧ diff.length ≤ 2 ∧ diff.length ≤ free then
      let m := m.setTile slot { tile with remap := tile.remap ++ diff }
      let P3 := P2.zipIdx.map fun e => if diff.contains e.2 then (P[e.2]?).getD 0 else e.1
      if P3.sum = sumC then (.ok (P3, true), m.count 2) else fault m
    else fault m
/-- One output row of a core on its way through its slices: the macro, the outputs, whether a retry mended a slice, and the
fault that stopped it as slice and differing paths. -/
structure RowRun where
  mac : Mac
  vals : List Nat
  retried : Bool
  fault : Option (Nat × Nat)
/-- One slice of a row (R222 to R225): its slot, its sums and checksum, and for every output whether a NaN marks it and its
two scales. -/
def RowRun.slice (r : RowRun) (slot t : Nat) (P : List Int) (sumC : Int) (marks : List (Bool × Nat × Nat)) : RowRun :=
  if r.fault.isSome then r
  else match r.mac.verify slot P sumC with
    | (.error n, m) => { r with mac := m, fault := some (t, n) }
    | (.ok (P, again), m) =>
      { mac := m, retried := r.retried || again, fault := none,
        vals := (r.vals.zip (P.zip marks)).map fun e => macStep e.1 e.2.1 e.2.2.1 e.2.2.2.1 e.2.2.2.2 }

/-! ## The operations, core by core -/

/-- What one core reports: status, fault, and the value of `mx.r` where it is not the status. -/
def MxTrig.out (t : MxTrig) (st : Nat) (fault : Option (Nat × Word) := none) : RodOut :=
  ⟨t, BitVec.ofNat 64 st, st, fault, []⟩
/-- The watch whose accesses a trigger makes. -/
def MxTrig.key (t : MxTrig) : Nat := t.core * 4 + t.wid
/-- A word with an uncorrectable error stops the operation in its core; the address recorded is not given (R226, log 4). -/
def State.badWord (s : State) (c : Nat) (l : List Nat) : Option (Word × State) :=
  if (s.mac c).bad.any l.contains then some s.anyWord else none
/-- `mmul` in one core (R233). -/
def State.mmulCore (s : State) (rod : Nat) (t : MxTrig) (row0 cnt : Nat) : RodOut × State :=
  let c := t.core
  let slot := t.d.toNat % 16
  let R := s.rodAt rod
  let f := tileFill ((s.mac c).tile slot).fmt
  let rows := (List.range (cnt / f)).map fun i => row0 + f * i
  match s.badWord c (slot :: rows.map (16 + ·)) with
  | some (v, s) => (t.out 0 (some (0x18, v)), s)
  | none =>
    let step := fun (acc : Mac × Bool × Option (Nat × Word)) (i : Nat) =>
      let r := (List.range f).foldl (fun (r : RowRun) x =>
        let tile := r.mac.tile slot
        let a := (List.range 128).map fun k => R.rows.get 0 ((i + x) * 128 + k)
        let col := fun j => (List.range 128).map fun k => tile.w.get 0 ((128 * x + k) * 64 + j)
        let cols := (List.range 64).map col
        let P := cols.map (dotInt a)
        let check := ((List.range 128).map fun k => (cols.map fun l => f8Int ((l[k]?).getD 0)).sum)
        let sumC := ((a.map f8Int).zip check).map (fun e => e.1 * e.2)
        let anan := a.any f8Nan
        let sa := R.scales.get one32 (i + x)
        let sb := tile.scales.get one32 x
        r.slice slot x P sumC.sum (cols.map fun l => (anan || l.any f8Nan, sa, sb)))
        ⟨acc.1, (List.range 64).map (acc.1.accAt i), acc.2.1, none⟩
      match r.fault with
      | some (x, n) => (r.mac, r.retried, acc.2.2.orElse fun _ =>
          some (0xE, packWord [(slot, 4), (i, 5), (0, 12), (n, 3), (x, 7)]))
      | none => ((r.vals.zipIdx.foldl (fun m e => m.setAcc i e.2 e.1) r.mac), r.retried, acc.2.2)
    let (m, again, fault) := rows.foldl step (s.mac c, false, none)
    (t.out (if again then 5 else 0) fault, s.onMac c fun _ => m)
/-- A weight slot as `wld` fetches it (R231): weights, masks, scales and whether a mask is malformed. -/
def State.wldFetch (s : State) (t : MxTrig) (h : Header) : Got (List (Nat × Byte) × List (Nat × Byte) × List Nat × Bool) :=
  let f := h.fill
  let per := 8 / f
  let k0 := t.b.toNat
  let n0 := t.c.toNat
  let one := fun (s : State) (x : Nat × Nat) =>
    let n := n0 + x.2
    let kl := k0 + 128 * x.1
    match s.piece t.core t.key h 2 n (kl / f) (128 / f) kl with
    | (.error e, s) => (.error e, s)
    | (.ok (l, sc), s) =>
      let at' := fun k => (128 * x.1 + k) * 64 + x.2
      if f = 1 then (.ok ((l.zipIdx.map fun e => (at' e.2, e.1)), ([] : List (Nat × Byte)), sc, false), s)
      else match gather (fun s g => s.fetchMask t.key h n (kl / 8 + g)) s (List.range 16) with
        | (.error e, s) => (.error e, s)
        | (.ok ms, s) =>
          let w := ms.zipIdx.flatMap fun e => match e.1 with
            | none => []
            | some m => ((kept m).zip ((l.drop (e.2 * per)).take per)).map fun p => (at' (8 * e.2 + p.1), p.2)
          let masks := ms.zipIdx.map fun e => ((16 * x.1 + e.2) * 64 + x.2, e.1.getD 0)
          (.ok (w, masks, sc, ms.any fun m => match m with
            | some m => (kept m).length ≠ per
            | none => false), s)
  match gather one s ((List.range f).flatMap fun x => (List.range 64).map fun j => (x, j)) with
  | (.error e, s) => (.error e, s)
  | (.ok l, s) =>
    (.ok (l.flatMap (·.1), l.flatMap (·.2.1),
      (l.zipIdx.filter fun e => e.2 % 64 = 0).map (·.1.2.2.1), l.any (·.2.2.2)), s)
/-- A table of the entries listed, those equal to the default left out. -/
def tblOf {α : Type} [DecidableEq α] (d : α) (l : List (Nat × α)) : Tbl α := l.foldl (fun t e => t.put d e.1 e.2) []
/-- `wld` (R231): a malformed mask in any core ends the operation in all. -/
def State.wldAll (s : State) (l : List (MxTrig × Header)) : List RodOut × State :=
  let fetched := l.foldl (fun (acc : List (MxTrig × Header × Except (Nat × Word) _) × State) e =>
    let (r, s) := acc.2.wldFetch e.1 e.2
    (acc.1 ++ [(e.1, e.2, r)], s)) ([], s)
  let bad := fetched.1.any fun e => match e.2.2 with
    | .ok (_, _, _, b) => b
    | .error _ => false
  if bad then (l.map fun e => e.1.out 7, fetched.2)
  else fetched.1.foldl (fun acc e =>
    let t := e.1
    let slot := t.d.toNat % 16
    match e.2.2 with
    | .error x => (acc.1 ++ [t.out 0 (some x)], acc.2.onMac t.core fun m => m.clearTile slot)
    | .ok (w, masks, sc, _) =>
      let fmt := if e.2.1.fmt = 4 then TileFmt.sp48 else if e.2.1.fmt = 5 then .sp28 else .dense
      (acc.1 ++ [t.out 0], acc.2.onMac t.core fun m => m.setTile slot
        { Tile.fresh with fmt := fmt, w := tblOf 0 w, masks := tblOf 0 masks, scales := tblOf one32 (sc.zipIdx.map fun e => (e.2, e.1)),
                          remap := (m.tile slot).remap })) ([], fetched.2)
/-- A row of the row buffer is written (R232). -/
def State.setRow (s : State) (rod row : Nat) (l : List Byte) (sc : Nat) : State :=
  s.onRod rod fun r =>
    { r with rows := l.zipIdx.foldl (fun t e => t.put 0 (row * 128 + e.2) e.1) r.rows, scales := r.scales.put one32 row sc }
/-- `rowld` in one core (R232). -/
def State.rowldCore (s : State) (rod : Nat) (t : MxTrig) (h : Header) (row0 cnt : Nat) : RodOut × State :=
  let p := posOf t.core
  if cnt ≤ p then (t.out 0, s)
  else match s.piece t.core t.key h 1 (t.b.toNat + p) t.c.toNat 128 t.c.toNat with
    | (.error e, s) => (t.out 0 (some e), s.setRow rod (row0 + p) (List.replicate 128 0) one32)
    | (.ok (l, sc), s) => (t.out 0, s.setRow rod (row0 + p) l sc)
/-- `mvset` (R234): the core at position 0 fetches, every core is written. -/
def State.mvsetAll (s : State) (l : List (MxTrig × Header)) (s0 ns nb : Nat) : List RodOut × State :=
  match l with
  | [] => ([], s)
  | (t, h) :: _ =>
    let (set, s) := s.newTicket
    let k0 := t.c.toNat
    let one : State → Nat × Nat × Nat → Got (List Byte × Nat) := fun s x =>
      let kl := k0 + 1024 * x.1 + 128 * x.2.2
      if nb ≤ x.2.1 then (.ok (List.replicate 128 0, one32), s) else s.piece t.core t.key h 3 (t.b.toNat + x.2.1) kl 128 kl
    let items := (List.range ns).flatMap fun i => (List.range 8).flatMap fun b => (List.range 8).map fun x => (i, b, x)
    match gather one s items with
    | (.error e, s) =>
      (l.zipIdx.map fun x => x.1.1.out 0 (if x.2 = 0 then some e else none),
        s.each l fun s e => s.onMac e.1.core fun m => (List.range ns).foldl (fun m i => m.clearTile (s0 + i)) m)
    | (.ok got, s) =>
      let all := items.zip got
      let tile := fun (i : Nat) =>
        let mine : List ((Nat × Nat × Nat) × (List Byte × Nat)) := all.filter fun e => e.1.1 = i
        { Tile.fresh with
          fmt := .vec, kbase := k0 + 1024 * i, setId := set,
          w := tblOf 0 (mine.flatMap fun (e : (Nat × Nat × Nat) × (List Byte × Nat)) => e.2.1.zipIdx.map fun (v : Byte × Nat) => (e.1.2.1 * 1024 + 128 * e.1.2.2 + v.2, v.1)),
          scales := tblOf one32 (mine.map fun (e : (Nat × Nat × Nat) × (List Byte × Nat)) => (e.1.2.1 * 8 + e.1.2.2, e.2.2)) }
      (l.map fun e => e.1.out 0, s.each l fun s e => s.onMac e.1.core fun m =>
        (List.range ns).foldl (fun m i => m.setTile (s0 + i) { tile i with remap := (m.tile (s0 + i)).remap }) m)
/-- One weight row of `mmv` in one core (R235): its state, retry and fault so far. -/
def State.mmvRow (h : Header) (t : MxTrig) (s0 ns : Nat) (acc : State × Bool × Option (Nat × Word) × Bool) (r : Nat) :
    State × Bool × Option (Nat × Word) × Bool :=
  let (s, again, fault, halted) := acc
  let n := t.b.toNat + r
  if halted ∨ h.rows ≤ n then acc
  else
    let K0 := ((s.mac t.core).tile s0).kbase
    match gather (fun s x => s.piece t.core t.key h 4 n (K0 + 128 * x) 128 (K0 + 128 * x)) s (List.range (8 * ns)) with
    | (.error e, s) => (s, again, fault.orElse fun _ => some e, true)
    | (.ok l, s) =>
      let m := s.mac t.core
      let row := fun b => 4 * b + r / 64
      let run := l.zipIdx.foldl (fun (q : RowRun) e =>
        let slot := s0 + e.2 / 8
        let x := e.2 % 8
        let tile := q.mac.tile slot
        let vec := fun b => (List.range 128).map fun k => tile.w.get 0 (b * 1024 + 128 * x + k)
        let vs := (List.range 8).map vec
        let check := (List.range 128).map fun k => (vs.map fun v => f8Int ((v[k]?).getD 0)).sum
        let sumC := ((e.1.1.map f8Int).zip check).map fun p => p.1 * p.2
        let wnan := e.1.1.any f8Nan
        q.slice slot e.2 (vs.map (dotInt e.1.1)) sumC.sum
          (vs.zipIdx.map fun v => (wnan || v.1.any f8Nan, tile.scales.get one32 (v.2 * 8 + x), e.1.2)))
        ⟨m, (List.range 8).map fun b => m.accAt (row b) (r % 64), again, none⟩
      match run.fault with
      | some (x, d) => (s.onMac t.core fun _ => run.mac, run.retried, fault.orElse fun _ =>
          some (0xE, packWord [(s0 + x / 8, 4), (0, 8), (r, 8), (1, 1), (d, 3), (x, 7)]), false)
      | none => (s.onMac t.core fun _ => run.vals.zipIdx.foldl (fun m e => m.setAcc (row e.2) (r % 64) e.1) run.mac,
          run.retried, fault, false)
/-- `mmv` in one core (R235). -/
def State.mmvCore (s : State) (t : MxTrig) (h : Header) (s0 ns : Nat) : RodOut × State :=
  let nr := t.c.toNat
  let rows := (List.range 8).flatMap fun b => (List.range ((nr + 63) / 64)).map fun i => 16 + 4 * b + i
  match s.badWord t.core ((List.range ns).map (s0 + ·) ++ rows) with
  | some (v, s) => (t.out 0 (some (0x18, v)), s)
  | none =>
    let (s, again, fault, _) := (List.range nr).foldl (State.mmvRow h t s0 ns) (s, false, none, false)
    (t.out (if again then 5 else 0) fault, s)
/-- `aread`, `aclr` and `mchk` in one core (R236). -/
def State.mxLocal (s : State) (t : MxTrig) : RodOut × State :=
  let m := s.mac t.core
  let d := t.d.toNat
  match t.op with
  | .aread =>
    match s.badWord t.core [16 + d] with
    | some (v, s) => (t.out 0 (some (0x18, v)), s)
    | none => ({ t.out 0 with regs := (List.range 8).map fun i =>
        (t.a.toNat + i, join 32 ((List.range 8).map fun e => m.accAt d (8 * i + e))) }, s)
  | .aclr => (t.out 0, s.onMac t.core fun m =>
      { m with acc := m.acc.filter fun e => !d.testBit (e.1 / 64), bad := m.bad.filter fun b => b < 16 || !d.testBit (b - 16) })
  | .mchk =>
    let v := if d < 16 then BitVec.ofNat 64 ((m.counts[d]?).getD 0)
      else
        let r := (m.tile (d - 16)).remap
        packWord [(r.length, 2), (0, 6), ((r[0]?).getD 63, 6), (0, 2), ((r[1]?).getD 63, 6)]
    ({ t.out 0 with val := v }, s)
  | _ => (t.out 0, s)

/-! ## Rod operations (R217 to R221, R237) -/

/-- The triggers of the rod's next operation, by rod position, once every core has joined it. -/
def State.rodNext (s : State) (rod : Nat) : Option (List MxTrig) :=
  (rodCores rod).mapM fun c => (s.rodAt rod).waiting.find? (·.core = c)
/-- The tensor of a trigger. -/
def State.trigTensor (s : State) (t : MxTrig) : Option Header := s.tensor? t.key t.a
/-- The bytes of `n` scales of a tensor that has some, and the least time of a fetch (R237). -/
def scaleBytes (h : Header) (n : Nat) : Nat := if h.scalelay = 0 then 0 else 4 * n
def fetchTime (bytes : Nat) : Nat := 64 + (bytes + 63) / 64
/-- The operation of the triggers `ts`, which agree on `t`: its reports, the state, and its cycles (R218, R237). -/
def State.rodPerform (s : State) (rod : Nat) (t : MxTrig) (ts : List MxTrig) : List RodOut × State × Nat :=
  if ts.any fun u => u.op ≠ t.op || u.wide ≠ t.wide then (ts.map fun u => u.out 6, s, 0)
  else
    let heads := ts.map fun u => (u, if namesTensor u.op then s.trigTensor u else some 0)
    if heads.any (·.2 = none) then
      (heads.map fun e => if e.2 = none then e.1.out 0 (some (0xF, e.1.a)) else e.1.out 3, s, 0)
    else
      let l := heads.map fun e => (e.1, e.2.getD 0)
      let stopAt := fun (st : Nat) => (ts.map fun u => u.out st, s, 0)
      let fmts := (ts.map fun u => ((s.mac u.core).tile (u.d.toNat % 16)).fmt).eraseDups
      if l.any fun e => e.1.malformed e.2 then stopAt 3
      else if l.any (fun e => e.1.misfit e.2 (s.mac e.1.core)) ∨ (t.op = .mmul ∧ fmts.length ≠ 1) then stopAt 7
      else
        let run := fun (f : State → MxTrig × Header → RodOut × State) =>
          l.foldl (fun (acc : List RodOut × State) e => let r := f acc.2 e; (acc.1 ++ [r.1], r.2)) ([], s)
        let (s0, ns, nb) := (slotsOf t.d (t.op = .mvset)).getD (0, 0, 0)
        match t.op with
        | .mmul =>
          let (row0, cnt) := (rowsOf t.b).getD (0, 0)
          let f := tileFill ((fmts.head?).getD .dense)
          if row0 % f ≠ 0 ∨ cnt % f ≠ 0 then stopAt 3
          else let r := run fun s e => s.mmulCore rod e.1 row0 cnt; (r.1, r.2, 8 + 4 * cnt / f)
        | .rowld =>
          let (row0, cnt) := (rowsOf t.d).getD (0, 0)
          let r := run fun s e => s.rowldCore rod e.1 e.2 row0 cnt
          (r.1, r.2, (l.map fun e => fetchTime (128 + scaleBytes e.2 1)).foldl max 0)
        | .wld =>
          let r := s.wldAll l
          let bytes := fun (h : Header) => 8192 + (if h.fill = 1 then 0 else 1024 * h.fill) + scaleBytes h h.fill
          (r.1, r.2, (l.map fun e => fetchTime (bytes e.2)).foldl max 0)
        | .mvset =>
          let r := s.mvsetAll l s0 ns nb
          (r.1, r.2, fetchTime (ns * 1024 * nb + scaleBytes ((l.head?.map Prod.snd).getD 0) (ns * 8 * nb)))
        | .mmv =>
          let r := run fun s e => match slotsOf e.1.d false with
            | some (s0, ns, _) => s.mmvCore e.1 e.2 s0 ns
            | none => (e.1.out 3, s)
          let time := fun (e : MxTrig × Header) => match slotsOf e.1.d false with
            | some (_, ns, _) => 16 + e.1.c.toNat * 1024 * ns / 32
            | none => 0
          (r.1, r.2, (l.map time).foldl max 0)
        | .aread => let r := run fun s e => s.mxLocal e.1; (r.1, r.2, 4)
        | .aclr | .mchk => let r := run fun s e => s.mxLocal e.1; (r.1, r.2, 2)
/-- An `mx` trigger joins its rod's queue in one member (R217). The registers of an `aread` are written at the region's marker
(R236). -/
def State.startMx (s : State) (k : Nat) (o : MxOp) (d : Word) : State :=
  let w := s.watch k
  let (ord, s) := s.takeOrd k
  let (t, s) := s.newTicket
  let a := w.latch .mxA
  let regs : List PLoad := if o = .aread && a.toNat ≤ 8 then
      (List.range 8).map fun i => ⟨ord, .v (Fin.ofNat 16 (a.toNat + i)), 0, 32, false, 0, 1, BitVec.allOnes 32, w.pc, 0⟩ else []
  let s := s.onWatch k fun w => { w with img := { w.img.await t (some .mx) with regs := w.img.regs ++ regs } }
  s.onRod (rodOf (k / 4)) fun r => { r with waiting := r.waiting ++
    [(⟨k / 4, k % 4, t, ord, w.pc, o, a, w.latch .mxB, w.latch .mxC, d⟩ : MxTrig)] }
/-- The registers of a region's `aread` that a report gives; none where it gives no row. -/
def RodOut.rows (o : RodOut) (l : List PLoad) : List PLoad :=
  l.filterMap fun x =>
    if x.ord ≠ o.trig.ord then some x
    else (o.regs.find? fun r => x.reg = .v (Fin.ofNat 16 r.1)).map fun r => { x with raw := r.2, need := 0 }
/-- One core's trigger receives its report (R219, R226, R227, R236). -/
def State.rodReport (s : State) (o : RodOut) : State :=
  let t := o.trig
  s.settleTicket t.key t.ticket fun m =>
    let m := { m with regs := o.rows m.regs }
    match o.fault with
    | some (c, v) => { m with faults := m.faults ++ [⟨t.ord, c, t.pc, v⟩] }
    | none => { m with results := m.results ++ [⟨t.ord, .mx, o.val, o.st, 0, t.pc⟩] }

/-- The reading cores' stamped stores have reached their homes (R220). -/
def State.beforeReads (s : State) (ts : List MxTrig) : State :=
  s.each (ts.filter fun t => namesTensor t.op) fun s t => s.each (List.range 4) fun s i => s.tryWatch (4 * t.core + i)
/-- A store that a reading core issued before its trigger has not reached its home: a stamped one that has been refused, or one that is
held in a memory path (R220). -/
def State.storesAhead (s : State) (ts : List MxTrig) : Bool :=
  let stores := fun (a : HeldAct) => match a with
    | .store .. | .trig (.ls .stt) .. | .trig (.tb .tget) .. => true
    | _ => false
  (ts.filter fun t => namesTensor t.op).any fun t =>
    s.keepq.any (fun q => q.watch / 4 = t.core && decide (q.ticket < t.ticket))
      || (s.coreAt t.core).watches.toList.any fun w => w.path.any fun h => stores h.act && decide (h.ticket < t.ticket)
/-- `rodOpStart`: once all 32 cores of rod `a` have joined its next operation, the barrier passes and it starts (R217, R218).
Its effects are those of rod order; its reports come at its end. It waits where a read of its waits (R399), and for the stores of
its reading cores (R220). -/
def execRodOpStart (s : State) : Host.Outcome State Fault Refusal :=
  .next (match s.rodNext s.opnd.a with
    | none => s
    | some [] => s
    | some (t :: ts) =>
      let all := t :: ts
      let t0 := s
      let s := s.beforeReads all
      if s.storesAhead all then t0 else
      let (outs, s', n) := (s.onRod s.opnd.a fun r => { r with waiting := all.foldl (fun l u => l.erase u) r.waiting }).rodPerform s.opnd.a t all
      if outs.any fun o => match o.fault with | some (c, _) => c = waitCause | none => false then t0
      else s'.onRod s.opnd.a fun r => { r with running := r.running ++ [(⟨s.cycles + 2 + n, outs⟩ : RodRun)] })
/-- `rodOpEnd`: the operation that `b` numbers of rod `a` ends once its cycles have passed (R237). -/
def execRodOpEnd (s : State) : Host.Outcome State Fault Refusal :=
  .next (match (s.rodAt s.opnd.a).running[s.opnd.b]? with
    | none => s
    | some q =>
      if s.cycles < q.ends then s
      else (s.onRod s.opnd.a fun r => { r with running := r.running.eraseIdx s.opnd.b }).each q.outs State.rodReport)

end Sys2Proof.Machine
end

