-- ==== Sys2Proof/Machine/System.lean ====
section
/-!
DEFINITION. The system words: fences and copies, pacing, precision, windows, gangs, the end of a task, traps and their
return, cancelling (R32, R146 to R148, R158 to R166, R194, R199, R290 to R292, R380 to R382, R416).
-/
namespace Sys2Proof.Machine

/-- A parked result of `sy` that a word leaves: its status stands in `sy.r` and `pst` (R378). -/
def State.syResult (s : State) (k : Nat) (v : Nat) : State :=
  let (o, s) := s.takeOrd k
  s.result k ⟨o, .sy, BitVec.ofNat 64 v, v, 0, (s.watch k).pc⟩

/-! ## Ordering (R284, R290 to R292) -/

/-- The links a fence of a scope waits on: the host's at sys, the span ports at dom and sys (R284, R399). -/
def scopeLinks (scope : Nat) : List Nat :=
  if scope = 6 then List.range 12 else if scope = 5 then (List.range 8).map (· + 4) else []
/-- The record of a lost window (R400). -/
def lossRecord (l : Link) (n : Nat) : Word := packWord [(l.lostFirst, 32), (min l.lost 0xFFFF, 16), (n, 4)]
/-- A fence ends with LINKLOSS, and where the partition's attribute is set with the link-loss trap at its marker (R400). -/
def State.linkLoss (s : State) (k ord n : Nat) (pc : Word) : State :=
  let s := s.result k ⟨ord, .sy, 13, 13, 0, pc⟩
  match s.part? (s.watch k).part with
  | some p => if p.linkTrap then s.defer k ⟨ord, 0x15, pc, lossRecord (s.linkAt n) n⟩ else s
  | none => s
/-- What a fence waits for, as far as it can be performed now (R280, R284, R290; log 8): loads, for `acq`, `rel` and `full`; for
`rel`, `full` and `eng` beyond core scope stamped stores, atomics and stores, those behind a link that its scope covers among
them; the links that retrained when it was issued. An `eng` fence at core scope acts at board scope. -/
def State.fenceReady (s : State) (k kind scope : Nat) (waited : List Nat) : Bool × State :=
  let stores := kind = 3 || (kind ≠ 1 && scope ≠ 0)
  let s := if stores then s.settleWatch k else s.performLoads k
  (waited.all (fun n => ((s.linkAt n).retrain).isNone)
    && (kind = 3 || !s.loadsHeld k)
    && (!stores || !(s.keepsLeft k (fun _ => true) || s.atomq.any (·.watch = k) || s.stores.any fun f =>
      f.core = k / 4 && f.bytes.any fun e => (s.linksOf e.1).any (scopeLinks scope).contains)), s)
/-- A fence ends once its wait is over: with OK, or with LINKLOSS where a link that it has waited on, or that has lost a write that
it orders, is down (R290, R400). -/
def State.doFence (s : State) (k ord : Nat) (pc : Word) (kind scope : Nat) (waited : List Nat) : Bool × State :=
  let (ok, s) := s.fenceReady k kind scope waited
  if !ok then (false, s)
  else match (scopeLinks scope).find? fun n => s.linkDown n && (waited.contains n || (kind ≠ 1 && decide (0 < (s.linkAt n).lost))) with
    | some n => (true, s.linkLoss k ord n pc)
    | none => (true, s.result k ⟨ord, .sy, 0, 0, 0, pc⟩)
/-- `fence` (R290): it enters the core's memory path and holds no slot beyond its own. -/
def State.fenceIn (s : State) (k : Nat) (kind scope : Nat) : State :=
  let pc := (s.watch k).pc
  let waited := (scopeLinks scope).filter fun n => ((s.linkAt n).retrain).isSome
  let (ord, s) := s.takeOrd k
  s.enterPath k ord (some .sy) (.fence kind scope waited) fun s => s.doFence k ord pc kind scope waited
def execFence (kind scope : BitVec 3) (m : Bool) (s : State) : Host.Outcome State Fault Refusal :=
  .next (s.plainWord (.fence kind scope m) fun s k => s.fenceIn k kind.toNat scope.toNat)
/-- `isync`: the fetch buffer goes, and the loop buffer but for an active body; the fetches that follow come after every load that the
watch has issued, and those that can be performed are (R416). -/
def execIsync (m : Bool) (s : State) : Host.Outcome State Fault Refusal :=
  .next (s.plainWord (.isync m) fun s k =>
    ((s.performLoads k).onWatch k fun w => { w with syncOrd := w.ord }).onCore (k / 4) fun c =>
      let active := match c.loopTag with
        | some (w, a) => (c.watch w).img.loops.any fun l => l.first = a
        | none => false
      { c with fetch := [], loopBuf := if active then c.loopBuf else [], loopTag := if active then c.loopTag else none })
/-- The board's read-only lines go, once every load of the watch before it has been performed (R291). -/
def State.doRoinv (s : State) (k : Nat) : Bool × State :=
  let s := s.performLoads k
  if s.loadsHeld k then (false, s) else (true, s.onBoard (boardOf (k / 4)) fun b => { b with ro := [] })
/-- `roinv` (R291). -/
def execRoinv (m : Bool) (s : State) : Host.Outcome State Fault Refusal :=
  .next (s.plainWord (.roinv m) fun s k =>
    let (ord, s) := s.takeOrd k
    s.enterPath k ord none .roinv fun s => s.doRoinv k)

/-- A range meets a board-store window (R292). -/
def meetsWindow (a n : Nat) : Bool :=
  let hit := fun lo hi => decide (a < hi && lo < a + n)
  hit 0xFD00000000000000 (0xFD00000000000000 + 2 ^ 34) || hit 0xFE00000000000000 (0xFE00000000000000 + 2 ^ 24)
/-- The pages of a range, in ascending order, as physical address and length, and the first address of the range in the page that
does not translate (R292, R349). -/
def State.wbPages (s : State) (k a e : Nat) : Nat → Nat → List (Nat × Nat) × Option Nat
  | 0, _ => ([], none)
  | n + 1, p =>
    let va := max a (p * 2 ^ 16)
    match s.translate (k / 4) (s.watch k).part va with
    | none => ([], some va)
    | some (pte, size) =>
      let pa := s.paOf (s.watch k).part pte size va false
      if s.badPa pte pa then ([], some va)
      else
        let r := s.wbPages k a e n (p + 1)
        ((pa, min e ((p + 1) * 2 ^ 16) - va) :: r.1, r.2)
/-- The lines of a range of a page: its slices' words are clean, and lines of host memory that the bridge holds are written to the
host (R269, R292, R397). -/
def State.cleanRange (s : State) (r : Nat × Nat) : State :=
  let inside := fun (line : Nat) => decide (r.1 < line * 64 + 64 ∧ line * 64 < r.1 + r.2)
  let s := { s with slices := s.slices.map fun (v : Nat × Slice) =>
    (v.1, { v.2 with tags := v.2.tags.map fun (t : Nat × SliceLine) => if inside t.1 then (t.1, { t.2 with dirty := (0 : BitVec 16) }) else t }) }
  s.each (s.hostOwned.filter inside) fun s l => (s.post (l * 64)).arrived (if s.cutOff (l * 64) then [] else [(l * 64, 0)])
/-- `wb` once it may be made: the core's stores to the range are acknowledged, and no line of it waits for a link (R292). -/
def State.doWb (s : State) (k ord : Nat) (pc : Word) (a n : Nat) : Bool × State :=
  let r := s.wbPages k a (a + n) ((a + n - 1) / 2 ^ 16 + 1 - a / 2 ^ 16) (a / 2 ^ 16)
  let s := s.each r.1 fun s x => s.drainOver (k / 4) x.1 x.2
  let inside := fun (b : Nat) => r.1.any fun x => decide (x.1 ≤ b ∧ b < x.1 + x.2)
  if (s.stores.any fun f => f.core = k / 4 && f.bytes.any fun e => inside e.1)
      || s.hostOwned.any fun l => inside (l * 64) && s.behindRetrain (l * 64) then (false, s)
  else
    let s := s.each r.1 State.cleanRange
    match r.2 with
    | none => (true, s.result k ⟨ord, .sy, 0, 0, 0, pc⟩)
    | some va => (true, s.defer k ⟨ord, 5, pc, BitVec.ofNat 64 va⟩)
/-- `wb` (R292). -/
def State.wbIn (s : State) (k : Nat) (a n : Nat) : State :=
  if n = 0 then s.syResult k 0
  else if 2 ^ 32 < n || meetsWindow a n then s.syResult k 3
  else
    let pc := (s.watch k).pc
    let (ord, s) := s.takeOrd k
    s.enterPath k ord (some .sy) (.wb a n) fun s => s.doWb k ord pc a n
def execWb (a b : XReg) (m : Bool) (s : State) : Host.Outcome State Fault Refusal :=
  .next (s.plainWord (.wb a b m) fun s k => s.wbIn k ((s.watch k).xRead a.val).toNat ((s.watch k).xRead b.val).toNat)

/-! ## Pace, precision and windows -/

/-- `pause`: each member's count holds it after this region's marker; a count of 0 has no effect (R148, R196). -/
def execPause (a : XReg) (n : BitVec 9) (m : Bool) (s : State) : Host.Outcome State Fault Refusal :=
  .next (s.plainWord (.pause a n m) fun s k =>
    s.onWatch k fun w => { w with pauseCnt := min ((w.xRead a.val).toNat + n.toNat) (2 ^ 24) })
/-- The bead count of R158. -/
def beadCount (t : Word) : Nat := if t.toInt < 1 then 1 else if 52 < t.toInt then 52 else t.toNat
/-- `bcs` (R158). -/
def execBcs (a : XReg) (n : BitVec 9) (m : Bool) (s : State) : Host.Outcome State Fault Refusal :=
  .next (s.plainWord (.bcs a n m) fun s k => s.onWatch k fun w => { w with bc := beadCount (w.xRead a.val + n.setWidth 64) })
/-- `rms` (R159). -/
def execRms (mode : BitVec 3) (m : Bool) (s : State) : Host.Outcome State Fault Refusal :=
  .next (s.plainWord (.rms mode m) fun s k => s.onWatch k fun w => w.setMode mode)
/-- `wnd`: a window of `p + 1` pips is pushed; a stack of 16 overflows (R164). -/
def execWnd (p : BitVec 2) (m : Bool) (s : State) : Host.Outcome State Fault Refusal :=
  .next (s.runWord (.wnd p m) {
    act := fun s k =>
      if 16 ≤ (s.watch k).windows.length then .error (0x19, 0)
      else .ok (s.onWatch k fun w => { w with windows := Window.fresh (p.toNat + 1) :: w.windows }) })
/-- `wpop`: the top window goes, and with it the loads that would bind in it; the base window stays (R165, R166). -/
def execWpop (m : Bool) (s : State) : Host.Outcome State Fault Refusal :=
  .next (s.runWord (.wpop m) {
    act := fun s k =>
      if (s.watch k).windows.length ≤ 1 then .error (0x19, 2)
      else .ok (s.onWatch k fun w =>
        { w with
          windows := w.windows.tail
          loads := w.loads.filter fun l => match l.reg with
            | .f _ d => d + 1 < w.windows.length
            | _ => true }) })

/-! ## Gangs -/

/-- `glead`: the span's cores are claimed, and the watch parks until its gang forms (R194). -/
def execGlead (c : BitVec 3) (m : Bool) (s : State) : Host.Outcome State Fault Refusal :=
  let n := 2 ^ c.toNat
  .next (s.runWord (.glead c m) {
    act := fun s k =>
      if (s.watch k).gang.isSome then .error (0x14, 2)
      else if posOf (k / 4) % n ≠ 0 then .error (0x14, 1)
      else
        let s := s.each (List.range n) fun s i =>
          s.onCore (rodCore (rodOf (k / 4)) (posOf (k / 4) + i)) fun v => { v with claims := v.claims ++ [k] }
        .ok (s.onWatch k fun w => { w with claim := n })
    flow := fun _ _ => .park .glead })
/-- `gfollow`: the watch parks until a claim of its core forms a gang with it (R194). -/
def execGfollow (m : Bool) (s : State) : Host.Outcome State Fault Refusal :=
  .next (s.runWord (.gfollow m) {
    act := fun s k =>
      if (s.watch k).gang.isSome then .error (0x14, 2)
      else .ok (s.onCore (k / 4) fun c => { c with follows := c.follows ++ [k] })
    flow := fun _ _ => .park .gfollow })
/-- `gend`: every member parks; the gang dissolves at the release (R199). -/
def execGend (m : Bool) (s : State) : Host.Outcome State Fault Refusal :=
  .next (s.runWord (.gend m) {
    act := fun s k => if (s.watch k).gang.isNone then .error (0x14, 3) else .ok s
    flow := fun _ _ => .park .gend })
/-- A member leaves its gang: a follower goes on after its `gfollow`, in its own loops (R199). -/
def Watch.leaveGang (w : Watch) (k : Nat) : Watch :=
  let own := w.gang ≠ some k
  { w with gang := none, gp := 0, gs := 1,
           pc := if own then w.fpc else w.pc,
           img := if own then { w.img with loops := w.floops } else w.img }

/-! ## The end of a task -/

/-- `done`: nothing more is issued; the task retires once its results have landed (R146). -/
def execDone (m : Bool) (s : State) : Host.Outcome State Fault Refusal :=
  .next (s.runWord (.done m) { flow := fun _ _ => .park .done })
/-- `reque`: as `done`, with x1 to x4 at issue as the arguments of the entry that is queued (R147). -/
def execReque (m : Bool) (s : State) : Host.Outcome State Fault Refusal :=
  .next (s.runWord (.reque m) {
    act := fun s k => .ok (s.onWatch k fun w => { w with rargs := Vector.ofFn fun i => w.xRead (i.val + 1) })
    flow := fun _ _ => .park .reque })

/-! ## Traps and returns -/

/-- `trap`: in user mode the handler is entered after the word, once the region's loads have come, with its marker kept for
`tret`; results in flight are drained (R372). In handler mode it is a debug halt of the partition (R380). -/
def execTrap (n : BitVec 9) (m : Bool) (s : State) : Host.Outcome State Fault Refusal :=
  .next (s.runWord (.trap n m) {
    stall := fun s k => !(s.watch k).hm && (s.watch k).loadsOut
    parks := false
    lands := false
    last := fun s ks pc =>
      let s := s.endPasses ks
      let k := (ks.head?).getD 0
      let w := s.watch k
      if w.hm then (s.each ks fun s k => s.onWatch k Watch.landDue).stop w.part 2 n.toNat 0x13 (k / 4)
      else s.trap ks (fun _ => some (0x13, n.setWidth 64)) (fun _ => pc) w.pc m })
/-- `tret`: illegal in user mode; the watch parks until the handler's results have landed (R368, R381). -/
def execTret (m : Bool) (s : State) : Host.Outcome State Fault Refusal :=
  .next (s.runWord (.tret m) {
    act := fun s k => if (s.watch k).hm then .ok s else .error (1, Instr.encoding (.tret m))
    flow := fun _ _ => .park .tret })
/-- `idle`: illegal in user mode; the interrupted task is abandoned once what it issued has drained (R368, R382). -/
def execIdle (m : Bool) (s : State) : Host.Outcome State Fault Refusal :=
  .next (s.runWord (.idle m) {
    act := fun s k =>
      if (s.watch k).hm then .ok s
      else .error (1, Instr.encoding (.idle m))
    flow := fun _ _ => .park .idle })
/-- `cancel`: the level is cancelled at the work slice; its status is a result of `sy` (R32). -/
def execCancel (a : XReg) (l : BitVec 2) (m : Bool) (s : State) : Host.Outcome State Fault Refusal :=
  .next (s.plainWord (.cancel a l m) fun s k =>
    let r := s.cancelLevel (s.watch k).part l.toNat ((s.watch k).xRead a.val)
    r.2.syResult k r.1)

end Sys2Proof.Machine
end

