-- ==== Sys2Proof/Machine/Transport.lean ====
section
/-!
DEFINITION. Transport words and triggers: what a `to`, `t2` or `ti` moves, which unit it starts, the checks before it, and
the operations of `sy` (R51, R56, R65, R104 to R106, R200, R204, R378).
-/
namespace Sys2Proof.Machine

/-- An operation of `sy`: a CSR with a computed number is read at the trigger, or written when the result lands (R378). -/
def State.startSy (s : State) (k : Nat) (o : SyOp) (d : Word) : State :=
  let w := s.watch k
  let n := d.toNat
  let (ord, s) := s.takeOrd k
  let fin := fun (s : State) (v : Word) (st : Nat) => s.result k ⟨ord, .sy, v, st, 0, w.pc⟩
  match (if n < 512 then s.csr? k n else none) with
  | none => fin s 0 3
  | some v => match o with
    | .rd => fin s v 0
    | .wr =>
      if handlerOnly n && !w.hm then fin s 0 23
      else fin (s.onWatch k fun w => { w with img := { w.img with csrs := w.img.csrs ++ [(n, w.latch .syA)] } }) 0 0
/-- An operation of `ms` (R126, R135, R142, R145). -/
def State.startMs (s : State) (k : Nat) (o : MsOp) (d : Word) (xs : Vector Word 4) : State :=
  match o with
  | .dep => s.depOp k d
  | .coll => s.collOp k d
  | .grp => s.grpOp k d
  | .launch => s.launchOp k d
  | .mcast => s.mcastOp k d
  | _ => s.sendOp k o d xs

/-- One transport of a word: what it carries, where to, its guard, and the 32-bit form. -/
structure Trans where
  from' : Carry
  dst : Dst
  guard : Guard := Guard.always
  wide : Bool := false
deriving DecidableEq, Repr

/-- Whether a trigger takes place in a member: for `vx`, in all members if the guard holds in any (R65). -/
def State.fires (s : State) (k : Nat) (t : Trans) : Bool :=
  match t.dst with
  | .trig (.vx _) => s.anyGuard (s.members k) t.guard
  | _ => ((s.watch k).guard t.guard).getLsbD 0
/-- The tensor that an element's trigger or a `tget` names, as it stands (R243, R258). -/
def State.trigHeader (s : State) (k : Nat) (o : UOp) (d : Word) : Option Header :=
  match o with
  | .ls .ldt | .ls .stt => s.tensor? k ((s.watch k).latch .lsA)
  | .tb .tget => s.tensor? k d
  | _ => none
/-- The store that a trigger makes: its form, its address and the number of its bytes (R243, R258). -/
def State.trigStore (s : State) (k : Nat) (o : UOp) (d : Word) (h : Option Header) : Option (StoreForm × Nat × Nat) :=
  match o, h with
  | .ls .stt, some h => (s.elementIndex k h d).map fun ix => ((bitStore (h.bit ix) h.width 0 (h.fmt = 3)).1, spanOf (h.bit ix) h.width)
  | .tb .tget, some _ =>
    let a := ((s.watch k).latch .tbA).toNat
    if a % 64 ≠ 0 then none else some ({}, a, 64)
  | _, _ => none
/-- The keeping regions that a trigger stores to; none where its store will fault at the marker. -/
def State.trigRegions (s : State) (k : Nat) (o : UOp) (d : Word) (h : Option Header) : List Nat :=
  match s.trigStore k o d h with
  | none => []
  | some (f, va, n) => match s.storeCheck k f va n with
    | .ok ps => ps.filterMap pieceRegion
    | .error _ => []
/-- The own-slot checks of a trigger in a member whose latches are written: the trap, or the state with the enrolment that it needs
(R190, R204, R257, R295, R311). -/
def State.trigCheck (s : State) (k : Nat) (o : UOp) (d : Datum) : Except (Nat × Word) State :=
  let own := match o with
    | .at _ => none
    | .ls o => s.lsCheck k o d.toScalar
    | _ =>
      let lead := s.watch (((s.members k).head?).getD k)
      (s.watch k).timedCheck o (vxCtl ((lead.vlatch .vxB).setWidth 64))
  match o, own with
  | _, some e => .error e
  | .at o, none => s.atCheck k o d.toScalar
  | o, none =>
    let h := s.trigHeader k o d.toScalar
    match s.writerAll k (s.trigRegions k o d.toScalar h) with
    | some s => .ok s
    | none => .error (0xB, BitVec.ofNat 64 (((s.trigStore k o d.toScalar h).map (·.2.1)).getD 0))
/-- The transports of a word in one member: both sources are read before either write (R56), then the triggers are checked
against the latches that they see (R51). -/
def State.move (s : State) (k : Nat) (ts : List Trans) : Except (Nat × Word) State := do
  let p := fun (t : Trans) => (s.watch k).guard t.guard
  let s' := s.each ts fun s' t => if (p t).getLsbD 0 then s'.touchCarry k t.from' else s'
  let s' ← ts.foldlM (fun s' t => s'.transport k (p t) (s.carry k t.from') t.dst) s'
  ts.foldlM (fun s' t => match t.dst with
    | .trig o => if s.fires k t then s'.trigCheck k o (s.carry k t.from') else .ok s'
    | _ => .ok s') s'
/-- The parked unit of an operation (R61). -/
def parkedUnit (o : UOp) : Option FUnit :=
  match o with
  | .mx _ => some .mx
  | .ls _ => some .ls
  | .at _ => some .at
  | .ms _ => some .ms
  | .ce _ => some .ce
  | .tb _ => some .tb
  | .sy _ => some .sy
  | _ => none
/-- An operation of a parked unit starts in one member; `xs` are x1 to x4 at the trigger, `h` the tensor that it names, `dots` those
that its store has taken. -/
def State.startParked (s : State) (k : Nat) (o : UOp) (d : Datum) (xs : Vector Word 4) (h : Option Header) (dots : List Stamp) : State :=
  match o with
  | .mx o => s.startMx k o d.toScalar
  | .ls o => s.startLs k o d.toScalar h dots
  | .at o => s.startAt k o d.toScalar
  | .ms o => s.startMs k o d.toScalar xs
  | .ce o => s.startCe k o d.toScalar
  | .tb o => s.startTb k o d.toScalar h dots
  | .sy o => s.startSy k o d.toScalar
  | _ => s
/-- The memory that a trigger's request acts on. -/
def State.trigSpan (s : State) (k : Nat) (o : UOp) (d : Datum) : List (Nat × Nat) :=
  match o with
  | .at o => (s.atPlan k o d.toScalar).span (2 ^ bits d.toScalar 2 0)
  | _ => []
/-- A trigger is performed, unless an access that it makes must wait: then nothing has happened (R278, R399). -/
def State.doTrig (s : State) (k : Nat) (o : UOp) (d : Datum) (xs : Vector Word 4) (h : Option Header) (dots : List Stamp) :
    Bool × State :=
  let l := s.trigSpan k o d
  let s := s.tryMeet k l
  let t := s.startParked k o d xs h dots
  let new := (t.watch k).img.faults.drop (s.watch k).img.faults.length
  if s.keepsMeet k l || new.any (·.cause = waitCause) then (false, s) else (true, t)
/-- A trigger of a parked unit enters the core's memory path, in its place of the region's order (R290), with the tensor that it
names as it stands and the dots of its store (R258, R299). -/
def State.trigger (s : State) (k : Nat) (o : UOp) (d : Datum) (xs : Vector Word 4) : State :=
  let n := (s.watch k).ord
  let h := s.trigHeader k o d.toScalar
  let (dots, s) := (s.stampAll k [] (s.trigRegions k o d.toScalar h)).getD ([], s)
  let t := s.enterPath k n (parkedUnit o) (.trig o d xs h dots) fun s => s.doTrig k o d xs h dots
  if (t.watch k).ord = n then (t.takeOrd k).2 else t
/-- A trigger starts its unit: in every member where it takes place, `vx` once over the gang (R65, R208). `s0` is the state
that the word's sources are read from. -/
def State.start (s0 s : State) (ks : List Nat) (o : UOp) (t : Trans) : State :=
  let d := fun (k : Nat) => s0.carry k t.from'
  let each := fun (f : State → Nat → State) => s.each ks fun s k => if s0.fires k t then f s k else s
  match o, parkedUnit o with
  | .vx o, _ => if s0.anyGuard ks t.guard then s.startVx ks o (ks.map fun k => (d k).toVec) else s
  | o, some _ => each fun s k => s.trigger k o (d k) (Vector.ofFn fun i => (s0.watch k).xRead (i.val + 1))
  | o, none => each fun s k => s.onWatch k fun w => w.startTimed o t.wide w.gp (d k)
/-- A word of transports and triggers. A parked unit with eight unfinished triggers of its core holds the word (R99). -/
def State.transports (s : State) (i : Instr) (ts : List Trans) : State :=
  let s0 := (s.pass 1).endPasses (((s.issuer).map s.members).getD [])
  s.runWord i {
    stall := fun s k => ts.any fun t => match t.dst with
      | .trig o => match parkedUnit o with
        | some u => s.fires k t && decide (8 ≤ s.unfinished (k / 4) u)
        | none => false
      | _ => false
    act := fun s k => s.move k ts
    post := fun s ks => s.each ts fun s t => match t.dst with
      | .trig o => s0.start s ks o t
      | _ => s }

/-! ## What the memory path has held (R277 to R291, R399) -/

/-- What the path has held is performed, where nothing keeps it waiting any more. -/
def State.doHeld (s : State) (k : Nat) (h : Held) : Bool × State :=
  match h.act with
  | .load f _ ps old => s.doLoad k h.ord h.pc f ps old
  | .store f _ bytes ps dots => s.doStore k h.ord h.pc f bytes ps dots
  | .trig o d xs t dots => s.doTrig k o d xs t dots
  | .fence kind scope waited => s.doFence k h.ord h.pc kind scope waited
  | .wb a n => s.doWb k h.ord h.pc a n
  | .roinv => s.doRoinv k
/-- A watch's path goes on: each thing that it holds is tried, in order, unless an earlier one that stays holds it, or an `mx` trigger
of another watch comes first. -/
def State.runPath (s : State) (k : Nat) : State :=
  let r := (s.watch k).path.foldl (fun (acc : State × List Held) h =>
    let r := if (acc.2.any fun x => x.act.before h.act) || (h.act.isMx && acc.1.mxAhead k h.ticket) then (false, acc.1) else acc.1.asIssued k h fun s => s.doHeld k h
    (r.2, if r.1 then acc.2 else acc.2 ++ [h])) (s, [])
  if r.2 = (s.watch k).path then r.1 else r.1.onWatch k fun w => { w with path := r.2 }
/-- Every path goes on. -/
def State.runPaths (s : State) : State :=
  s.each (s.cores.flatMap fun (e : Nat × Core) =>
    ((List.range 4).filter fun i => (e.2.watch i).path ≠ []).map fun i => e.1 * 4 + i) State.runPath

/-! ## The words (R104 to R106) -/

/-- A `to` word that triggers an operation. -/
def State.unitWord (s : State) (i : Instr) (o : UOp) (a : Src) (g : Guard) (w : Bool) : State :=
  s.transports i [⟨.src a, .trig o, g, w⟩]

/-- `to` (R104). -/
def execTo (a : Src) (d : Dst) (g : Guard) (m : Bool) (s : State) : Host.Outcome State Fault Refusal :=
  .next (s.transports (.toWord a d g m) [⟨.src a, d, g, false⟩])
/-- `t2` (R105). -/
def execT2 (a : Src) (d : Dst) (b : Src) (e : Dst) (m : Bool) (s : State) : Host.Outcome State Fault Refusal :=
  .next (s.transports (.t2 a d b e m) [⟨.src a, d, Guard.always, false⟩, ⟨.src b, e, Guard.always, false⟩])
/-- `ti` (R106). -/
def execTi (d : Dst) (v : BitVec 12) (m : Bool) (s : State) : Host.Outcome State Fault Refusal :=
  .next (s.transports (.ti d v m) [⟨.imm (v.signExtend 64), d, Guard.always, false⟩])

end Sys2Proof.Machine
end

