-- ==== Sys2Proof/Machine/Tasks.lean ====
section
/-!
DEFINITION. Tasks on their watches: dispatch, readiness, choosing a watch, markers and their release, the end of a task, loads
and results that land, gangs, neighbour reads (R20 to R24, R33, R34, R39, R40, R58 to R63, R113, R118 to R123, R146 to R148,
R194 to R200, R210, R375, R376, R381, R382).
-/
namespace Sys2Proof.Machine

/-! ## The issue point -/

/-- The partition whose rods hold a core; a partition that is switched out holds none (R386). -/
def State.partOf (s : State) (c : Nat) : Option Nat :=
  (s.parts.find? fun e => match e.2 with
    | some p => p.rods.contains (rodOf c) && p.run ≠ .switched
    | none => false).map Prod.fst
/-- No core of the watches is power-gated (R412). -/
def State.awake (s : State) (ks : List Nat) : Bool := ks.all fun k => !(s.coreAt (k / 4)).gated
/-- The watch that `a` and `b` name: its core and its wid. -/
def State.subject (s : State) : Nat := s.opnd.a * 4 + s.opnd.b % 4

/-! ## Placement and dispatch (R20, R23, R39, R40, R119 to R123) -/

/-- The task of a launch's index entry. -/
def State.indexTask (s : State) (p l : Nat) (v : Launch) (kind : EKind) (args : Vector Word 4) : Task :=
  let d : Desc := v.desc
  ⟨kind, d.cls, d.cls, p, l, v.gen, d.handler, args, 0, 0, s.cycles, s.bell, 0⟩
/-- The slot of a core that a cursor or an index task may take: none while a message for the core waits in the overflow area, which
takes it first (R130). -/
def State.slotFor (s : State) (c : Nat) : Option Nat :=
  if (s.boardAt (boardOf c)).overflow.any (·.dcore = c) then none else (s.coreAt c).freeSlot
/-- The first index task that a notify page has admitted and whose core has room takes a slot there (R144). -/
def State.placeAdmitted (s : State) (p : Nat) (q : Part) : State :=
  match q.admitted.find? fun e => (s.slotFor e.1).isSome with
  | none => s
  | some e => match s.slotFor e.1 with
    | none => s
    | some i =>
      (s.onCore e.1 fun c => c.setSlot i (.queued { e.2 with sinceC := s.cycles, sinceB := s.bell })).onPart p fun q =>
        { q with admitted := q.admitted.erase e }
/-- `indexPlacement`: the launch `b` of partition `a` places its next cursor at a core that has room; where `c` is 1, the
partition places the next index that a notify page has admitted (R23, R142, R144). -/
def execIndexPlacement (s : State) : Host.Outcome State Fault Refusal :=
  .next (match s.part? s.opnd.a with
    | none => s
    | some q =>
      if !s.live s.opnd.a then s
      else if s.opnd.c = 1 then s.placeAdmitted s.opnd.a q
      else
      let v := q.launchAt s.opnd.b
      match v.toPlace.find? fun e => (s.slotFor e.1).isSome with
      | none => s
      | some e => match s.slotFor e.1 with
        | none => s
        | some i =>
          let d : Desc := v.desc
          let t := s.indexTask s.opnd.a s.opnd.b v .index #v[d.arg 0, d.arg 1, d.arg 2, d.arg 3]
          (s.onCore e.1 fun c => c.setSlot i (.cursor t e.2.1 e.2.2.1 e.2.2.2)).onLaunch s.opnd.a s.opnd.b fun v =>
            { v with toPlace := v.toPlace.erase e })

/-- An entry that may be dispatched now: a cursor needs a slot for its task (R120), a wake entry no hold on its object
(R340). -/
def State.eligible (s : State) (n : Nat) (v : Slot) : Option Task :=
  match v with
  | .queued t => if t.kind = .wake ∧ s.holding t.part t.oid then none else some t
  | .cursor t _ _ left => if left = 1 ∨ (s.slotFor n).isSome then some t else none
  | _ => none
/-- An entry with the promotions that its wait has brought it (R40). -/
def Task.aged (t : Task) (bell : Nat) : Task :=
  let n := (bell - t.sinceB) / 4096
  { t with steps := max t.steps n, cls := max t.cls (min 3 (t.cls + (n - t.steps))) }
/-- The entry that R40 selects: the highest class, then the greatest age, then the lowest slot. -/
def State.chosen (s : State) (n : Nat) : Option (Nat × Task) :=
  ((s.coreAt n).slots.filterMap fun e => (s.eligible n e.2).map fun t => (e.1, t.aged s.bell)).foldl (fun (b : Option (Nat × Task)) e => match b with
    | none => some e
    | some x =>
      if x.2.cls < e.2.cls || (x.2.cls = e.2.cls && (e.2.sinceC < x.2.sinceC || (e.2.sinceC = x.2.sinceC && e.1 < x.1)))
      then some e else some x) none
/-- 256 free bits. -/
def freeVec (i : Nat) : Vec := Config.freeWord (i + 3) ++ Config.freeWord (i + 2) ++ Config.freeWord (i + 1) ++ Config.freeWord i
/-- A watch takes a task in slot `i`: x1 to x4, `mp`, `oid` and the CSRs of its lineage are loaded; what else the task reads
before it writes is undefined, numbered from `n` on (R20, R122, R157, R161, R178, R212, R368). -/
def Watch.load (w : Watch) (t : Task) (args : Vector Word 4) (mp : Word) (i graph n now : Nat) : Watch :=
  { w.vacate with
    readyAt := some (now + 6)
    x := Vector.ofFn fun r =>
      if r.val = 0 then 0 else if r.val ≤ 4 then Vector.at0 args (r.val - 1) else Config.freeWord (n + 16 + r.val)
    v := Vector.ofFn fun r => freeVec (n + 48 + 4 * r.val)
    g := Vector.ofFn fun r => (Config.freeWord (n + 112 + r.val)).setWidth 32
    fseed := n
    pc := t.handler
    img := { Image.fresh with
      pport := Vector.ofFn fun r => Config.freeWord (n + 120 + r.val)
      pst := Config.freeWord (n + 127) }
    bc := 52
    fst := 0
    sib := Config.freeWord (n + 16)
    tk := ⟨.i8, 0, []⟩
    mp := mp
    oid := if t.kind = .wake then t.oid else 0
    lnch := handleOf t.launch t.gen
    gph := BitVec.ofNat 64 graph
    part := t.part
    launch := t.launch
    slotNo := i
    tsa0 := Config.freeWord (n + 128)
    tsa1 := Config.freeWord (n + 129)
    quota := 16 }
/-- `taskDispatch`: core `a` gives its selected entry to its FREE watch of lowest wid (R119, R122). -/
def execTaskDispatch (s : State) : Host.Outcome State Fault Refusal :=
  let n := s.opnd.a
  let c := s.coreAt n
  let free := (List.range 4).find? fun i => (c.watch i).st = .free && (c.watch i).readyAt.isNone
  .next (match free, s.chosen n with
    | some wid, some (i, t) =>
      if !s.live t.part || c.gated then s
      else
        let k := n * 4 + wid
        let graph := match s.part? t.part with
          | some q => (q.launchAt t.launch).graph
          | none => 0
        let (args, s) := if t.kind = .wake then
            let r := s.takeWake t.oid
            ((#v[r.1, r.2.1, 0, 0] : Vector Word 4), r.2.2)
          else (t.args, s)
        let (args, j, c') := match c.slot i with
          | .cursor u first step left =>
            let args := args.set 3 (args[3] + BitVec.ofNat 64 first)
            if left = 1 then (args, i, c)
            else
              let u := { u with sinceC := s.cycles, sinceB := s.bell, steps := 0 }
              (args, c.freeSlot.getD 0, c.setSlot i (.cursor u (first + step) step (left - 1)))
          | _ => (args, i, c)
        let t := { t with args := args }
        let mp := match t.kind with
          | .index | .notify | .wake => (0 : Word)
          | _ => slotVa n j
        let s := (s.setCore n { c'.setSlot j (.running t) with idle := s.cycles }).onWatch k fun w => w.load t args mp j graph s.free s.cycles
        { s with free := s.free + 130 }
    | _, _ => s)
/-- The six cycles of a dispatch, or the count of a `pause`, have passed. -/
def State.rested (s : State) (k : Nat) : Bool :=
  let w := s.watch k
  s.live w.part && (w.readyAt.any (· ≤ s.cycles) || w.st = .paused && decide (w.pauseEnd ≤ s.cycles))
/-- The watches of a core that have rested are READY, each with the members of its gang. The core's issue point then chooses among them:
ties go in its order (R119, R148). -/
def State.wakeCore (s : State) (c : Nat) : State :=
  let ks := (((List.range 4).map (c * 4 + ·)).filter s.rested).flatMap s.members
  (s.each ks fun s k => s.onWatch k fun w => { w with st := .ready, readyAt := none }).each (ks.map (· / 4)) State.select
/-- `watchReady`: six cycles after its dispatch the watch is READY (R119). -/
def execWatchReady (s : State) : Host.Outcome State Fault Refusal :=
  .next (if (s.watch s.subject).readyAt.isSome && s.rested s.subject then s.wakeCore s.opnd.a else s)
/-- `agingStep`: the entry in slot `b` of core `a` has waited further full 4,096 ticks, and is promoted once for each (R37, R40). -/
def execAgingStep (s : State) : Host.Outcome State Fault Refusal :=
  let age := fun (t : Task) => t.aged s.bell
  .next (s.onCore s.opnd.a fun c => match c.slot s.opnd.b with
    | .queued t => c.setSlot s.opnd.b (.queued (age t))
    | .cursor t f st l => c.setSlot s.opnd.b (.cursor (age t) f st l)
    | _ => c)

/-! ## What lands -/

/-- `resultLanding`: results of a watch that are due have landed; an enabled flag traps before its next word (R58, R180). While a
neighbour read holds that word, its slot has not come (R210). -/
def execResultLanding (s : State) : Host.Outcome State Fault Refusal :=
  let ks := s.members s.subject
  let w := s.watch s.subject
  .next (if ks.head? ≠ some s.subject || !(w.st = .issuing || w.st = .ready) || s.nbrStall ks then s
    else (s.each ks fun s k => s.onWatch k Watch.landDue).landingTrap ks)
/-- `loadDeliver`: the load that `c` numbers of a watch, if its bytes have come, is delivered into its x or v register; one
issued earlier to the same register no longer is (R62). -/
def execLoadDeliver (s : State) : Host.Outcome State Fault Refusal :=
  let k := s.subject
  .next (match (s.watch k).loads[s.opnd.c]? with
    | none => s
    | some l => match l.reg with
      | .f _ _ => s
      | _ =>
        if l.need ≠ 0 then s
        else (s.onWatch k fun w =>
          { w with loads := w.loads.filter fun m => !(m.reg = l.reg && m.ord < l.ord) }).deliver k l)
/-- `fetchFill`: the line that holds the next word of a watch, or the line after it where `c` is 1, arrives in the core's
fetch buffer (R99). -/
def execFetchFill (s : State) : Host.Outcome State Fault Refusal :=
  let k := s.subject
  let w := s.watch k
  .next (match s.fetchHalf k (w.pc.toNat + 64 * (s.opnd.c % 2)) with
    | .ok r => r.2
    | .error _ => s)
/-- `loopPassEnd`: the pass whose last word a watch has issued ends: the count goes down and the body repeats, or the level
ends (R113). Issue of the next word makes it, if it has not taken place. -/
def execLoopPassEnd (s : State) : Host.Outcome State Fault Refusal := .next (s.endPasses (s.members s.subject))

/-! ## Markers (R61 to R63, R34, R375, R376) -/

/-- Every result of a parked watch's region has come. -/
def Watch.settled (w : Watch) : Bool :=
  w.st = .parked && w.img.waits = [] && w.loads.all (·.need = 0) && w.nbr.all (·.done)
/-- Put a parked result behind those of earlier triggers. -/
def byOrd (r : ParkRes) : List ParkRes → List ParkRes
  | [] => [r]
  | x :: t => if r.ord < x.ord then r :: x :: t else x :: byOrd r t
/-- A parked result becomes readable; the flags of an `stt` are ORed into `fst`, and an enabled one traps at the marker
(R61, R258), each `stt` as a deferred fault of its own (log 59). -/
def Watch.takeResult (w : Watch) (r : ParkRes) : Watch :=
  let w := { w with img := { w.img with pport := w.img.pport.setIfInBounds (unitNo r.unit - 7) r.val, pst := BitVec.ofNat 64 r.st } }
  let w := w.orFlags r.fl
  let hit : BitVec 6 := r.fl &&& w.enables
  if hit = 0 then w
  else { w with img := { w.img with faults := w.img.faults ++ [(⟨r.ord, 8, r.pc, fpTval hit 1 8⟩ : Deferred)] } }
/-- The parked results of a region that become readable. A store that faulted has none (R258). -/
def Watch.readable (w : Watch) : List ParkRes := w.img.results.filter fun r => !(r.unit = .ls && w.img.faults.any (·.ord = r.ord))
/-- The parked results of a region, in trigger order. A trigger that ended with a fault has none, and the ports keep what they held
(log 62). -/
def Watch.takeResults (w : Watch) : Watch := (w.readable.foldl (fun l r => byOrd r l) []).foldl Watch.takeResult w
/-- The CSR writes of a region take effect; the flags that land with a write of `fst` are ORed into it (R179, R377, R378). -/
def Watch.takeCsrs (w : Watch) (fl : BitVec 6) : Watch :=
  if w.img.csrs = [] then w else (w.img.csrs.foldl (fun w e => w.writeCsr e.1 e.2) w).orFlags fl
/-- The release of a region in one watch: results land, loads are delivered, parked results become readable, CSR writes take
effect, latches and timed ports become zero (R61 to R63, R236, R378). -/
def State.release1 (s : State) (k : Nat) : State :=
  let timed := (s.watch k).img.flights.map (·.fl)
  let s := (s.onWatch k Watch.landAll).deliverRegion k
  s.onWatch k fun w =>
    let w := w.takeResults.takeCsrs ((timed ++ w.readable.map (·.fl)).foldl (· ||| ·) 0)
    { w with
      nbr := none
      img := { w.img with
        latch := .replicate 28 0, vlatch := .replicate 4 0, tport := .replicate 5 0, vport := .replicate 3 0
        flights := [], results := [], csrs := [], landed := 0 } }
/-- The deferred faults of released watches: each takes its earliest (R376), a gang together (R200); a member without one names the
trigger of the first that has one (log 59). -/
def State.takeAll (s : State) (ks : List Nat) : State :=
  let got := ks.filterMap fun k => ((s.watch k).img.takeFault).map fun r => (k, r.1, r.2)
  match got with
  | [] => s
  | (_, d, _) :: _ =>
    let s := s.each got fun s e => s.onWatch e.1 fun w => { w with img := e.2.2 }
    let own := fun (k : Nat) => (got.find? (·.1 = k)).map fun e => (e.2.1.cause, e.2.1.val)
    let pc := fun (k : Nat) => ((got.find? (·.1 = k)).map fun e => e.2.1.pc).getD d.pc
    s.trap ks own pc (((ks.head?).map fun k => (s.watch k).pc).getD 0) false
/-- The traps of a marker: a landed result's flag first, else the deferred faults; those that are left are due after the
handler returns (R376). -/
def State.trapsAt (s : State) (ks : List Nat) : State :=
  let t := if ks.any fun k => (s.watch k).fpTrap.isSome then s.landingTrap ks else s.takeAll ks
  t.each ks fun t k => if (s.watch k).hm then t else t.onWatch k fun w => { w with faultsDue := w.hm }
/-- Whether a region leaves a trap to be taken. -/
def Watch.faulty (w : Watch) : Bool := w.fpTrap.isSome || !w.img.faults.isEmpty
/-- Released watches are READY, or PAUSED for the count of a `pause` of the region (R148). -/
def State.resumeAll (s : State) (ks : List Nat) : State :=
  let n := (ks.map fun k => (s.watch k).pauseCnt).foldl max 0
  s.each ks fun s k => s.onWatch k fun w =>
    if w.st = .halted then { w with prior := if n = 0 then .ready else .paused, pauseEnd := s.cycles + n, pauseCnt := 0 }
    else if n = 0 then { w with st := .ready }
    else { w with st := .paused, pauseEnd := s.cycles + n, pauseCnt := 0 }
/-- The issue points of the members' cores choose. -/
def State.selectAll (s : State) (ks : List Nat) : State := s.each ks fun s k => s.select (k / 4)
/-- Claims that a watch has made go (R194). -/
def State.dropClaims (s : State) (k : Nat) : State :=
  s.each ((List.range (s.watch k).claim).map fun i => rodCore (rodOf (k / 4)) (posOf (k / 4) + i)) fun s c =>
    s.onCore c fun v => { v with claims := v.claims.filter (· ≠ k) }
/-- No store of a watch is still on its way (R26, R33). -/
def State.storesGone (s : State) (k : Nat) : Bool :=
  (s.watch k).path = [] && !s.stores.any (fun f => f.core = k / 4) && !s.keepsLeft k fun _ => true
/-- What a watch has issued has been carried out: stores, atomics, deposits, rod operations, engine entries (R33, R221, R382). -/
def State.drained (s : State) (k : Nat) : Bool :=
  let w := s.watch k
  w.img.waits = [] && ((w.saved.map (·.waits)).getD []) = [] && s.storesGone k
    && !w.appended.any fun a => s.chains.any fun c => c.part = w.part && c.header = a.1 && c.entries.any (·.seq = a.2)
/-- A task is abandoned: its deferred faults go with it, and its watch is FREE once what it has issued has drained (R33, R376,
R382). -/
def State.leaveTask (s : State) (k : Nat) : State :=
  let s := (s.dropClaims k).settleWatch k
  if s.drained k then s.abandon k
  else (s.onCore (k / 4) fun c => { c with follows := c.follows.filter (· ≠ k) }).onWatch k fun w =>
    { w with st := .parked, after := .idle, hm := false, gang := none, gp := 0, gs := 1, fpTrap := none
             img := { w.img with faults := [] } }
def State.leaveAll (s : State) (ks : List Nat) : State := s.each ks State.leaveTask
/-- A member that stays when others are abandoned: ungrouped, with the gang-break trap of its marker word (R34). -/
def Watch.breakGang (w : Watch) : Watch :=
  { w with gang := none, gp := 0, gs := 1,
           img := { w.img with faults := (⟨0, 0x14, w.markPc, 0⟩ : Deferred) :: w.img.faults } }
/-- A marker, or the marker of a `gend`, is released in every member (R33, R34, R63, R199). -/
def State.releaseAll (s : State) (ks : List Nat) (ends : Bool) : State :=
  let s := s.each ks State.release1
  let gone := ks.filter fun k => (s.watch k).cancelled && !(s.watch k).hm
  let stay := ks.filter fun k => !gone.contains k
  let s := s.leaveAll gone
  let s := if ends then s.each stay fun s k => ((s.onWatch k fun w => w.leaveGang k).resumeAll [k]).trapsAt [k]
    else if gone = [] then (s.resumeAll ks).trapsAt ks
    else s.each stay fun s k => ((s.onWatch k Watch.breakGang).resumeAll [k]).trapsAt [k]
  s.selectAll ks
/-- After a return from the handler: the interrupted region's marker, or the end of the task that a trap held up, is
performed; else what was to land in the slot after the trapped word lands, and issue goes on at `tnext`, after the deferred faults that
are due (R376, R381). -/
def State.goOn (s : State) (ks : List Nat) : State :=
  let w := s.watch ((ks.head?).getD 0)
  let next := if w.savedAfter = .done ∨ w.savedAfter = .reque then some w.savedAfter else if w.marker then some After.marker else none
  match next with
  | some a => s.each ks fun s k => s.onWatch k fun w =>
      { w.leave with st := .parked, after := a, savedAfter := .marker, markPc := w.taddr }
  | none =>
    let s := s.each ks fun s k => s.onWatch k fun u => { u.leave with st := .ready }.landDue
    if w.faultsDue then s.trapsAt ks else s
/-- A member that goes on alone after the `tret` at which others are abandoned takes the gang-break trap of its `tret` first,
and what is due after it (R34, R376). -/
def State.leaveBroken (s : State) (k : Nat) : State :=
  let due := (s.watch k).faultsDue
  let s := s.onWatch k fun w => { w with
    saved := w.saved.map fun m => { m with faults := (⟨0, 0x14, w.markPc, 0⟩ : Deferred) :: m.faults }
    faultsDue := true, gang := none, gp := 0, gs := 1 }
  (s.goOn [k]).onWatch k fun w => if w.hm then { w with faultsDue := due } else w
/-- A `tret` is released: the handler's results have landed and are dropped; a watch that a cancel notice has reached is
abandoned, the others return (R33, R34, R381). -/
def State.releaseTret (s : State) (ks : List Nat) : State :=
  let s := s.each ks State.release1
  if ks.any fun k => (s.watch k).faulty then s.trapsAt ks
  else
    let gone := ks.filter fun k => (s.watch k).abn
    let stay := ks.filter fun k => !gone.contains k
    let s := s.leaveAll gone
    let s := if gone = [] then s.goOn ks
      else s.each stay State.leaveBroken
    s.selectAll ks
/-- `markerRelease`: a parked watch, or gang, whose region's results have all come is released (R63). A cancelled watch that
waits for a gang is abandoned. -/
def execMarkerRelease (s : State) : Host.Outcome State Fault Refusal :=
  let s := s.pollAll
  let k := s.subject
  let ks := s.members k
  let w := s.watch k
  .next (if ks.head? ≠ some k || !s.live w.part || !s.awake ks || !ks.all (fun k => (s.watch k).settled) then s
    else match w.after with
      | .marker => s.releaseAll ks false
      | .gend => s.releaseAll ks true
      | .tret => s.releaseTret ks
      | .glead | .gfollow =>
        if w.cancelled && !w.hm then ((s.release1 k).leaveTask k).selectAll [k] else s
      | _ => s)
/-- `pauseExpiry`: a PAUSED watch whose count has elapsed is READY (R148). -/
def execPauseExpiry (s : State) : Host.Outcome State Fault Refusal :=
  .next (if (s.watch s.subject).st = .paused && s.rested s.subject then s.wakeCore s.opnd.a else s)

/-! ## The end of a task (R21, R146, R147, R382) -/

/-- The slot of a task that executed `reque` becomes a queued entry with new arguments; in a cancelled lineage it is
discarded at once (R33, R147). -/
def State.requeue (s : State) (k : Nat) : State :=
  let w := s.watch k
  let c := k / 4
  match (s.coreAt c).slot w.slotNo with
  | .running t =>
    let s := s.vacate k true
    if w.cancelled || w.abn || s.noticed t.part c t.launch t.gen then
      (s.onCore c fun v => v.setSlot w.slotNo .free).countDown t.part t.launch
    else
      let t := { t with
        kind := if t.kind = .wake then .task else t.kind, oid := 0, cls := t.cls0, args := w.rargs
        sinceC := s.cycles, sinceB := s.bell, steps := 0 }
      s.onCore c fun v => v.setSlot w.slotNo (.queued t)
  | _ => s.vacate k true
/-- `watchFree`: a watch that has issued `done`, `reque` or `idle` and whose results have landed becomes FREE, with every
member of its gang (R146, R147, R382). Faults that the region deferred are taken first; those of a task that has been abandoned are
not (R376). The stores of a task have been performed when its launch counts it (R424; log 65). -/
def execWatchFree (s : State) : Host.Outcome State Fault Refusal :=
  let s := s.pollAll
  let k := s.subject
  let ks := s.members k
  let w := s.watch k
  .next (if ks.head? ≠ some k || !s.live w.part || !ks.all (fun k => (s.watch k).settled)
      || !(w.after = .done || w.after = .reque || w.after = .idle) then s
    else
      let ends := w.after = .done ∨ w.after = .reque
      let s := if ends then s.each ks State.settleWatch else s
      if ends ∧ !ks.all s.storesGone then s
      else
      let s := s.each ks State.release1
      if (ks.any fun k => (s.watch k).faulty) && !(w.after = .idle && !w.hm) then
        let s := s.each ks fun s k => s.onWatch k fun w => { w with savedAfter := w.after, st := .ready }
        (s.trapsAt ks).selectAll ks
      else
        let s := match w.after with
          | .done => s.each ks fun s k => (s.vacate k false).countDown (s.watch k).part (s.watch k).launch
          | .reque => s.each ks State.requeue
          | _ => s.leaveAll ks
        s.selectAll ks)

/-! ## Gangs (R193 to R195) -/

/-- The watch of a span's core that a claim takes: the leader, or the watch that has joined it, the core's first in `gfollow` (R194). -/
def State.recruit (s : State) (k c : Nat) : Option Nat :=
  if c = k / 4 then some k
  else (s.coreAt c).follows.head?.filter fun j =>
    let w := s.watch j
    w.settled && w.after = .gfollow && w.gang.isNone && !(w.cancelled && !w.hm) && w.part = (s.watch k).part
/-- `gangForm`: every core of the span that the watch has claimed holds a `gfollow` watch: the gang forms and is released
(R194, R195). -/
def execGangForm (s : State) : Host.Outcome State Fault Refusal :=
  let k := s.subject
  let w := s.watch k
  let span := (List.range w.claim).map fun i => rodCore (rodOf (k / 4)) (posOf (k / 4) + i)
  let open' := fun (c : Nat) =>
    (s.coreAt c).claims.head? = some k && !(List.range 4).any fun i => ((s.watch (c * 4 + i)).gang).isSome
  let ok := w.settled && w.after = .glead && s.live w.part && !(w.cancelled && !w.hm) && s.awake (span.map (· * 4)) && span.all open'
  .next (if !ok then s
    else match span.mapM (s.recruit k) with
      | none => s
      | some ks =>
        let s := s.dropClaims k
        let s := s.each ks State.release1
        let s := s.each ks fun s j => s.onCore (j / 4) fun c => { c with follows := c.follows.filter (· ≠ j) }
        let lead := s.watch k
        let s := s.each ks.zipIdx fun s e => s.onWatch e.1 fun v =>
          let v := { v with gang := some k, gp := e.2, gs := ks.length, claim := 0 }
          if e.1 = k then v
          else { v with fpc := v.pc, floops := v.img.loops, pc := lead.pc, img := { v.img with loops := lead.img.loops } }
        ((s.resumeAll ks).trapsAt ks).selectAll ks)

/-! ## Neighbour reads (R210) -/

/-- The answer of a neighbour read reaches its flight. -/
def Watch.answer (w : Watch) (v q : Vec) : Watch :=
  let n := ((w.img.flights.zipIdx.filter fun e => e.1.unit = .vx).getLast?).map Prod.snd
  let put := fun (f : Flight × Nat) => if n = some f.2 then { f.1 with vec := v, q := some q } else f.1
  { w with
    nbr := w.nbr.map fun r => { r with done := true }
    img := { w.img with flights := w.img.flights.zipIdx.map put } }
/-- The watch asked is READY or ISSUING and lends the register (R210). -/
def State.lends (s : State) (r : NbrRead) : Bool :=
  let l := s.watch (r.core * 4 + r.wid)
  (l.st = .ready || l.st = .issuing) && l.nlend.getLsbD r.vreg
/-- `nbrServed`: a read is served at the first cycle, of the `nbt` after its trigger, in which the watch asked lends (R210). -/
def execNbrServed (s : State) : Host.Outcome State Fault Refusal :=
  let k := s.subject
  let w := s.watch k
  .next (match w.nbr with
    | none => s
    | some r =>
      if !r.done && s.lends r && decide (s.cycles ≤ r.since + w.nbt.toNat) && s.live w.part then
        s.onWatch k fun w => w.answer ((s.watch (r.core * 4 + r.wid)).vRead r.vreg) (BitVec.allOnes 256)
      else s)
/-- `nbrTimeout`: a read that was not served within `nbt` cycles gives zero and no success (R210). -/
def execNbrTimeout (s : State) : Host.Outcome State Fault Refusal :=
  let k := s.subject
  let w := s.watch k
  .next (match w.nbr with
    | none => s
    | some r =>
      let last := r.since + w.nbt.toNat
      if !r.done && (decide (last < s.cycles) || decide (last = s.cycles) && !s.lends r) && s.live w.part then
        s.onWatch k fun w => w.answer 0 0 else s)

end Sys2Proof.Machine
end

