-- ==== Sys2Proof/Machine/Progress.lean ====
section
/-!
DEFINITION. How work goes on and ends: completions of firmware commands, launches, continuations, phases and jobs, cancel
notices, convergence windows (R26 to R33, R138, R139, R293, R294, R403, R404).
-/
namespace Sys2Proof.Machine

/-! ## Host memory and completions (R349, R395, R403, R404) -/

/-- A host physical address as the device names it (R349). -/
def hostAddr (a : Nat) : Nat := 2 ^ 50 + a % 2 ^ 50
/-- The entries of a ring, none where it is disabled (R395). -/
def ringSize (r : Word) : Option Nat := if 4 ≤ bits r 3 0 ∧ bits r 3 0 ≤ 12 then some (2 ^ bits r 3 0) else none
/-- Host memory lies behind a link that retrains: firmware's accesses to it wait (R399). -/
def State.hostWaits (s : State) : Bool := s.behindRetrain (hostAddr 0)
/-- A completion entry is written to the ring, as a release at sys scope, and an interrupt follows (R404). -/
def State.writeCompletion (s : State) (n cseq : Nat) (c : Completion) : State :=
  let a := hostAddr (bits s.fw.cpb 63 12 * 2 ^ 12 + 32 * ((cseq + 2 ^ 32 - 1) % n))
  let w0 : Word := packWord [(c.status, 16), (0, 16), (cseq, 32)]
  let s := s.hostWrite a (([w0, packWord [(0, 32), (c.cmd, 32)], c.r2, c.r3] : List Word).flatMap fun w => leBytes 8 w.toNat)
  { s with fw := { s.fw with msix := s.fw.msix + 1 } }
/-- Waiting completions are written while firmware runs, the ring has room and host memory can be reached (R399, R404, R406). -/
def State.flush (s : State) : Nat → State
  | 0 => s
  | f + 1 =>
    match ringSize s.fw.cpb, s.fw.waiting with
    | some n, c :: t =>
      if s.fw.fwst ≠ 1 || s.hostWaits || decide (n ≤ (s.fw.fcomp + 2 ^ 32 - s.fw.cph) % 2 ^ 32) then s
      else
        let q := (s.fw.fcomp + 1) % 2 ^ 32
        let s := s.writeCompletion n q c
        let open' := (q + 2 ^ 32 - s.fw.cph) % 2 ^ 32
        let log := s.fw.log ++ [c]
        { s with fw := { s.fw with fcomp := q, waiting := t, log := log.drop (log.length - open') } }.flush f
    | _, _ => s
/-- Firmware completes a command that it has taken (R404). -/
def State.complete (s : State) (cmd status : Nat) (r2 : Word := 0) (r3 : Word := 0) : State :=
  if !s.fw.taken.contains cmd then s
  else
    let s := { s with fw := { s.fw with
      taken := s.fw.taken.erase cmd, waiting := s.fw.waiting ++ [(⟨status, cmd, r2, r3⟩ : Completion)] } }
    s.flush s.fw.waiting.length

/-! ## Launches (R26, R28, R29) -/

/-- `launchComplete`: the launch `b` of partition `a`, whose counter has reached zero, completes (R26, R29). -/
def execLaunchComplete (s : State) : Host.Outcome State Fault Refusal :=
  let p := s.opnd.a
  let l := s.opnd.b
  .next (match s.part? p with
    | none => s
    | some q =>
      let v := q.launchAt l
      if v.used && v.started && v.counter = 0 && s.live p then s.endLaunch p l 257 else s)
/-- The descriptor of the launch that a continuation becomes (R28). -/
def Desc.continuation (d : Desc) : Desc :=
  #v[packWord [(d.cont, 58), (63, 6)], d.arg 0, d.arg 1, d.arg 2, d.arg 3,
     packWord [(1, 32), (2, 2), (d.cls, 2), (0, 1), (d.contCore, 14), (63, 6), (63, 6)], packWord [(0, 58), (63, 6)], 0]
/-- `continuationStart`: the first continuation that waits in partition `a` takes a free entry and starts (R28). -/
def execContinuationStart (s : State) : Host.Outcome State Fault Refusal :=
  let p := s.opnd.a
  .next (match s.part? p with
    | none => s
    | some q => match q.conts, q.freeEntry with
      | c :: t, some l =>
        if !s.live p then s
        else
          let s := (s.onPart p fun q => { q with conts := t }).accept p l c.graph none (Desc.continuation c.desc) false
          (s.onGraph p c.graph fun g => { g with unfinished := g.unfinished - 1 }).tryStart p l
      | _, _ => s)

/-! ## Phases and jobs (R30, R31) -/

/-- A job starts: its budget and its first phase number (R31, R392). -/
def State.startJob (s : State) (p : Nat) (c : Cmd) : State :=
  s.onPart p fun q => { q with
    job := some ⟨c.seq, c.w[1], false⟩, dusk := (c.w[0]).toNat, phase := 0, phaseOpen := false, phaseClosed := none,
    phaseCancelled := false }
/-- A job of a partition ends: its enrolments end with it, its command completes, as does a close that no phase completion
can answer any more, and the next held job starts (R18, R294; log 30). -/
def State.endJob (s : State) (p : Nat) (r2 : Word) : State :=
  match s.part? p with
  | none => s
  | some q => match q.job with
    | none => s
    | some j =>
      let s := s.each q.watches fun s k => s.each (List.range 4) fun s i =>
        let e := (s.watch k).enrol i
        if e.valid then (s.onWatch k fun w => w.setEnrol i Enrol.fresh).retire p e.region e.slot else s
      let s := match q.phaseClosed with
        | some c => s.complete c 26
        | none => s
      let s := (s.onPart p fun q => { q with job := none, phaseOpen := false, phaseClosed := none }).complete j.cmd 0 r2
      match q.jobs with
      | [] => s
      | c :: t =>
        if q.run = .running then (s.onPart p fun q => { q with jobs := t }).startJob p c
        else (s.onPart p fun q => { q with jobs := [] }).each q.jobs fun s c => s.complete c.seq 26
/-- A closed phase has nothing left to end (R30). -/
def State.phaseDone (s : State) (p : Nat) (q : Part) : Bool :=
  q.phaseOpen && q.phaseClosed.isSome && (List.range 64).all (fun g => !(q.graphAt g).used) && q.conts = []
    && !s.chains.any (fun c => c.part = p)
/-- `phaseComplete`: the closed phase of partition `a` completes; where `c` is 1 it is the last of its job, which completes
with it (R30, R31). No command says which phase is the last (log 30). A cancelled job stays so in its next phase (R32). -/
def execPhaseComplete (s : State) : Host.Outcome State Fault Refusal :=
  let p := s.opnd.a
  .next (match s.part? p with
    | none => s
    | some q =>
      if !s.live p || !s.phaseDone p q then s
      else
        let s := s.onPart p fun q =>
          { q with
            phase := (q.phase + 1) % 2 ^ 32, phaseOpen := false, phaseClosed := none
            phaseCancelled := q.job.any (·.cancelled) }
        let s := match q.phaseClosed with
          | some c => s.complete c 0
          | none => s
        match q.job with
        | some j =>
          if s.opnd.c = 1 then
            let v : Word := if j.cancelled then 2 ^ 32 else 1
            (if j.cell = 0 then s else s.deviceAdd p j.cell.toNat v).endJob p v
          else s
        | none => s)

/-! ## Cancel notices (R33) -/

/-- A queued entry of a cancelled lineage is discarded; a wake entry clears its object's pending bit (R33). -/
def State.discard (s : State) (t : Task) (n : Nat) : State :=
  let s := if t.kind = .wake then s.clearPending t.oid else s
  s.each (List.range n) fun s _ => s.countDown t.part t.launch
/-- A message or wake entry that waits for a slot is discarded (R33). -/
def State.discardMsg (s : State) (m : Msg) : State :=
  (if m.kind = 5 then s.clearPending (m.word 1) else s).countDown m.part m.launch
/-- A core acts on a cancel notice (R33). -/
def State.applyNotice (s : State) (p c : Nat) (n : Notice) : State :=
  let hit := fun (q l g : Nat) => q = p && n.entries.contains (l, g)
  let s := s.each (s.coreAt c).slots fun s e => match e.2 with
    | .queued t => if hit t.part t.launch t.gen then (s.onCore c fun v => v.setSlot e.1 .free).discard t 1 else s
    | .cursor t _ _ left => if hit t.part t.launch t.gen then (s.onCore c fun v => v.setSlot e.1 .free).discard t left else s
    | .running t => if hit t.part t.launch t.gen then
        s.each ((List.range 4).filter fun i =>
          ((s.coreAt c).watch i).slotNo = e.1 && (((s.coreAt c).watch i).st ≠ .free || ((s.coreAt c).watch i).readyAt.isSome))
          fun s i => s.onWatch (c * 4 + i) fun w => if w.hm then { w with abn := true } else { w with cancelled := true }
        else s
    | .free => s
  let mine := fun (m : Msg) => m.dcore = c && hit m.part m.launch m.gen
  let b := boardOf c
  let spill := (s.boardAt b).overflow.filter mine
  let woken := s.wakes.filter mine
  let s := s.onBoard b fun v => { v with overflow := v.overflow.filter fun m => !mine m }
  ({ s with wakes := s.wakes.filter fun m => !mine m }.each spill State.discardMsg).each woken State.discardMsg
/-- `cancelNotice`: core `a` receives the next cancel notice of its partition (R33). -/
def execCancelNotice (s : State) : Host.Outcome State Fault Refusal :=
  let c := s.opnd.a
  .next (match s.partOf c with
    | none => s
    | some p => match s.part? p with
      | none => s
      | some q => match q.notices[(s.coreAt c).notices]? with
        | none => s
        | some n =>
          (s.onCore c fun v => { v with notices := v.notices + 1, gated := false, idle := s.cycles }).applyNotice p c n)

/-! ## Convergence windows (R37, R138, R139) -/

/-- What the boards have counted for a register of a partition. -/
def State.convOf (s : State) (p r : Nat) : Conv :=
  (s.boards.map fun e => e.2.conv.get ⟨0, 0⟩ (p * 8 + r)).foldl (fun a v =>
    ⟨a.count + v.count, if a.maxres.toNat < v.maxres.toNat then v.maxres else a.maxres⟩) ⟨0, 0⟩
/-- `windowBoundary`: the boards forward the counts of the window of partition `a` that has ended (R138). -/
def execWindowBoundary (s : State) : Host.Outcome State Fault Refusal :=
  let p := s.opnd.a
  .next (match s.part? p with
    | none => s
    | some q =>
      if !s.windowDue p || q.ended.isSome then s
      else
        let t := (List.range 8).foldl (fun t r => Tbl.set t r (s.convOf p r)) ([] : Tbl Conv)
        let s := { s with boards := s.boards.map fun (e : Nat × Board) => (e.1, { e.2 with conv := e.2.conv.filter fun x => x.1 / 8 ≠ p }) }
        s.onPart p fun q => { q with ended := some (q.window, (q.window + 1) * 2 ^ q.win + 256, t), window := q.window + 1 })
/-- `cvrUpdate`: 256 ticks after the boundary the register pairs of partition `a` report the window (R139). -/
def execCvrUpdate (s : State) : Host.Outcome State Fault Refusal :=
  let p := s.opnd.a
  .next (match (s.part? p).bind fun q => q.ended with
    | none => s
    | some (j, t, v) =>
      if s.bell < t then s
      else s.onPart p fun q => { q with
        ended := none
        cvr := Vector.ofFn fun r => let c := v.get ⟨0, 0⟩ r.val; ⟨j % 2 ^ 32, min c.count (2 ^ 32 - 1), c.maxres⟩ })

end Sys2Proof.Machine
end

