-- ==== Sys2Proof/Machine/Memory.lean ====
section
/-!
DEFINITION. Memory on its way: buffers that drain, stores that are applied, forwarded and acknowledged, fills, walks, the
switch of a domain split and the replays it causes (R270, R271, R356, R362, R363, R366).
-/
namespace Sys2Proof.Machine

/-- `wcbDrain`: the line `b` of core `a`'s write-combining buffer leaves for its home (R271). -/
def execWcbDrain (s : State) : Host.Outcome State Fault Refusal := .next (s.drainLine s.opnd.a s.opnd.b)
/-- `storeApply`: the store that `a` numbers is applied at its home, after the earlier stores of its board to the same bytes
(R270, R277). -/
def execStoreApply (s : State) : Host.Outcome State Fault Refusal :=
  .next (match s.stores[s.opnd.a]? with
    | none => s
    | some f =>
      if (s.stores.take s.opnd.a).any fun g => boardOf g.core = boardOf f.core && !g.applied && overlaps g.bytes f.bytes then s
      else s.applyStore f.ticket)
/-- `updateApply`: a sharer board applies the words forwarded to it that `a` numbers, in the order of the home (R270, R277). -/
def execUpdateApply (s : State) : Host.Outcome State Fault Refusal :=
  .next (match s.updates[s.opnd.a]? with
    | none => s
    | some u =>
      if (s.updates.take s.opnd.a).any fun v => v.board = u.board && overlaps v.bytes u.bytes then s else s.applyUpdate u)
/-- `storeAck`: the store that `a` numbers, applied at its home and at every sharer, is acknowledged (R270). -/
def execStoreAck (s : State) : Host.Outcome State Fault Refusal :=
  .next (match s.stores[s.opnd.a]? with
    | none => s
    | some f => if f.applied && f.sharers = [] then s.ackStore f else s)
/-- `missFill`: the fill of line `b` arrives at slice `a`; the requests recorded and queued for it are served (R356, R357). -/
def execMissFill (s : State) : Host.Outcome State Fault Refusal := .next (s.fillMiss s.opnd.a s.opnd.b)

/-! ## TLBs (R366) -/

/-- An entry enters a TLB of `n` entries, in place of the one least recently used (log 9). -/
def tlbAdd (n : Nat) (l : List TlbEntry) (e : TlbEntry) : List TlbEntry :=
  let l := l.filter fun x => !(x.part = e.part && x.page = e.page && x.size = e.size)
  let l := if l.length < n then l
    else match l.foldl (fun (b : Option TlbEntry) x => match b with
        | none => some x
        | some y => if x.used < y.used then some x else some y) none with
      | some y => l.erase y
      | none => l
  l ++ [e]
/-- `tlbWalk`: a walker resolves the address `v` for core `a`; the leaf enters the board's TLB and the core's micro-TLB
(R366). -/
def execTlbWalk (s : State) : Host.Outcome State Fault Refusal :=
  let c := s.opnd.a
  let va := s.opnd.v.toNat
  .next (match s.partOf c with
    | none => s
    | some p =>
      if 2 ^ 56 ≤ va then s
      else match (s.part? p).bind fun q => s.walk va 4 q.root with
        | none => s
        | some (e, size) =>
          let t : TlbEntry := ⟨p, va / size, size, e, s.cycles⟩
          (s.onBoard (boardOf c) fun b => { b with tlb := tlbAdd 1024 b.tlb t }).onCore c fun v =>
            { v with utlb := tlbAdd 32 v.utlb t })

/-! ## Domain splits (R362, R363) -/

/-- Lines of granules leave the slices that hold them, once the requests recorded for them are served, with their sharers' copies;
and the clocks of their homes go with them (R362). -/
def State.clearGranules (s : State) (gs : List Nat) : State :=
  let moved := fun (line : Nat) => gs.contains (line * 64 / 2 ^ 30)
  let homes := (gs.flatMap fun g => (s.domains.get Domain.fresh (s.granules.get 0 g)).members).eraseDups
  let misses := s.slices.flatMap fun (e : Nat × Slice) => (e.2.misses.filter fun m => moved m.line).map fun m => (e.1, m.line)
  let s := s.each misses fun s x => s.fillMiss x.1 x.2
  let lines := s.slices.flatMap fun (e : Nat × Slice) => (e.2.tags.filter fun t => moved t.1).map fun t => (e.1, t.1)
  let s := s.each lines fun s x => s.evict x.1 x.2
  { s with
    clocks := s.clocks.filter fun c => !homes.contains c.home
    cells := s.cells.map fun e => if moved (e.1 / 64) then (e.1, e.2.map fun v => { v with clock := none }) else e }
/-- `splitSwitch`: at the armed time every router installs the new granule table and domain registers, and every slice has answered
what it holds (R362). -/
def execSplitSwitch (s : State) : Host.Outcome State Fault Refusal :=
  .next (match s.split with
    | none => s
    | some r =>
      if s.bell < r.t then s
      else
        let all := (s.granules.filter fun (g : Nat × Nat) => g.2 = r.d).map Prod.fst
        let s := s.clearGranules all
        { s with
          split := none
          before := (s.domains, s.granules)
          domains := (Tbl.set s.domains r.d r.newD).set r.e r.newE
          granules := r.granules.foldl (fun (t : Tbl Nat) g => Tbl.set t g r.e) s.granules }.complete r.cmd 0)

end Sys2Proof.Machine
end

