-- ==== Sys2Proof/Machine/Stops.lean ====
section
/-!
DEFINITION. Time, power, deadlines, dumps, gang switches and resumes (R383 to R393, R411 to R413).
-/
namespace Sys2Proof.Machine

/-! ## Save frames (R390, R391) -/

/-- The frames of a board (R390). -/
def Board.frames (b : Board) : Nat :=
  let banks := b.banks.toList
  2 + 8 * (banks.filter fun k => k.mode ≠ 0).length + (if banks.any fun k => k.mode = 3 then 16 else 0)
/-- The frames that a partition takes: `full` counts every watch as if it were not FREE, as arming does (R390). -/
def State.framesOf (s : State) (q : Part) (full : Bool) : Nat :=
  let cs := q.cores
  let watches := if full then 4 * cs.length
    else ((s.cores.filter fun e => cs.contains e.1).map fun e =>
      (e.2.watches.toList.filter fun w => w.st ≠ .free || w.readyAt.isSome).length).sum
  37 * cs.length + watches + 2 * q.rods.length + (q.boards.map fun b => (s.boardAt b).frames).sum + 25
/-- A report to the host: a cause, a partition and a number. -/
def State.report (s : State) (cause p n : Nat) : State :=
  { s with fw := { s.fw with reports := s.fw.reports ++ [(cause, p, n)] } }
/-- A switch or dump takes `need` frames: first those reserved for the partition, then free ones. What is left of the
reservation returns; what is missing is reported and taken once frames are added (R391, R393). -/
def State.takeFrames (s : State) (p need : Nat) : State :=
  match s.part? p with
  | none => s
  | some q =>
    let pool := q.reserved + s.fw.frames
    let got := min need pool
    let s := { s with fw := { s.fw with frames := pool - got } }
    let s := s.onPart p fun q => { q with reserved := 0, held := got, short := need - got }
    if got < need then s.report 0x16 p (need - got) else s
/-- Dumps and switches that ran out of frames take those that have been added (R391). -/
def State.fillShort (s : State) : State :=
  s.each s.parts.keys fun s p => match s.part? p with
    | none => s
    | some q =>
      let n := min q.short s.fw.frames
      ({ s with fw := { s.fw with frames := s.fw.frames - n } }).onPart p fun q => { q with short := q.short - n, held := q.held + n }
/-- Firmware dumps a stopped partition, reports, and its job ends (R385). -/
def State.dump (s : State) (p cause : Nat) : State :=
  match s.part? p with
  | none => s
  | some q =>
    let s := (s.onPart p fun q => { q with dumped := true, armed := none }).takeFrames p (s.framesOf q false)
    (s.report cause p 0).endJob p 0
/-- The lowest enabled core of a partition (R383). -/
def Part.lowest (q : Part) : Nat := (q.cores.head?).getD 0
/-- Firmware dumps the partitions that a fatal trap has stopped (R385). -/
def State.dumpFatal (s : State) : State :=
  s.each s.parts.keys fun s p => match s.part? p with
    | some q => if q.run = .stopped 1 && !q.dumped then s.dump p (bits (s.coreAt q.lowest).hcause 7 0) else s
    | none => s
/-- `duskExpiry`: the dusk register of partition `a` has reached zero: the partition stops with reason 3 and cause 0x17, a
switch armed for later is cancelled, and firmware dumps (R392, R393). -/
def execDuskExpiry (s : State) : Host.Outcome State Fault Refusal :=
  let p := s.opnd.a
  .next (match s.part? p with
    | none => s
    | some q =>
      if q.run ≠ .running || q.job = none || q.dusk ≠ 0 then s
      else
        let s := { s with fw := { s.fw with frames := s.fw.frames + q.reserved } }
        let s := s.onPart p fun q => { q with armed := none, reserved := 0 }
        (s.stop p 3 0 0x17 q.lowest).dump p 0x17)

/-! ## Gang switch (R386 to R389) -/

/-- A board that another partition still uses. -/
def State.sharedBoard (s : State) (p b : Nat) : Bool :=
  s.parts.any fun e => e.1 ≠ p && match e.2 with
    | some q => q.run ≠ .switched && (boardRods b).any q.rods.contains
    | none => false
/-- A byte that a partition saves: its boards' stores, its cores' slots, and its boards' keeping windows. -/
def State.savedByte (s : State) (p : Nat) (q : Part) (a : Nat) : Bool :=
  if a / 2 ^ 34 = 0x3F400000 then
    let b := a / 2 ^ 24 % 1024
    let off := a % 2 ^ 24
    if off < 0x800000 then q.boards.contains b && !s.sharedBoard p b
    else q.rods.contains (rodOf (4 * b + (off - 0x800000) / 0x1000 % 4))
  else if a / 2 ^ 30 = 2 ^ 11 then
    let b := a / 2 ^ 20 % 1024
    q.boards.contains b && !s.sharedBoard p b
  else false
/-- The accesses of a partition that are under way are performed, but for those that wait for a retry or a link, and what they held
in the memory paths goes on (R367, R383). -/
def State.settleAccess (s : State) (q : Part) : State :=
  let go := fun (s : State) => s.each (q.watches.filter fun k => s.cores.any fun e => e.1 = k / 4) State.settleWatch
  go (go s).runPaths
/-- An access of a partition is still under way. -/
def State.accessLeft (s : State) (p : Nat) (q : Part) : Bool :=
  let mine := fun (c : Nat) => q.rods.contains (rodOf c)
  s.keepq.any (·.part = p) || s.atomq.any (·.part = p) || s.linkLoads.any (fun l => mine (l.watch / 4))
    || s.stores.any (fun f => mine f.core) || s.bankq.any (fun x => mine (x.watch / 4))
    || s.cores.any fun e => mine e.1 && e.2.watches.toList.any fun w => w.path ≠ []
/-- What is under way in a partition comes to its end: accesses, mode changes, rod operations (R383, R387). -/
def State.settlePart (s : State) (q : Part) : State :=
  let s := s.settleAccess q
  let s := s.each q.boards fun s b => s.each (List.range 16) fun s n =>
    s.each ((s.boardAt b).bank n).changes fun s _ => s.applyMode b n
  s.each q.rods fun s r =>
    (s.onRod r fun v => { v with running := [] }).each (s.rodAt r).running fun s x => s.each x.outs State.rodReport
/-- An entry that has started and whose work is not done: a collective, or one that fills a FIFO slot (R329, R335, R342). -/
def ChEntry.atWork (e : ChEntry) : Bool := (e.st = .running && collectiveKind e.kind) || (e.st = .captured && e.slot.isSome)
/-- Every engine finishes the entries of a partition that it runs, but for those that wait for a link (R387). -/
def State.finishEngines (s : State) (p : Nat) : State :=
  let o := s.opnd
  let one := fun (s : State) (x : Chain × Nat) (e : ChEntry × Nat) =>
    let at' := fun (n : Nat) => { s with opnd := { o with a := x.2, b := n } }
    let r := match e.1.kind with
      | 1 => execEntryCopy (at' e.2)
      | 5 => execEntryFill (at' e.2)
      | 0x10 => execAllgather (at' e.1.seq)
      | 0x11 => execRedscat (at' e.1.seq)
      | 0x12 => execAlltoall (at' e.1.seq)
      | _ => execEntryBarrier (at' e.1.seq)
    match r with
    | .next t => { t with opnd := o }
    | _ => s
  s.each (s.chains.zipIdx.filter fun x => x.1.part = p) fun s x =>
    s.each (x.1.entries.zipIdx.filter fun e => e.1.atWork) fun s e => one s x e
/-- An engine has an entry of a partition at work. -/
def State.enginesLeft (s : State) (p : Nat) : Bool := s.chains.any fun c => c.part = p && c.entries.any (·.atWork)
/-- A board without what a partition has in it: waiters of its watches, its overflow messages, its fallout. -/
def Board.without (b : Board) (p : Nat) (mine : Nat → Bool) : Board :=
  let bank := fun (k : Bank) => { k with
    pushes := k.pushes.filter fun w => !mine w.watch
    takes := k.takes.filter fun w => !mine w.watch }
  { b with
    banks := b.banks.map bank
    overflow := b.overflow.filter fun m => m.part ≠ p
    fallout := b.fallout.filter fun m => m.part ≠ p }
/-- What a partition had in a board joins it again. -/
def Board.rejoin (b old : Board) (p : Nat) (mine : Nat → Bool) : Board :=
  let bank := fun (i : Fin 16) =>
    let k := b.banks[i]
    let o := old.banks[i]
    { k with pushes := k.pushes ++ o.pushes.filter (fun w => mine w.watch), takes := k.takes ++ o.takes.filter (fun w => mine w.watch) }
  { b with banks := Vector.ofFn bank, overflow := b.overflow ++ old.overflow.filter fun m => m.part = p }
/-- A watch that is not FREE is HALTED. -/
def Watch.halt (w : Watch) : Watch := if w.st = .free ∨ w.st = .halted then w else { w with prior := w.st, st := .halted }
/-- A core as a switch saves it: without its copies of code and translations. -/
def Core.forFrames (c : Core) : Core :=
  { c with
    issuing := none, utlb := [], fetch := [], loopTag := none, loopBuf := []
    watches := c.watches.map Watch.halt }
/-- The messages of a partition on the mesh fall out, each at the next router it reaches (R388). -/
def State.fallOut (s : State) (p : Nat) : State :=
  let s := s.mesh
  let mine := fun (m : Msg) => decide (m.part = p)
  let fell := (s.msgs ++ s.deposits).filter mine
  let s := { s with msgs := s.msgs.filter fun m => !mine m, deposits := s.deposits.filter fun m => !mine m }
  s.each fell fun s m => s.onBoard m.router fun b => { b with fallout := b.fallout ++ [m] }
/-- `gangSwitch`: partition `a` stops at its armed time and its messages fall out; what it holds is saved once the accesses that it
has under way, and the entries that its engines run, have come to their end (R387, R388, R390). -/
def execGangSwitch (s : State) : Host.Outcome State Fault Refusal :=
  let p := s.opnd.a
  .next (match (s.part? p).bind fun q => q.armed.map fun x => (q, x.1) with
    | none => s
    | some (q, t) =>
      if s.bell < t || !(q.run = .running || q.run = .leaving) then s
      else
        let s := if q.run = .leaving then s
          else
            let s := s.each (q.cores.filter fun c => s.cores.any fun e => e.1 = c) fun s c => s.onCore c fun v =>
              { v with issuing := none, watches := v.watches.map Watch.halt }
            s.onPart p fun q => { q with run := .leaving }
        let s := ((s.settlePart q).finishEngines p).fallOut p
        if s.accessLeft p q || s.enginesLeft p then s
        else
        let need := s.framesOf q false
        let inside := fun (c : Nat) => q.rods.contains (rodOf c)
        let mine := fun (k : Nat) => decide (k < engineBase) && inside (k / 4)
        let f : Frames := {
          cores := (s.cores.filter fun (e : Nat × Core) => inside e.1).map fun e => (e.1, e.2.forFrames)
          boards := (s.boards.filter fun (e : Nat × Board) => q.boards.contains e.1).map fun e =>
            (e.1, { e.2 with ways := [], ro := [], tlb := [], fallout := e.2.fallout.filter fun m => m.part = p })
          rods := s.rods.filter fun (e : Nat × Rod) => q.rods.contains e.1
          bytes := s.mem.filter fun (e : Nat × Byte) => s.savedByte p q e.1
          cells := s.cells.filter fun e => s.savedByte p q e.1
          ceWaits := s.ceWaits.filter fun w => mine w.watch }
        let own := fun (b : Nat) => q.boards.contains b && !s.sharedBoard p b
        let others := fun (b : Board) => b.fallout.filter fun m => m.part ≠ p || !q.boards.contains m.router
        let s := { s with
          cores := s.cores.filter fun (e : Nat × Core) => !inside e.1
          boards := (s.boards.map fun (e : Nat × Board) =>
            (e.1, if own e.1 then ({ Board.fresh with fallout := others e.2 } : Board)
              else if q.boards.contains e.1 then e.2.without p mine else { e.2 with fallout := others e.2 })).filter fun e => e.2 ≠ Board.fresh
          rods := s.rods.filter fun (e : Nat × Rod) => !q.rods.contains e.1
          cells := s.cells.filter fun e => !s.savedByte p q e.1
          ceWaits := s.ceWaits.filter fun w => !mine w.watch }
        (s.onPart p fun q => { q with run := .switched, armed := none, saved := some f }).takeFrames p need)
/-- A watch goes on where it stopped; a neighbour read starts its timeout again (R387, R389). -/
def Watch.unhalt (w : Watch) (now : Nat) : Watch :=
  let w := if w.st = .halted then { w with st := w.prior } else w
  { w with nbr := w.nbr.map fun r => { r with since := now } }
/-- A core goes on: the watch that was ISSUING issues (R385, R389). -/
def Core.unhalt (c : Core) (n now : Nat) : Core :=
  let c : Core := { c with watches := c.watches.map fun (w : Watch) => w.unhalt now }
  { c with issuing := (List.range 4).find? fun i => (c.watch i).st = .issuing && (c.watch i).gang.all (· = n * 4 + i) }
/-- The saved items of a partition return to their rods (R388, R389). -/
def State.switchIn (s : State) (p : Nat) (q : Part) (f : Frames) : State :=
  let inside := fun (c : Nat) => q.rods.contains (rodOf c)
  let mine := fun (k : Nat) => decide (k < engineBase) && inside (k / 4)
  let keepMem := (s.mem.filter fun (e : Nat × Byte) => !s.savedByte p q e.1)
  let keepCells := (s.cells.filter fun e => !s.savedByte p q e.1)
  let elsewhere := s.boards.filter fun (e : Nat × Board) => !f.boards.any fun x => x.1 = e.1
  let fell := ((f.boards ++ elsewhere).flatMap fun (e : Nat × Board) => e.2.fallout.filter fun m => m.part = p).map fun (m : Msg) =>
    { m with since := s.cycles }
  let s := { s with
    boards := s.boards.map fun (e : Nat × Board) => (e.1, { e.2 with fallout := e.2.fallout.filter fun m => m.part ≠ p })
    mem := f.bytes.foldl (fun (m : Tbl Byte) (e : Nat × Byte) => Tbl.put 0 m e.1 e.2) keepMem
    cells := f.cells.foldl (fun (m : Tbl (List CellVal)) (e : Nat × List CellVal) => Tbl.set m e.1 e.2) keepCells
    cores := f.cores.foldl (fun (m : Tbl Core) (e : Nat × Core) => Tbl.set m e.1 e.2) s.cores
    rods := f.rods.foldl (fun (m : Tbl Rod) (e : Nat × Rod) => Tbl.set m e.1 e.2) s.rods
    ceWaits := s.ceWaits ++ f.ceWaits
    msgs := s.msgs ++ fell.filter fun (m : Msg) => bits (Vector.at0 m.words 0) 39 36 ≠ 4
    deposits := s.deposits ++ fell.filter fun (m : Msg) => bits (Vector.at0 m.words 0) 39 36 = 4 }
  let s := s.each f.boards fun s e =>
    if s.sharedBoard p e.1 then s.onBoard e.1 fun b => b.rejoin e.2 p mine
    else s.setBoard e.1 { e.2 with fallout := (s.boardAt e.1).fallout }
  s.each q.watches fun s k => s.each (s.watch k).pins fun s e =>
    ((s.needLine e.2 false).fillWay e.1 e.2).onBoard e.1 fun b => { b with ways := b.ways.map fun (x : Nat × WayLine) =>
      if x.1 = e.2 then (x.1, { x.2 with pins := x.2.pins ++ [k] }) else x }
/-- `resumeAtT`: at its resume time partition `a`, stopped or switched out, goes on; a switched one once its rods are free
(R385, R389). -/
def execResumeAtT (s : State) : Host.Outcome State Fault Refusal :=
  let p := s.opnd.a
  let wake := fun (s : State) (q : Part) => s.each q.cores fun s c =>
    if s.cores.any (·.1 = c) then s.onCore c fun v => v.unhalt c s.cycles else s
  .next (match (s.part? p).bind fun q => q.resume.map fun x => (q, x.1) with
    | none => s
    | some (q, t) =>
      if s.bell < t then s
      else match q.run, q.saved with
        | .stopped _, _ => (wake s q).onPart p fun q => { q with run := .running, resume := none }
        | .switched, some f =>
          let taken := s.parts.any fun e => e.1 ≠ p && match e.2 with
            | some o => o.run ≠ .switched && o.rods.any q.rods.contains
            | none => false
          if taken || q.short ≠ 0 then s
          else
            let s := wake (s.switchIn p q f) q
            ({ s with fw := { s.fw with frames := s.fw.frames + q.held } }).onPart p fun q =>
              { q with run := .running, resume := none, saved := none, held := 0 }
        | _, _ => s)

/-! ## Power (R411 to R413) -/

/-- A ticket that stands for a condition of R412's list: a FIFO slot, the `done` of a chain, or a rod's barrier. -/
def State.isCondition (s : State) (c t : Nat) : Bool :=
  s.ceWaits.any (fun w => w.ticket = t && w.op = .wseq) || (s.rodAt (rodOf c)).waiting.any (·.ticket = t) ||
    s.boards.any fun e => e.2.banks.toList.any fun k => k.pushes.any (·.ticket = t) || k.takes.any (·.ticket = t)
/-- A watch that lets its core gate: it is not READY, ISSUING or PAUSED, and not PARKED awaiting results (R412). -/
def State.quietWatch (s : State) (c : Nat) (w : Watch) : Bool :=
  match w.st with
  | .free => w.readyAt.isNone
  | .halted => true
  | .parked =>
    w.loads.all (·.need = 0) && w.nbr.all (·.done) && w.img.waits.all (fun e => s.isCondition c e.1)
      && (w.img.waits ≠ [] || w.after = .glead || w.after = .gfollow)
  | _ => false
/-- A core in which nothing can go on (R412). -/
def State.quiet (s : State) (c : Nat) : Bool :=
  let v := s.coreAt c
  v.watches.toList.all (s.quietWatch c) && (s.chosen c).isNone
/-- What wakes a gated core: an entry, a condition that is met, a cancel notice, a stop, an armed switch (R413). -/
def State.wakes? (s : State) (c : Nat) : Bool :=
  !s.quiet c || (s.coreAt c).claims ≠ [] || (s.coreAt c).watches.toList.any (·.st = .halted) ||
    match (s.partOf c).bind s.part? with
    | none => false
    | some q => decide ((s.coreAt c).notices < q.notices.length) || q.run ≠ .running || q.armed.isSome
/-- The clock runs for `n` cycles, and messages go on; a core in which something can go on is not quiet (R411, R412). -/
def State.tick (s : State) (n : Nat) : State :=
  let s := (s.pass n).mesh
  { s with cores := s.cores.map fun (e : Nat × Core) => (e.1, if s.quiet e.1 then e.2 else { e.2 with idle := s.cycles }) }
/-- The cycles for which a core must have been quiet to gate (R412). -/
def gateAfter : Nat := 2048
/-- `powerGate`: core `a` has been quiet for 2,048 cycles and is power-gated (R412). -/
def execPowerGate (s : State) : Host.Outcome State Fault Refusal :=
  let c := s.opnd.a
  .next (if !(s.coreAt c).gated && s.quiet c && decide ((s.coreAt c).idle + gateAfter ≤ s.cycles) then
    s.onCore c fun v => { v with gated := true } else s)
/-- `coreWake`: a gated core wakes (R413). -/
def execCoreWake (s : State) : Host.Outcome State Fault Refusal :=
  let c := s.opnd.a
  .next (if (s.coreAt c).gated && s.wakes? c then s.onCore c fun v => { v with gated := false, idle := s.cycles } else s)
/-- `clockThrottle`: the sensors read `a` °C at the hottest die and `b` W for the package. Firmware lowers the arithmetic clock by
100 MHz while a die is above 100 °C or the package above the record's cap, and raises it again, up to the record's, once both are below
(R411). -/
def execClockThrottle (s : State) : Host.Outcome State Fault Refusal :=
  let hot := decide (100 < s.opnd.a) || decide (s.fw.record.cap < s.opnd.b)
  let cool := decide (s.opnd.a < 100) && decide (s.opnd.b < s.fw.record.cap)
  .next { s with
    hottest := s.opnd.a
    watts := s.opnd.b
    clock := if hot then max 1 (s.clock - 1) else if cool && decide (s.clock < s.fw.record.clock) then s.clock + 1 else s.clock }

end Sys2Proof.Machine
end

