-- ==== Sys2Proof/Machine/Firmware.lean ====
section
/-!
DEFINITION. The firmware command set: the form that every command shares, and what each command does (R403 to R405, R408 to
R410).
-/
namespace Sys2Proof

/-- Operand word `i` of a command, 1 to 7 (R403). -/
def Cmd.word (c : Cmd) (i : Nat) : Word := (c.w[i - 1]?).getD 0

end Sys2Proof
namespace Sys2Proof.Machine

/-! ## The form of a command (R403 to R405) -/

/-- Firmware takes the command of the event, the next of its ring and of opcode `op`, and acts on it, unless its ring lies behind a
link that retrains (R399); `masks` are the bits that
its words 1 to 7 may hold, all others giving BAD. -/
def State.takeCmd (s : State) (op : Nat) (masks : List Word) (act : State → Cmd → State) : State :=
  let c := s.opnd.cmd
  if s.fw.fwst ≠ 1 ∨ s.hostWaits ∨ c.op ≠ op ∨ c.seq ≠ (s.fw.fseen + 1) % 2 ^ 32 then s
  else
    let s := { s with fw := { s.fw with fseen := c.seq, taken := s.fw.taken ++ [c.seq] } }
    if c.rsv ≠ 0 ∨ (List.range 7).any (fun i => Vector.at0 c.w i &&& ~~~((masks[i]?).getD 0) ≠ 0) then s.complete c.seq 3
    else act s c
/-- A command to the device names no partition (log 23). -/
def State.deviceCmd (s : State) (op : Nat) (masks : List Word) (act : State → Cmd → State) : State :=
  s.takeCmd op masks fun s c => if c.part = 255 then act s c else s.complete c.seq 3
/-- A command to a partition that exists. -/
def State.partCmd (s : State) (op : Nat) (masks : List Word) (act : State → Cmd → Nat → Part → State) : State :=
  s.takeCmd op masks fun s c => match (if c.part < 128 then s.part? c.part else none) with
    | some q => act s c c.part q
    | none => s.complete c.seq 3
def ones : Word := BitVec.allOnes 64
/-- A host buffer is 4 KiB-aligned and not 0 (R403). -/
def bufferOk (w : Word) : Bool := w ≠ 0 && w.toNat % 4096 = 0
/-- Firmware writes words to a host buffer. -/
def State.toHost (s : State) (buf : Word) (l : List Word) : State :=
  s.hostWrite (hostAddr buf.toNat) (l.flatMap fun w => leBytes 8 w.toNat)
/-- The partition that the command of the event names. -/
def State.cmdPart (s : State) : Option (Nat × Part) :=
  let p := s.opnd.cmd.part
  (if p < 128 then s.part? p else none).map fun q => (p, q)
/-- The lowest board of a partition, whose view of memory firmware takes for a partition's virtual addresses. -/
def Part.board (q : Part) : Nat := boardOf q.lowest
/-- Words that stand where firmware reads them, at a virtual address of a partition. -/
def State.vaWords (s : State) (p : Nat) (q : Part) (va n : Nat) : Option (List Word) :=
  match s.engRead p q.board false va (8 * n) with
  | .ok l => some ((List.range n).map fun i => BitVec.ofNat 64 (leNat ((l.drop (8 * i)).take 8)))
  | .error _ => none
/-- A command whose word 2 names `n` words of its partition waits while they lie behind a link that retrains (R399). -/
def State.wordsWait (s : State) (n : Nat) : Bool :=
  s.cmdPart.any fun x => match s.engRead x.1 x.2.board false (s.opnd.cmd.word 2).toNat (8 * n) with
    | .error e => e.1 = waitCode
    | .ok _ => false
/-- Their lines come to their slices (R356). -/
def State.bringWords (s : State) (n : Nat) : State :=
  match s.cmdPart with
  | some x => s.engReach x.1 x.2.board false (s.opnd.cmd.word 2).toNat (8 * n)
  | none => s

/-! ## What the device has -/

/-- A rod that the record does not disable (R16). -/
def State.rodOn (s : State) (r : Nat) : Bool := decide (r < 128) && !s.fw.record.offRods.contains r
def State.sliceOn (s : State) (n : Nat) : Bool := decide (n < 64) && !s.fw.record.offSlices.contains n
/-- The number with the bits of a list set. -/
def bitsOf (l : List Nat) : Nat := (l.map fun i => 2 ^ i).sum
/-- The register `lnk` (R395). -/
def State.lnk (s : State) : Word :=
  packWord [(bitsOf ((List.range 4).filter fun n => (s.linkAt n).up), 4), (0, 4),
    (bitsOf ((List.range 8).filter fun n => (s.linkAt (4 + n)).up), 8)]
/-- The enabled rods and slices, as words (R405; log 22). -/
def State.enabledParts (s : State) : List Word :=
  let rods := bitsOf ((List.range 128).filter s.rodOn)
  [BitVec.ofNat 64 rods, BitVec.ofNat 64 (rods / 2 ^ 64), BitVec.ofNat 64 (bitsOf ((List.range 64).filter s.sliceOn))]
/-- `query` (R353, R400, R405): the layouts of its results are the model's (log 22). -/
def execQuery (s : State) : Host.Outcome State Fault Refusal :=
  .next (s.deviceCmd 0x01 [3, 63, 0, 0, 0, 0, ones] fun s c =>
    let d := s.domains.get Domain.fresh (c.word 2).toNat
    let ok := bufferOk (c.word 7) && (c.word 1 = 1 || c.word 2 = 0)
    if !ok then s.complete c.seq 3
    else
      let l : List Word := match (c.word 1).toNat with
        | 0 => s.enabledParts
        | 1 => (BitVec.ofNat 64 d.c :: d.members.map (BitVec.ofNat 64)) ++ d.masks.map (BitVec.ofNat 64)
        | 2 => (List.range 256).map fun i => packWord ((List.range 8).map fun j => (s.granules.get 255 (8 * i + j), 8))
        | _ => s.lnk :: (List.range 12).map fun n => lossRecord (s.linkAt n) n
      (s.toHost (c.word 7) l).complete c.seq 0 (BitVec.ofNat 64 (8 * l.length)))

/-! ## Partitions (R18, R247, R369) -/

/-- A partition as PCREATE makes it, before its operands are set. -/
def Part.fresh : Part where
  rods := []
  domain := 0
  work := 0
  ovf := 0
  spill := 0
  root := 0
  tvb := 0
  win := 16
  linkTrap := false
  kdebug := false
  run := .running
  dumped := false
  job := none
  jobs := []
  dusk := 0
  phase := 0
  phaseOpen := false
  phaseClosed := none
  phaseCancelled := false
  tensors := []
  types := []
  graphs := []
  launches := []
  conts := []
  groups := []
  pairs := []
  regions := []
  overflow := 0
  noclock := 0
  cvr := .replicate 8 ⟨0, 0, 0⟩
  ended := none
  window := 0
  pages := []
  admitted := []
  notices := []
  armed := none
  resume := none
  reserved := 0
  held := 0
  short := 0
  saved := none
/-- The rods that partitions hold now; one that is switched out, and wholly saved, holds none (R386). -/
def State.usedRods (s : State) : List Nat := s.parts.flatMap fun e => match e.2 with
  | some q => if q.run = .switched ∧ q.short = 0 then [] else q.rods
  | none => []
/-- The attributes of word 6 (R405). -/
def attrsOk (w : Word) : Bool := 10 ≤ bits w 4 0 && bits w 4 0 ≤ 31
def Part.setAttrs (q : Part) (w : Word) (bell : Nat) : Part :=
  { q with win := bits w 4 0, linkTrap := w.getLsbD 8, kdebug := w.getLsbD 9, window := bell / 2 ^ bits w 4 0 }
/-- The bank modes of one board (R247). -/
def tableOk (l : List Byte) (reserve : Bool) : Bool :=
  let mode := fun (b : Byte) => (b &&& 3).toNat
  let marked := l.filter fun b => b.getLsbD 7
  let keeps := (l.filter fun b => mode b = 3).length
  l.all (fun b => b &&& 12 = 0 && (mode b = 2 || b &&& 0x70 = 0)) && (keeps = 0 || keeps = 4 || keeps = 8 || keeps = 12)
    && (if reserve then marked.length = 1 && marked.all (fun b => mode b = 1) else marked = [])
/-- A bank in the mode of its byte (R247). -/
def bankOfByte (b : Byte) : Bank :=
  let mode := (b &&& 3).toNat
  { Bank.fresh with mode := mode, z := b.toNat / 16 % 8, reserve := b.getLsbD 7, locked := b.getLsbD 7 || mode = 3 }
/-- The macro of a core at partition creation: empty, with the columns that the record repairs mapped to spares in every slot
(R215, R216, R407). -/
def State.repairedMac (s : State) (c : Nat) : Mac :=
  let cols := (s.fw.record.repairs.filter fun e => e.1 = c).map Prod.snd
  if cols = [] then Mac.fresh
  else (List.range 16).foldl (fun (m : Mac) i => m.setTile i { Tile.fresh with remap := cols }) Mac.fresh
/-- `pcreate` (R18, R168, R247, R350, R405). -/
def execPcreate (s : State) : Host.Outcome State Fault Refusal :=
  .next (s.deviceCmd 0x02 [ones, ones, 0xF1FF0FFF, ones, ones, 0x31F, ones] fun s c =>
    let rods := (List.range 128).filter fun r => if r < 64 then (c.word 1).getLsbD r else (c.word 2).getLsbD (r - 64)
    let boards := (List.range 1024).filter fun b => (boardRods b).any rods.contains
    let w3 := c.word 3
    let ovf := bits w3 24 16
    let spill := bits w3 31 28
    let dom := s.domains.get Domain.fresh (bits w3 5 0)
    let table := boards.zipIdx.map fun e => (e.1, s.homeBytes (hostAddr ((c.word 7).toNat + 16 * e.2)) 16)
    let ok := rods ≠ [] && rods.all s.rodOn && dom.members.contains (bits w3 11 6) && ovf ≤ 256 && spill ≤ 8
      && (c.word 4).toNat % 2048 = 0 && bits (c.word 5) 63 56 = 0 && attrsOk (c.word 6) && bufferOk (c.word 7)
      && table.all fun e => tableOk e.2 (ovf ≠ 0 || spill ≠ 0)
    if !ok then s.complete c.seq 3
    else if rods.any s.usedRods.contains then s.complete c.seq 9
    else match (List.range 128).find? fun p => (s.part? p).isNone with
      | none => s.complete c.seq 2
      | some p =>
        let s := s.each table fun s e =>
          let old := if (boardRods e.1).any s.usedRods.contains then s.boardAt e.1 else Board.fresh
          s.setBoard e.1 { old with
            banks := Vector.ofFn fun i => bankOfByte ((e.2[i.val]?).getD 0), ways := [], fallout := (s.boardAt e.1).fallout }
        let wiped := fun (a : Nat) => a / 2 ^ 30 = 2 ^ 11 && boards.contains (a / 2 ^ 20 % 1024)
        let s := { s with
          mem := s.mem.filter fun (e : Nat × Byte) => !wiped e.1
          cells := s.cells.filter fun e => !wiped e.1
          rods := s.rods.filter fun (e : Nat × Rod) => !rods.contains e.1
          cores := s.cores.filter fun (e : Nat × Core) => !rods.contains (rodOf e.1) }
        let s := s.each (rods.flatMap rodCores) fun s n => s.setCore n { Core.fresh with
          reserve := spill, cycOff := s.cycles, mac := s.repairedMac n }
        let q : Part := { Part.fresh with
          rods := rods, domain := bits w3 5 0, work := bits w3 11 6, ovf := ovf, spill := spill, root := (c.word 4).toNat
          tvb := c.word 5 }
        (s.setPart p (q.setAttrs (c.word 6) s.bell)).complete c.seq 0 (BitVec.ofNat 64 p))
/-- Everything of a partition leaves the device. -/
def State.removePart (s : State) (p : Nat) (q : Part) : State :=
  let inside := fun (c : Nat) => q.run ≠ .switched && q.rods.contains (rodOf c)
  { s with
    parts := Tbl.put none s.parts p none
    cores := s.cores.filter fun (e : Nat × Core) => !inside e.1
    boards := s.boards.map fun (e : Nat × Board) => (e.1, { e.2.without p (fun k => decide (k < engineBase) && inside (k / 4)) with
      tlb := e.2.tlb.filter fun t => t.part ≠ p, conv := e.2.conv.filter fun x => x.1 / 8 ≠ p })
    rods := if q.run = .switched then s.rods else s.rods.filter fun (e : Nat × Rod) => !q.rods.contains e.1
    keepq := s.keepq.filter fun (x : KeepReq) => x.part ≠ p
    atomq := s.atomq.filter fun (x : AtReq) => x.part ≠ p
    clocks := s.clocks.filter fun (x : CachedClock) => x.part ≠ p
    msgs := s.msgs.filter fun (m : Msg) => m.part ≠ p
    deposits := s.deposits.filter fun (m : Msg) => m.part ≠ p
    wakes := s.wakes.filter fun (m : Msg) => m.part ≠ p
    prefetches := s.prefetches.filter fun (x : Prefetch) => x.part ≠ p
    chains := s.chains.filter fun (x : Chain) => x.part ≠ p
    ceWaits := s.ceWaits.filter fun (x : CeWait) => !inside (x.watch / 4)
    bankq := s.bankq.filter fun (x : BankReq) => !inside (x.watch / 4)
    linkLoads := s.linkLoads.filter fun (x : LoadReq) => !inside (x.watch / 4)
    snaps := s.snaps.filter fun (x : Snap) => x.part ≠ p
    adds := s.adds.filter fun (x : DevAdd) => x.part ≠ p
    fw := { s.fw with frames := s.fw.frames + q.held + q.reserved } }
/-- `pdestroy`: STATE while a job runs (R405; log 24). -/
def execPdestroy (s : State) : Host.Outcome State Fault Refusal :=
  .next (s.partCmd 0x03 [] fun s c p q =>
    if q.job.isSome then s.complete c.seq 26
    else ((if q.run = .switched then s else s.settlePart q).removePart p q).complete c.seq 0)
/-- `setattr` (R405). -/
def execSetattr (s : State) : Host.Outcome State Fault Refusal :=
  .next (s.partCmd 0x04 [0, 0, 0, 0, 0, 0x31F] fun s c p _ =>
    if !attrsOk (c.word 6) then s.complete c.seq 3
    else (s.onPart p fun q => q.setAttrs (c.word 6) s.bell).complete c.seq 0)

/-! ## Jobs, phases and graphs (R18, R26 to R32) -/

/-- `job`: it starts, or is held until the current job ends (R18, R31). -/
def execJob (s : State) : Host.Outcome State Fault Refusal :=
  .next (s.partCmd 0x05 [ones, ones] fun s c p q =>
    if bits (c.word 2) 63 56 ≠ 0 || (c.word 2).toNat % 8 ≠ 0 then s.complete c.seq 3
    else if q.run ≠ .running then s.complete c.seq 26
    else if q.job.isSome then s.onPart p fun q => { q with jobs := q.jobs ++ [c] }
    else s.startJob p c)
/-- A command that would open a phase waits for a split of the partition's domain, which belongs to the boundary before (R30,
R362). -/
def State.phaseWaits (s : State) : Bool :=
  s.opnd.cmd.word 1 = 0 && s.cmdPart.any fun x => s.split.any fun r => r.d = x.2.domain
/-- `phase`: opens the next phase of the job, or closes the open one, which answers once it has completed (R30). An open while a phase
is open, and a close where none is or it is closed already, are STATE (log 62). -/
def execPhase (s : State) : Host.Outcome State Fault Refusal :=
  .next (if s.phaseWaits then s else s.partCmd 0x06 [1] fun s c p q =>
    if c.word 1 = 0 then
      if q.run ≠ .running || q.job.isNone || q.phaseOpen then s.complete c.seq 26
      else (s.onPart p fun q => { q with phaseOpen := true }).complete c.seq 0
    else if q.run ≠ .running || !q.phaseOpen || q.phaseClosed.isSome then s.complete c.seq 26
    else s.onPart p fun q => { q with phaseClosed := some c.seq })
/-- The launches of a GRAPH command are installed in order; one whose start is forbidden ends cancelled at once (R26, R29, R142). -/
def State.install (s : State) (p g : Nat) : List (Nat × Nat × Desc) → State
  | [] => s
  | (l, idx, d) :: t =>
    ((s.accept p l g (some idx) d false).tryStart p l).install p g t
/-- A graph that a command opens: one of a cancelled phase is cancelled (R32). -/
def State.openGraph (s : State) (p g : Nat) (q : Part) : State :=
  s.onGraph p g fun v => if v.used then v else { Graph.fresh with used := true, cancelled := q.phaseCancelled }
/-- `graph` (R29, R140 to R142, R405): it builds an open graph, also of a phase that is closed already; one that is closed and has not
completed is BAD (log 62). -/
def execGraph (s : State) : Host.Outcome State Fault Refusal :=
  let n := 8 * min (s.opnd.cmd.word 3).toNat 64
  .next (if s.wordsWait n then s else s.partCmd 0x07 [0x13F, ones, 0x7F, 0, 0, 0, ones] fun s c p q =>
    let g := bits (c.word 1) 5 0
    let close := (c.word 1).getLsbD 8
    let n := (c.word 3).toNat
    let v := q.graphAt g
    let base := if v.used then v.next else 0
    let free := (List.range 256).filter fun l => !(q.launchAt l).used
    if q.run ≠ .running || !q.phaseOpen || (q.phaseClosed.isSome && !v.used) then s.complete c.seq 26
    else if (v.used && v.closed) || 64 < n || (n = 0 && !close) || (c.word 2).toNat % 64 ≠ 0 || 64 < base + n
        || (c.word 7).toNat % 4096 ≠ 0 then s.complete c.seq 3
    else
      let s := s.bringWords (8 * n)
      match s.vaWords p q (c.word 2).toNat (8 * n) with
      | none => s.complete c.seq 3
      | some ws =>
        let ds : List Desc := (List.range n).map fun i => Vector.ofFn fun j => (ws[8 * i + j.val]?).getD 0
        let bad := ds.zipIdx.any fun e => Desc.bad e.1 q || (Desc.preds e.1).any fun x => base + e.2 ≤ x
        if bad then s.complete c.seq 3
        else if free.length < n then s.complete c.seq 2
        else
          let ls := (free.take n).zip (ds.zipIdx.map fun e => (base + e.2, e.1))
          let s := (s.openGraph p g q).onGraph p g fun v => { v with next := base + n }
          let s := s.install p g ls
          let s := if close then (s.onGraph p g fun v => { v with closed := true }).endGraph p g else s
          let handles := ls.map fun e => handleOf e.1 (q.launchAt e.1).gen
          let s := if c.word 7 = 0 then s else s.toHost (c.word 7) handles
          s.complete c.seq 0)
/-- `fwCancel`: the status of R32 is the first result. -/
def execFwCancel (s : State) : Host.Outcome State Fault Refusal :=
  .next (s.partCmd 0x08 [3, ones] fun s c p _ =>
    let (st, s) := s.cancelLevel p (c.word 1).toNat (c.word 2)
    s.complete c.seq 0 (BitVec.ofNat 64 st))
/-- `notify`: the page is bound to a launch, which joins graph 0 (R142, R143; log 25). A page that is bound already is INUSE,
and a phase or a graph 0 that is closed is STATE (log 62). -/
def execNotify (s : State) : Host.Outcome State Fault Refusal :=
  .next (if s.wordsWait 8 then s else s.partCmd 0x0C [ones, ones] fun s c p q =>
    if q.run ≠ .running || !q.phaseOpen || q.phaseClosed.isSome || ((q.graphAt 0).used && (q.graphAt 0).closed) then
      s.complete c.seq 26
    else if (c.word 1).toNat % 4096 ≠ 0 || (c.word 2).toNat % 64 ≠ 0 then s.complete c.seq 3
    else
      let s := s.bringWords 8
      match s.engPlace p q.board false (c.word 1).toNat, s.vaWords p q (c.word 2).toNat 8 with
      | .ok (.mem pa _), some ws =>
        let d : Desc := Vector.ofFn fun j => (ws[j.val]?).getD 0
        if Desc.bad d q then s.complete c.seq 3
        else if q.pages.any fun e => e.2.pa = pa then s.complete c.seq 9
        else match q.freeEntry with
          | none => s.complete c.seq 2
          | some l =>
            let h := handleOf l (q.launchAt l).gen
            let s := (s.openGraph p 0 q).accept p l 0 none d true
            let s := s.onPart p fun q => { q with pages := Tbl.set q.pages pa ⟨pa, l, d.n, 0, []⟩ }
            let s := s.deviceWrite (((List.range 24).map (pa + ·)).zip (leBytes 8 0 ++ leBytes 8 0 ++ leBytes 8 h.toNat))
            (s.tryStart p l).complete c.seq 0 h
      | _, _ => s.complete c.seq 3)

/-! ## Page tables, types and pairs (R134, R337, R364 to R367) -/

/-- The bytes that an entry of a level maps. -/
def levelSpan (level : Nat) : Nat :=
  match level with
  | 4 => 2 ^ 48
  | 3 => 2 ^ 39
  | 2 => 2 ^ 30
  | 1 => 2 ^ 21
  | _ => 2 ^ 16
/-- The table of a level on the path of an address. -/
def State.tableAt (s : State) (va level : Nat) : Nat → Nat → Option Nat
  | 0, table => if level = 0 && !s.reservedPa table then some table else none
  | l + 1, table =>
    if s.reservedPa table then none
    else if level = l + 1 then some table
    else
      let e := s.homeWord (table + 8 * vaIndex (l + 1) va)
      let next := bits e 63 20 * 2 ^ 8
      if e.getLsbD 0 && !e.getLsbD 1 && bits e 19 2 = 0 && next % tableSize l = 0 then s.tableAt va level l next else none
/-- An entry that may stand at a level (R365). -/
def State.entryFits (s : State) (level : Nat) (e : Word) : Bool :=
  e.getLsbD 0 && (if e.getLsbD 1 then s.leafOk level e
    else decide (level ≠ 0) && bits e 19 2 = 0 && (bits e 63 20 * 2 ^ 8) % tableSize (level - 1) = 0)
/-- An entry is written, once the accesses translated by the old one have been performed, and the translations that it gave
are dropped (R367). -/
def State.setEntry (s : State) (p : Nat) (q : Part) (table va level : Nat) (e : Word) : State :=
  let s := s.settleAccess q
  let a := table + 8 * vaIndex level va
  let s := s.agentWrite (((List.range 8).map (a + ·)).zip (leBytes 8 e.toNat))
  let n := levelSpan level
  let keep := fun (t : TlbEntry) => !(t.part = p && (t.page * t.size / n = va / n || va / t.size = t.page))
  { s with
    boards := s.boards.map fun (b : Nat × Board) => (b.1, { b.2 with tlb := b.2.tlb.filter keep })
    cores := s.cores.map fun (c : Nat × Core) => (c.1, { c.2 with utlb := c.2.utlb.filter keep }) }
/-- The writer limit of the keeping region that a page maps, which the loader gives with the page; 0 leaves it (R89, R293; log 13). -/
def State.setLimit (s : State) (p : Nat) (e : Word) (n : Nat) : State :=
  if pteType e = 1 && e.getLsbD 1 && 1 ≤ n && n ≤ 64 then s.onRegion p (pteAux e) fun g => { g with limit := n } else s
/-- MAP and UNMAP share their form; an address with no table at that level is BAD. -/
def State.mapCmd (s : State) (c : Cmd) (p : Nat) (q : Part) (e : Word) (ok : Bool) : State :=
  let va := (c.word 1).toNat
  let level := (c.word 3).toNat
  match (if 2 ^ 56 ≤ va || 4 < level || va % levelSpan level ≠ 0 || !ok then none else s.tableAt va level 4 q.root) with
  | none => s.complete c.seq 3
  | some table => ((s.setEntry p q table va level e).setLimit p e s.opnd.c).complete c.seq 0
/-- MAP and UNMAP wait for the accesses of their partition that a link or a retry holds (R367). -/
def State.mapWaits (s : State) : Bool := s.cmdPart.any fun x => (s.settleAccess x.2).accessLeft x.1 x.2
/-- `map`; the event's `c` is the writer limit of a KEEP page's region (R293, R365, R367). -/
def execMap (s : State) : Host.Outcome State Fault Refusal :=
  .next (if s.mapWaits then s else s.partCmd 0x09 [ones, ones, 7] fun s c p q =>
    s.mapCmd c p q (c.word 2) (s.entryFits (c.word 3).toNat (c.word 2)))
/-- `unmap` (R367). -/
def execUnmap (s : State) : Host.Outcome State Fault Refusal :=
  .next (if s.mapWaits then s else s.partCmd 0x0A [ones, ones, 7] fun s c p q => s.mapCmd c p q 0 true)
/-- A type image that may be installed (R134). -/
def imageOk (w : Nat → Word) : Bool :=
  let k := w 1
  bits (w 0) 63 56 = 0 && !(w 0).getLsbD 0 && 1 ≤ bits k 5 0 && bits k 5 0 ≤ 48 && bits k 7 6 ≠ 3 && bits k 12 8 ≤ 23
    && bits k 19 17 = 0 && bits k 63 32 = 0 && -1074 ≤ sgn 12 (bits k 31 20) && sgn 12 (bits k 31 20) ≤ 1023
    && w 2 = 0 && w 4 = 0 && w 5 = 0 && w 6 = 0 && w 7 = 0
/-- `type` (R134). An image that is not aligned to its words is BAD (log 62). -/
def execType (s : State) : Host.Outcome State Fault Refusal :=
  .next (if s.wordsWait 8 then s else s.partCmd 0x0B [0xFF, ones] fun s c p q =>
    if (c.word 2).toNat % 8 ≠ 0 then s.complete c.seq 3
    else
      let s := s.bringWords 8
      match s.vaWords p q (c.word 2).toNat 8 with
      | none => s.complete c.seq 3
      | some ws =>
        let w := fun i => (ws[i]?).getD 0
        if !imageOk w then s.complete c.seq 3
        else (s.onPart p fun q => { q with types := Tbl.put none q.types (c.word 1).toNat (some ⟨c.word 2, w 0, w 1⟩) }).complete
          c.seq 0)
/-- A side of a pair: every page of it is backed, in no reserved range and in no keeping window (R337, R349, R350; log 26). -/
def State.sideOk (s : State) (a n : Nat) : Bool :=
  decide (a + n ≤ 2 ^ 52) && (List.range (n / 2 ^ 16)).all fun i => !s.badPa 8 (a + i * 2 ^ 16)
/-- `pair`: a night-copy pair is created or destroyed (R337; log 26). -/
def execPair (s : State) : Host.Outcome State Fault Refusal :=
  .next (s.partCmd 0x0D [0x13F, ones, ones, ones, ones] fun s c p q =>
    let i := bits (c.word 1) 5 0
    let have' := q.pairs.any fun (e : Nat × Pair) => e.1 = i
    let page := fun (w : Word) => w.toNat % 2 ^ 16 = 0
    if (c.word 1).getLsbD 8 then
      if !have' || (c.word 2 ||| c.word 3 ||| c.word 4 ||| c.word 5) ≠ 0 then s.complete c.seq 3
      else if (s.pair? p i).any fun r => r.flip.isSome then s.complete c.seq 9
      else (s.onPart p fun q => { q with pairs := Tbl.erase i q.pairs }).complete c.seq 0
    else if have' then s.complete c.seq 9
    else if c.word 3 = 0 || !page (c.word 2) || !page (c.word 3) || !page (c.word 4) || !page (c.word 5)
        || !s.sideOk (c.word 4).toNat (c.word 3).toNat || !s.sideOk (c.word 5).toNat (c.word 3).toNat then s.complete c.seq 3
    else
      let r : Pair := ⟨c.word 2, (c.word 3).toNat, (c.word 4).toNat, (c.word 5).toNat, none⟩
      (s.onPart p fun q => { q with pairs := Tbl.set q.pairs i r }).complete c.seq 0)

/-! ## Keeping regions (R306, R309) -/

/-- The cells of a region that hold more than one value (R306). -/
def State.multiCells (s : State) (p r : Nat) : List Nat := (s.region p r).cells.filter fun a => 1 < (s.cellVals a).length
/-- The lists of a region: of each home the cells that hold more than one value, 65,536 at most (R306; log 58). -/
def State.keptLists (s : State) (p r : Nat) : List Nat :=
  let l := s.multiCells p r
  ((l.map s.keepHome).eraseDups).flatMap fun h => (l.filter fun a => s.keepHome a = h).take 65536
/-- `klist`: the cells that the homes list for a region, by physical address, and its scan mark (R306, R309; log 22). -/
def execKlist (s : State) : Host.Outcome State Fault Refusal :=
  .next (s.partCmd 0x0E [0xFFF, 0, 0, 0, 0, 0, ones] fun s c p _ =>
    let r := (c.word 1).toNat
    let l := s.keptLists p r
    if !bufferOk (c.word 7) then s.complete c.seq 3
    else (s.toHost (c.word 7) (l.map (BitVec.ofNat 64))).complete c.seq 0 (BitVec.ofNat 64 l.length)
      (if (s.region p r).scan then 1 else 0))
/-- `kreset`: at a phase boundary, once no cell of the region holds more than one value (R309). -/
def execKreset (s : State) : Host.Outcome State Fault Refusal :=
  .next (s.partCmd 0x0F [0xFFF] fun s c p q =>
    let r := (c.word 1).toNat
    let n := (s.multiCells p r).length
    if q.phaseOpen || q.run ≠ .running then s.complete c.seq 26
    else if n ≠ 0 then s.complete c.seq 26 (BitVec.ofNat 64 n)
    else
      let g := s.region p r
      let s := s.each g.cells fun s a => s.setCell a [⟨(topVal (s.cellVals a)).val, 0, 0, false, false, none⟩]
      let s := s.each q.watches fun s k => s.each (List.range 4) fun s i =>
        if ((s.watch k).enrol i).valid && ((s.watch k).enrol i).region = r then s.onWatch k fun w => w.setEnrol i Enrol.fresh else s
      let s := { s with clocks := s.clocks.filter fun (x : CachedClock) => !(x.part = p && x.region = r) }
      (s.onRegion p r fun g => { Region.fresh with limit := g.limit }).complete c.seq 0)

/-! ## Splits (R352, R362) -/

/-- Linear independence of masks over the two-element field: none of their sums is zero. -/
def independent (l : List Nat) : Bool :=
  let sums := l.foldl (fun (acc : List Nat) m => acc ++ acc.map fun x => x ^^^ m) [0]
  (sums.filter (· = 0)).length = 1
/-- The domain of a list of slices, if its count is a power of two and its masks are independent (R352). -/
def domainOf (members masks : List Nat) : Option Domain :=
  match (List.range 7).find? fun c => 2 ^ c = members.length with
  | some c => if independent (masks.take c) && masks.all (· < 2 ^ 40) then some ⟨c, members, masks⟩ else none
  | none => none
/-- Host words that a command names by an aligned host address (log 22). -/
def State.hostWords (s : State) (a : Word) (n : Nat) : List Word := (List.range n).map fun i => s.homeWord (hostAddr (a.toNat + 8 * i))
/-- `split` (R362; log 27), at a phase boundary of every partition that uses the domain: the moved members and granules go to a domain that owns nothing, at T. -/
def execSplit (s : State) : Host.Outcome State Fault Refusal :=
  .next (s.partCmd 0x10 [63, 63, ones, ones, ones, ones] fun s c _ q =>
    let busy := s.parts.any fun (e : Nat × Option Part) => e.2.any fun o => o.domain = (c.word 1).toNat && o.phaseOpen
    let d := (c.word 1).toNat
    let e := (c.word 2).toNat
    let old := s.domains.get Domain.fresh d
    let owned := (s.granules.filter fun (g : Nat × Nat) => g.2 = d).map Prod.fst
    let moved := (List.range 64).filter (c.word 3).getLsbD
    let n := (s.homeNat (hostAddr (c.word 4).toNat) 8)
    let gs := (s.hostWords (c.word 4 + 8) (min n 2048)).map BitVec.toNat
    let masks := (s.hostWords (c.word 5) 12).map BitVec.toNat
    let newD := domainOf (old.members.filter fun x => !moved.contains x) (masks.take 6)
    let newE := domainOf moved (masks.drop 6)
    let eFree := (s.domains.get Domain.fresh e).members = [] && !s.granules.any fun (g : Nat × Nat) => g.2 = e
    let ok := q.domain = d && d ≠ e && eFree && moved.all old.members.contains && moved ≠ [] && gs.all owned.contains
      && gs ≠ [] && n ≤ 2048 && s.bell + 200 ≤ (c.word 6).toNat
    match newD, newE with
    | some x, some y =>
      if !ok then s.complete c.seq 3
      else if busy || s.split.isSome || (s.cells.any fun v => owned.contains (v.1 / 2 ^ 30) && decide (1 < v.2.length)) then
        s.complete c.seq 26
      else
        { s.clearGranules owned with
          split := some ⟨d, e, x, y, gs, (c.word 6).toNat, c.seq⟩ }
    | _, _ => s.complete c.seq 3)

/-! ## Switches, stops and frames (R383 to R393) -/

/-- A time at least 200 ticks ahead (R37). -/
def State.leads (s : State) (t : Word) : Bool := s.bell + 200 ≤ t.toNat
/-- `switch`: a gang switch is armed and its frames are reserved (R386). -/
def execSwitch (s : State) : Host.Outcome State Fault Refusal :=
  .next (s.partCmd 0x11 [ones] fun s c p q =>
    let n := s.framesOf q true
    if q.run ≠ .running then s.complete c.seq 26
    else if q.armed.isSome then s.complete c.seq 9
    else if !s.leads (c.word 1) then s.complete c.seq 3
    else if s.fw.frames < n then s.complete c.seq 27
    else
      let s := { s with fw := { s.fw with frames := s.fw.frames - n } }
      (s.onPart p fun q => { q with armed := some ((c.word 1).toNat, c.seq), reserved := n }).complete c.seq 0 (BitVec.ofNat 64 n))
/-- `resume`: of a partition switched out, or stopped by a debug halt or by firmware (R385, R389). -/
def execResume (s : State) : Host.Outcome State Fault Refusal :=
  .next (s.partCmd 0x12 [ones] fun s c p q =>
    let can := (q.run = .switched && q.short = 0) || q.run = .stopped 2 || q.run = .stopped 4
    if !can then s.complete c.seq 26
    else if q.resume.isSome then s.complete c.seq 9
    else if !s.leads (c.word 1) then s.complete c.seq 3
    else (s.onPart p fun q => { q with resume := some ((c.word 1).toNat, c.seq) }).complete c.seq 0)
/-- `stop`: a firmware stop, reason 4 (R383); its T is not used (R405). -/
def execStop (s : State) : Host.Outcome State Fault Refusal :=
  .next (s.partCmd 0x13 [ones] fun s c p q =>
    if q.run ≠ .running then s.complete c.seq 26 else (s.stop p 4 0 0 q.lowest).complete c.seq 0)
/-- `discard`: the frames of a dumped partition return (R391). -/
def execDiscard (s : State) : Host.Outcome State Fault Refusal :=
  .next (s.partCmd 0x14 [] fun s c p q =>
    if !q.dumped || (q.held = 0 && q.short = 0) then s.complete c.seq 26
    else
      let s := { s with fw := { s.fw with frames := s.fw.frames + q.held } }
      (s.onPart p fun q => { q with held := 0, short := 0 }).complete c.seq 0 (BitVec.ofNat 64 q.held))
/-- `duskadd` (R392). -/
def execDuskadd (s : State) : Host.Outcome State Fault Refusal :=
  .next (s.partCmd 0x15 [ones] fun s c p q =>
    let n := (q.dusk + (c.word 1).toNat) % 2 ^ 64
    if q.job.isNone then s.complete c.seq 26
    else (s.onPart p fun q => { q with dusk := n }).complete c.seq 0 (BitVec.ofNat 64 n))
/-- `frames`: HBM save frames join the free list, and dumps that ran out go on (R390, R391). -/
def execFrames (s : State) : Host.Outcome State Fault Refusal :=
  .next (s.deviceCmd 0x16 [ones, ones] fun s c =>
    let a := (c.word 1).toNat
    let n := (c.word 2).toNat
    let last := a + 4096 * n
    if a % 4096 ≠ 0 || n = 0 || 12 * 2 ^ 36 < last || a / 2 ^ 36 ≠ (last - 1) / 2 ^ 36 || 59 * 2 ^ 30 < a % 2 ^ 36 + 4096 * n then
      s.complete c.seq 3
    else
      let s := ({ s with fw := { s.fw with frames := s.fw.frames + n } }).fillShort
      s.complete c.seq 0 (BitVec.ofNat 64 s.fw.frames))

/-! ## Attestation and configuration (R400, R408 to R410) -/

/-- The report that ATTEST signs (R410; its layout is the model's, log 22). -/
def State.attestation (s : State) (nonce : List Word) : List Byte :=
  let words := fun (l : List Word) => l.flatMap fun w => leBytes 8 w.toNat
  words nonce ++ (sm3 Config.rom :: s.fw.record.digest :: s.fw.exts).flatMap (fun d => beBytes 32 d.toNat)
    ++ words ([BitVec.ofNat 64 s.fw.fwver, BitVec.ofNat 64 s.fw.record.version] ++ s.enabledParts ++ [BitVec.ofNat 64 s.bell])
/-- The numbers that a signature may use: free values (R409; log 21). -/
def State.signNumbers (s : State) : List Nat :=
  (List.range 4).map fun i => ((List.range 4).foldl (fun v j => 2 ^ 64 * v + (Config.freeWord (s.free + 4 * i + j)).toNat) 0) % (sm2N - 1) + 1
/-- `attest` (R410). -/
def execAttest (s : State) : Host.Outcome State Fault Refusal :=
  .next (s.deviceCmd 0x17 [ones, ones, ones, ones, 0, 0, ones] fun s c =>
    if !bufferOk (c.word 7) then s.complete c.seq 3
    else
      let bytes := s.attestation [c.word 1, c.word 2, c.word 3, c.word 4]
      let all := bytes ++ signatureOf bytes s.signNumbers ++ s.fw.record.cert
      ({ s with free := s.free + 16 }.hostWrite (hostAddr (c.word 7).toNat) all).complete c.seq 0 (BitVec.ofNat 64 all.length))
/-- The bytes that CFGWRITE and EXTLOAD name. -/
def State.hostImage (s : State) (c : Cmd) : List Byte := s.homeBytes (hostAddr (c.word 1).toNat) (c.word 2).toNat
/-- A record from its bytes, whose layout the specification does not give (log 21). -/
def recordOf (l : List Byte) : Record :=
  let f := Config.recordField l
  let many := fun (base : Nat) => (List.range (f base % 4096)).map fun i => f (base + 1 + i)
  { signed := true
    serial := f 2
    version := f 0
    offRods := many 0x10000
    offSlices := many 0x20000
    repairs := (many 0x30000).zip (many 0x40000)
    clock := f 1
    volt := f 3
    cap := f 4
    exts := (many 0x50000).map (BitVec.ofNat 256)
    cert := (many 0x60000).map (BitVec.ofNat 8)
    digest := sm3 l }
/-- `cfgwrite`: boot flash takes a signed record of a higher version (R408). -/
def execCfgwrite (s : State) : Host.Outcome State Fault Refusal :=
  .next (s.deviceCmd 0x18 [ones, ones] fun s c =>
    let l := s.hostImage c
    if !signatureOk l then s.complete c.seq 24
    else if (recordOf l).version ≤ s.fw.flash.version then s.complete c.seq 3
    else { s with fw := { s.fw with flash := recordOf l } }.complete c.seq 0)
/-- `extload`: a signed extension is loaded, and its image kept in boot flash (R407, R410; log 21). -/
def execExtload (s : State) : Host.Outcome State Fault Refusal :=
  .next (s.deviceCmd 0x19 [ones, ones] fun s c =>
    let l := s.hostImage c
    if !signatureOk l then s.complete c.seq 24
    else { s with fw := { s.fw with exts := s.fw.exts ++ [sm3 l], images := s.fw.images ++ [l] } }.complete c.seq 0)
/-- `linkreset`: a link comes up again, with nothing lost (R400). -/
def execLinkreset (s : State) : Host.Outcome State Fault Refusal :=
  .next (s.deviceCmd 0x1A [15] fun s c =>
    if 12 ≤ (c.word 1).toNat then s.complete c.seq 3
    else (s.onLink (c.word 1).toNat fun l =>
      if l.up then l else { l with up := true, retrain := none, acked := l.sent, lost := 0, lostFirst := l.sent }).complete c.seq 0)
/-- `extensionCommand`: a loaded extension serves it, in a way the specification does not give; otherwise BAD (R410). -/
def execExtensionCommand (s : State) : Host.Outcome State Fault Refusal :=
  let c := s.opnd.cmd
  if s.fw.fwst ≠ 1 ∨ s.hostWaits ∨ c.op < 0x80 ∨ 0xFF < c.op ∨ c.seq ≠ (s.fw.fseen + 1) % 2 ^ 32 then .next s
  else if s.fw.exts ≠ [] then .refused (.extensionOwned c.op)
  else .next ({ s with fw := { s.fw with fseen := c.seq, taken := s.fw.taken ++ [c.seq] } }.complete c.seq 3)

end Sys2Proof.Machine
end

