-- ==== Sys2Proof/Machine/Outside.lean ====
section
/-!
DEFINITION. What reaches the device from outside: power-on and firmware restart, the register block, notify rings, links, the
host's and the peers' accesses (R35, R38, R143, R144, R363, R394 to R402, R406, R407).
-/
namespace Sys2Proof.Machine

/-! ## Boot (R16, R406, R407) -/

/-- The granules of backed memory (R351). -/
def backed : List Nat := (List.range 2048).filter fun g => (g < 768 || 1024 ≤ g) && g % 64 < 59
/-- The default interleave domain: the lowest slices that are enabled, as many as a power of two gives (R407; log 20). -/
def State.defaultDomain (s : State) : Domain :=
  let on := (List.range 64).filter s.sliceOn
  let c := (((List.range 7).filter fun c => 2 ^ c ≤ on.length).getLast?).getD 0
  ⟨c, on.take (2 ^ c), (List.range 6).map fun i => 2 ^ i⟩
/-- A record that boots: its signature is good, and every edge region keeps a slice (R407). -/
def Record.boots (r : Record) : Bool :=
  r.signed && (List.range 4).all fun e => (List.range 16).any fun i => !r.offSlices.contains (e * 16 + i)
/-- `powerOnReset`: the machine as after reset, and the boot that follows. `v` is the greatest bell time of the peers that the
mask `c` names, `b` the mask of the links that train. The extensions that the record lists are loaded from the images in boot flash
whose signatures are good (R35, R38, R407). -/
def execPowerOnReset (s : State) : Host.Outcome State Fault Refusal :=
  let o := s.opnd
  let flash := s.fw.flash
  let r : State := { State.reset with
    schedule := s.schedule
    opnd := o
    fw := { Firmware.fresh with flash := flash, images := s.fw.images, record := flash, fwver := s.fw.fwver, rev := s.fw.rev } }
  .next (if !flash.boots then { r with fw := { r.fw with fwst := 2 } }
    else
      let peers := (List.range 32).filter (BitVec.ofNat 32 o.c).getLsbD
      { r with
        clock := flash.clock
        bell := if peers = [] then 0 else o.v.toNat
        links := Vector.ofFn fun i => ⟨(BitVec.ofNat 12 o.b).getLsbD i.val, none, 0, 0, 0, 0⟩
        domains := [(0, r.defaultDomain)]
        granules := backed.map fun g => (g, 0)
        hostVisible := backed
        fw := { r.fw with exts := flash.exts.filter fun d => s.fw.images.any fun l => sm3 l = d && signatureOk l, peers := peers, fwst := 1 } })
/-- `firmwareRestart`: firmware restarts, and shows it. Restarting, it writes the completions after `cph` again, completes the
commands that it had taken and not finished with RESTARTED, and takes commands again (R406). -/
def execFirmwareRestart (s : State) : Host.Outcome State Fault Refusal :=
  .next (if s.fw.fwst = 1 then { s with fw := { s.fw with fwst := 3 } }
    else if s.fw.fwst ≠ 3 || s.hostWaits then s
    else
      let l := s.fw.log.drop (s.fw.log.length - (s.fw.fcomp + 2 ^ 32 - s.fw.cph) % 2 ^ 32)
      let first := s.fw.fcomp + 1 + 2 ^ 32 - l.length
      let s := match ringSize s.fw.cpb with
        | some n => s.each l.zipIdx fun s e => s.writeCompletion n ((first + e.2) % 2 ^ 32) e.1
        | none => s
      let s := { s with fw := { s.fw with fwst := 1 } }
      (s.each s.fw.taken fun s c => s.complete c 25).flush s.fw.waiting.length)

/-! ## The register block and notify pages (R143, R144, R395) -/

/-- The register at an offset of the block, as the host reads it; an offset that names none reads 0 (R395; log 22). -/
def State.register (s : State) (a : Nat) : Word :=
  match a with
  | 0x00 => packWord [(s.fw.part, 16), (s.fw.rev, 16), (s.fw.fwver, 32)]
  | 0x08 => packWord [(s.fw.fwst, 2)]
  | 0x10 => s.fw.cqb
  | 0x18 => s.fw.cpb
  | 0x20 => packWord [(s.fw.cqt, 32)]
  | 0x28 => packWord [(s.fw.fseen, 32)]
  | 0x30 => packWord [(s.fw.cph, 32)]
  | 0x38 => packWord [(s.fw.fcomp, 32)]
  | 0x40 => s.lnk
  | _ => 0
/-- What a read from outside returned: the word, or poison. -/
def State.answer (s : State) (v : Option Word) : State :=
  { s with fw := { s.fw with readout := v.getD 0, poison := v.isNone } }
/-- `registerWrite`: the host accesses the register at offset `a`: it writes `v`, which only `cqb`, `cpb`, `cqt` and `cph` take, or,
where `c` is 1, reads it (R395). -/
def execRegisterWrite (s : State) : Host.Outcome State Fault Refusal :=
  let v := s.opnd.v
  let ring : Word := v &&& ~~~0xFF0
  let low := bits v 31 0
  .next (if s.opnd.c = 1 then s.answer (some (s.register s.opnd.a)) else match s.opnd.a with
    | 0x10 => { s with fw := { s.fw with cqb := ring } }
    | 0x18 => { s with fw := { s.fw with cpb := ring } }.flush s.fw.waiting.length
    | 0x20 => { s with fw := { s.fw with cqt := low } }
    | 0x30 => { s with fw := { s.fw with cph := low } }.flush s.fw.waiting.length
    | _ => s)
/-- The core of index `i` of a launch (R23). -/
def Desc.coreOf (d : Desc) (q : Part) (i : Nat) : Nat :=
  let cs := d.cores q
  let j := if d.policy = 0 then i * cs.length / d.n else if d.policy = 1 then i % cs.length else 0
  (cs[j]?).getD 0
/-- A ring field that holds `w` admits indices of the bound launch (R144). -/
def State.admitIndices (s : State) (p : Nat) (q : Part) (g : NotifyPage) (w : Nat) : State :=
  let v := q.launchAt g.launch
  if w ≤ g.adm || v.cancelled || !v.notify || !v.used then s
  else
    let w2 := min w (min (g.adm + 63) g.n)
    let tasks := ((List.range (w2 - g.adm)).map (g.adm + ·)).map fun i =>
      let e := g.pa + 64 * (i % 63 + 1)
      (Desc.coreOf v.desc q i,
        s.indexTask p g.launch v .notify #v[s.homeWord e, s.homeWord (e + 8), s.homeWord (e + 16), s.homeWord (e + 24)])
    let s := s.onPart p fun q => { q with
      admitted := q.admitted ++ tasks
      pages := Tbl.set q.pages g.pa { g with adm := w2 } }
    s.deviceWrite (((List.range 8).map (g.pa + 8 + ·)).zip (leBytes 8 w2))
/-- `ringWrite`: the host writes `v` to the ring field of the notify page at physical address `b` of partition `a`; or, where `c` is
1, it has been written. The oldest write that the page has seen is acted on (R144). -/
def execRingWrite (s : State) : Host.Outcome State Fault Refusal :=
  let pa := s.opnd.b
  let p := s.opnd.a
  .next (match (s.part? p).bind fun q => (q.pages.find? fun (e : Nat × NotifyPage) => e.2.pa = pa).map fun e => (q, e.2) with
    | none => s
    | some (q, g) =>
      let w := if s.opnd.c = 1 then [] else [s.opnd.v.toNat]
      let s := if s.opnd.c = 1 then s else s.agentWrite (((List.range 8).map (pa + ·)).zip (leBytes 8 s.opnd.v.toNat))
      match g.seen ++ w with
      | [] => s
      | n :: t =>
        let g := { g with seen := t }
        let s := s.onPart p fun q => { q with pages := Tbl.set q.pages g.pa g }
        s.admitIndices p q g n)

/-! ## Links (R399, R400) -/

/-- `linkRetrain`: link `a` loses lock and retrains (R399). -/
def execLinkRetrain (s : State) : Host.Outcome State Fault Refusal :=
  .next (s.onLink s.opnd.a fun l => if l.up && l.retrain.isNone then { l with retrain := some s.bell } else l)
/-- The loads that wait for a link are performed, where it retrains no more; behind a link that is down they meet an error (R399,
R400). -/
def State.linkLoadsGo (s : State) : State :=
  let (wait, go) := s.linkLoads.partition fun q => s.behindRetrain q.addr && !s.cutOff q.addr
  ({ s with linkLoads := wait }).each go State.startLoad
/-- The device's own adds that wait for a link are made, where it retrains no more, or discarded behind one that is down (R399,
R400). -/
def State.linkAddsGo (s : State) : State :=
  let l := s.adds
  { s with adds := [] }.each l State.addAt
/-- `linkReturn`: link `a` returns within 200 µs: the loads that wait for it are performed, the writes reach their homes once each,
from then on, and firmware's completions are written (R399). -/
def execLinkReturn (s : State) : Host.Outcome State Fault Refusal :=
  let n := s.opnd.a % 12
  .next (match (s.linkAt n).retrain with
    | none => s
    | some t =>
      if t + 20000 < s.bell then s
      else
        let s := (s.onLink n fun l => { l with retrain := none }).linkLoadsGo.linkAddsGo
        s.flush s.fw.waiting.length)
/-- `linkDown`: link `a` has not returned within 200 µs, or its training fails (`c` is 1). What was sent and not acknowledged is
lost, in this link's window alone where it is a module of the host's, the loads that wait for it meet an error, and the fences that
wait on it end with LINKLOSS as their paths go on (R400). -/
def execLinkDown (s : State) : Host.Outcome State Fault Refusal :=
  let n := s.opnd.a % 12
  .next (match (s.linkAt n).retrain with
    | none => s
    | some t =>
      if s.bell < t + 20000 && s.opnd.c ≠ 1 then s
      else
        let (gone, stay) := s.stores.partition fun (f : StoreFl) => !f.applied && f.bytes.any fun e => (s.linksOf e.1).contains n
        let s := ({ s with stores := stay }).each gone fun s f => match f.waits with
          | some k => s.ended k f.ticket
          | none => s
        let s := s.onLink n fun l =>
          { l with up := false, retrain := none, lostFirst := l.acked, lost := (l.sent + 2 ^ 32 - l.acked) % 2 ^ 32 }
        let s := s.each ((List.range 4).filter fun m => n < 4 && m ≠ n) fun s m =>
          s.onLink m fun l => { l with acked := l.sent }
        let s := s.linkLoadsGo.linkAddsGo.report 0x15 255 (lossRecord (s.linkAt n) n).toNat
        s.flush s.fw.waiting.length)

/-! ## Host and peers in device memory (R363, R396, R397, R401, R402) -/

/-- An address of a host-visible granule (R394, R396). -/
def State.visible (s : State) (a : Nat) : Bool :=
  (match s.paKind a with | .tier => true | _ => false) && s.hostVisible.contains (a / 2 ^ 30)
/-- An 8-byte read at the home: the highest-dot values of KEEP cells stand in memory (R305, R396). -/
def State.outsideRead (s : State) (a : Nat) : State :=
  if s.poisoned a 8 then s.answer none
  else
    let s := s.needLine (a / 64) false
    s.answer (some (s.homeWord a))
/-- A write of bytes of one line at the home: the KEEP values it meets are replaced, with dot 0; where a cell that it writes
holds more than one value it changes nothing and is poisoned (R396). -/
def State.outsideWrite (s : State) (bytes : List (Nat × Byte)) : State :=
  let cells := (bytes.map fun e => e.1 / 4 * 4).eraseDups
  let s := s.each ((bytes.map (·.1 / 64)).eraseDups) fun s l => s.needLine l false
  if cells.any fun c => 1 < (s.cellVals c).length then s.answer none
  else
    let s := s.agentWrite bytes
    { s with cells := cells.foldl (fun t c => Tbl.erase c t) s.cells }.answer (some 0)
/-- An atomic of `n` bytes at the home, which answers with the old value (R312, R401); of a KEEP cell it changes the one value that it
holds, and marks it, and where a cell holds more it changes nothing and is poisoned (R315; log 45). -/
def State.outsideAtomic (s : State) (a : Nat) (o : AtOp) (n : Nat) (b c : Word) : State :=
  let cells := cellsOf a n
  if s.poisoned a n then s.answer none
  else
    let s := s.needLine (a / 64) false
    if cells.any fun x => 1 < (s.cellVals x).length then s.answer none
    else
      let old := s.homeNat a n
      let kept := (cells.filter fun x => s.cells.any (·.1 = x)).map fun x => (x, topVal (s.cellVals x))
      let s := s.agentWrite (((List.range n).map (a + ·)).zip (leBytes n (atNew o n old b c)))
      (s.each kept fun s x => s.setCell x.1 [{ x.2 with val := BitVec.ofNat 32 (s.homeNat x.1 4), mark := true }]).answer
        (some (BitVec.ofNat 64 old))
/-- A request from outside is performed at its home. -/
def State.outsideDo (s : State) (a : Nat) (act : OutAct) : State :=
  match act with
  | .read => s.outsideRead a
  | .write l => s.outsideWrite l
  | .atomic o n b c => s.outsideAtomic a o n b c
/-- The slice that homed a line under the mapping that the last split replaced (R363). -/
def State.homeBefore (s : State) (a : Nat) : Nat := State.homeSlice { s with domains := s.before.1, granules := s.before.2 } a
/-- A request of requester `r` that was routed to slice `c − 1` by the mapping before a split, and is homed there no longer, is
answered REMAP, and waits to be replayed; the requester holds its later accesses to the line (R363). -/
def State.outsideAccess (s : State) (r c a : Nat) (act : OutAct) : State :=
  if s.remaps.any fun x => x.requester = r && x.addr / 64 = a / 64 then s
  else if s.before.1 ≠ [] && c ≠ 0 && c - 1 = s.homeBefore a && c - 1 ≠ s.homeSlice a then { s with remaps := s.remaps ++ [⟨r, a, act⟩] }
  else s.outsideDo a act
/-- The bytes that a write names: `v` at the word of its address, or, where `b` is not 0, the bytes of the line that the mask
`b` picks, from `v` and the words of `cmd`. -/
def State.written (s : State) : List (Nat × Byte) :=
  let o := s.opnd
  let line := o.a / 64 * 64
  if o.b = 0 then ((List.range 8).map (o.a / 8 * 8 + ·)).zip (leBytes 8 o.v.toNat)
  else
    let data := leBytes 8 o.v.toNat ++ (o.cmd.w.toList.flatMap fun w => leBytes 8 w.toNat)
    (data.zipIdx.filter fun e => o.b.testBit e.2).map fun e => (line + e.2, e.1)
/-- A CXL.mem request, of the host or, as requester 2, from an Ethernet port (R396, R402). -/
def State.cxl (s : State) (r : Nat) (act : OutAct) : State :=
  let a := s.opnd.a / 8 * 8
  if s.visible a then s.outsideAccess r s.opnd.c a act else s.answer none
/-- `cxlMemRead`: the host reads the word at address `a` (R396). -/
def execCxlMemRead (s : State) : Host.Outcome State Fault Refusal := .next (if s.hostWaits then s else s.cxl 0 .read)
/-- `cxlMemWrite`: the host writes bytes of the line at address `a` (R396). -/
def execCxlMemWrite (s : State) : Host.Outcome State Fault Refusal := .next (if s.hostWaits then s else s.cxl 0 (.write s.written))
/-- `rdmaWrite`: a remote write lands as a CXL.mem write does (R402). -/
def execRdmaWrite (s : State) : Host.Outcome State Fault Refusal := .next (s.cxl 2 (.write s.written))
/-- `remapReplay`: the request that `a` numbers is performed at the home the present mapping gives (R363). -/
def execRemapReplay (s : State) : Host.Outcome State Fault Refusal :=
  .next (match s.remaps[s.opnd.a]? with
    | none => s
    | some r =>
      if (s.remaps.take s.opnd.a).any fun x => x.requester = r.requester && x.addr / 64 = r.addr / 64 then s
      else { s with remaps := s.remaps.eraseIdx s.opnd.a }.outsideDo r.addr r.act)
/-- `hostSnoop`: the bridge answers a snoop to the host line at address `a` once the atomics on it have been applied, and gives
the line up where `c` is 1 (R397, R398). -/
def execHostSnoop (s : State) : Host.Outcome State Fault Refusal :=
  let a := s.opnd.a / 8 * 8
  .next (if s.hostWaits || !s.hostOwned.contains (a / 64) || s.atomq.any (fun q => q.pa / 64 = a / 64) then s
    else
      let s := s.answer (some (s.homeWord a))
      if s.opnd.c = 1 then { s with hostOwned := s.hostOwned.filter (· ≠ a / 64) } else s)
/-- The operations that act on their bytes as one value, in op8 order (R312). -/
def plainAtomics : List AtOp := [.aadd, .aand, .aor, .axor, .amin, .amax, .aminn, .amaxn, .axch, .acas, .afadd]
/-- What a peer's core does at an address, and how far the address is aligned down: as the event's `cmd.op` says, 0 a load of a word, 1 a
store, 2 an atomic, whose op8 and size code are in `b`, from bits 0 and 8, whose operands are `v` and word 1 of `cmd` (R401;
log 45). -/
def peerAct (s : State) : OutAct × Nat :=
  let o := s.opnd
  let op := (plainAtomics[o.b % 256]?).getD .aadd
  let n := if op = .afadd then 4 else 2 ^ (o.b / 256 % 4)
  match o.cmd.op with
  | 0 => (.read, 8)
  | 1 => (.write s.written, 8)
  | _ => (.atomic op n o.v ((o.cmd.w[0]?).getD 0), n)
/-- `peerLoad`: a core of a peer package loads, or stores or performs an atomic, at address `a` of this package, its home; an address
that holds nothing has no answer (R349, R401). -/
def execPeerLoad (s : State) : Host.Outcome State Fault Refusal :=
  let (act, n) := peerAct s
  let a := s.opnd.a / n * n
  if s.fw.peers = [] then .next s
  else match (if a < 2 ^ 46 then s.paKind a else .reserved) with
    | .tier => .next (s.outsideAccess 1 s.opnd.c a act)
    | .window _ _ => .next (s.outsideAccess 1 0 a act)
    | _ => .fault (.noSuchAddress a)

end Sys2Proof.Machine
end

