-- ==== Sys2Proof/Machine/UnitsParked.lean ====
section
/-!
DEFINITION. The triggers of `ls`, `at`, `ms`, `ce`, `tb` and `sy`, one meaning per operation over the one form of a trigger
word (R104, R126 to R145, R243, R257 to R263, R311 to R321, R344 to R347, R378).
-/
namespace Sys2Proof.Machine

/-- Loads one tensor element and widens it exactly to a transport form (R258). -/
def execLsLdt (a : Src) (g : Guard) (m : Bool) (s : State) : Host.Outcome State Fault Refusal :=
  .next (s.unitWord (.lsLdt a g m) (.ls .ldt) a g false)
/-- Narrows a transport form and stores it into one tensor element (R258). -/
def execLsStt (a : Src) (g : Guard) (m : Bool) (s : State) : Host.Outcome State Fault Refusal :=
  .next (s.unitWord (.lsStt a g m) (.ls .stt) a g false)
/-- Pins a cache line in its way for the watch within its quota (R259). -/
def execLsPin (a : Src) (g : Guard) (m : Bool) (s : State) : Host.Outcome State Fault Refusal :=
  .next (s.unitWord (.lsPin a g m) (.ls .pin) a g false)
/-- Releases the watch's pin on a line (R259). -/
def execLsUnpin (a : Src) (g : Guard) (m : Bool) (s : State) : Host.Outcome State Fault Refusal :=
  .next (s.unitWord (.lsUnpin a g m) (.ls .unpin) a g false)
/-- Starts a bulk prefetch of a range into its home slices with a token cell (R260). -/
def execLsPfr (a : Src) (g : Guard) (m : Bool) (s : State) : Host.Outcome State Fault Refusal :=
  .next (s.unitWord (.lsPfr a g m) (.ls .pfr) a g false)
/-- Reserves the tail slot of a FIFO bank, parking until it is FREE (R261). -/
def execLsPush (a : Src) (g : Guard) (m : Bool) (s : State) : Host.Outcome State Fault Refusal :=
  .next (s.unitWord (.lsPush a g m) (.ls .push) a g false)
/-- Releases the oldest taken slot and/or takes the head slot of a local FIFO bank once COMPLETE (R262). -/
def execLsPop (a : Src) (g : Guard) (m : Bool) (s : State) : Host.Outcome State Fault Refusal :=
  .next (s.unitWord (.lsPop a g m) (.ls .pop) a g false)
/-- Changes the mode of one bank of the board, subject to pins and FIFO emptiness (R263). -/
def execLsBmode (a : Src) (g : Guard) (m : Bool) (s : State) : Host.Outcome State Fault Refusal :=
  .next (s.unitWord (.lsBmode a g m) (.ls .bmode) a g false)
/-- Atomic add at the home returning the old value (R312). -/
def execAtAadd (a : Src) (g : Guard) (m : Bool) (s : State) : Host.Outcome State Fault Refusal :=
  .next (s.unitWord (.atAadd a g m) (.at .aadd) a g false)
/-- Atomic AND returning the old value (R312). -/
def execAtAand (a : Src) (g : Guard) (m : Bool) (s : State) : Host.Outcome State Fault Refusal :=
  .next (s.unitWord (.atAand a g m) (.at .aand) a g false)
/-- Atomic OR returning the old value (R312). -/
def execAtAor (a : Src) (g : Guard) (m : Bool) (s : State) : Host.Outcome State Fault Refusal :=
  .next (s.unitWord (.atAor a g m) (.at .aor) a g false)
/-- Atomic XOR returning the old value (R312). -/
def execAtAxor (a : Src) (g : Guard) (m : Bool) (s : State) : Host.Outcome State Fault Refusal :=
  .next (s.unitWord (.atAxor a g m) (.at .axor) a g false)
/-- Atomic signed minimum (R312). -/
def execAtAmin (a : Src) (g : Guard) (m : Bool) (s : State) : Host.Outcome State Fault Refusal :=
  .next (s.unitWord (.atAmin a g m) (.at .amin) a g false)
/-- Atomic signed maximum (R312). -/
def execAtAmax (a : Src) (g : Guard) (m : Bool) (s : State) : Host.Outcome State Fault Refusal :=
  .next (s.unitWord (.atAmax a g m) (.at .amax) a g false)
/-- Atomic unsigned minimum (R312). -/
def execAtAminn (a : Src) (g : Guard) (m : Bool) (s : State) : Host.Outcome State Fault Refusal :=
  .next (s.unitWord (.atAminn a g m) (.at .aminn) a g false)
/-- Atomic unsigned maximum (R312). -/
def execAtAmaxn (a : Src) (g : Guard) (m : Bool) (s : State) : Host.Outcome State Fault Refusal :=
  .next (s.unitWord (.atAmaxn a g m) (.at .amaxn) a g false)
/-- Atomic exchange (R312). -/
def execAtAxch (a : Src) (g : Guard) (m : Bool) (s : State) : Host.Outcome State Fault Refusal :=
  .next (s.unitWord (.atAxch a g m) (.at .axch) a g false)
/-- Atomic compare-and-swap (R312). -/
def execAtAcas (a : Src) (g : Guard) (m : Bool) (s : State) : Host.Outcome State Fault Refusal :=
  .next (s.unitWord (.atAcas a g m) (.at .acas) a g false)
/-- Atomic binary32 add rounded by RNE (R312). -/
def execAtAfadd (a : Src) (g : Guard) (m : Bool) (s : State) : Host.Outcome State Fault Refusal :=
  .next (s.unitWord (.atAfadd a g m) (.at .afadd) a g false)
/-- Collapses the siblings of a group of KEEP cells by an operator into one value with the reconciler's dot (R318). -/
def execAtRecon (a : Src) (g : Guard) (m : Bool) (s : State) : Host.Outcome State Fault Refusal :=
  .next (s.unitWord (.atRecon a g m) (.at .recon) a g false)
/-- Reads the sibling of rank k of a cell with its dot, joining the dot (R319). -/
def execAtLdsib (a : Src) (g : Guard) (m : Bool) (s : State) : Host.Outcome State Fault Refusal :=
  .next (s.unitWord (.atLdsib a g m) (.at .ldsib) a g false)
/-- Copies a 64-byte line read at its home at one instant into a board-store address (R320). -/
def execAtSnap (a : Src) (g : Guard) (m : Bool) (s : State) : Host.Outcome State Fault Refusal :=
  .next (s.unitWord (.atSnap a g m) (.at .snap) a g false)
/-- Enrols the watch in a keeping region's lowest free writer slot (R321). -/
def execAtWslot (a : Src) (g : Guard) (m : Bool) (s : State) : Host.Outcome State Fault Refusal :=
  .next (s.unitWord (.atWslot a g m) (.at .wslot) a g false)
/-- Ends the watch's enrolment in a region, retiring its slot (R321). -/
def execAtWdrop (a : Src) (g : Guard) (m : Bool) (s : State) : Host.Outcome State Fault Refusal :=
  .next (s.unitWord (.atWdrop a g m) (.at .wdrop) a g false)
/-- Sends a TASK message to a destination core (R128). -/
def execMsSend (a : Src) (g : Guard) (m : Bool) (s : State) : Host.Outcome State Fault Refusal :=
  .next (s.unitWord (.msSend a g m) (.ms .send) a g false)
/-- Sends a CALL message naming a target and a continuation (R128). -/
def execMsCallat (a : Src) (g : Guard) (m : Bool) (s : State) : Host.Outcome State Fault Refusal :=
  .next (s.unitWord (.msCallat a g m) (.ms .callat) a g false)
/-- Sends a REPLY message to a continuation (R128). -/
def execMsReply (a : Src) (g : Guard) (m : Bool) (s : State) : Host.Outcome State Fault Refusal :=
  .next (s.unitWord (.msReply a g m) (.ms .reply) a g false)
/-- Sends a CODE message carrying up to five words of code (R128). -/
def execMsSendc (a : Src) (g : Guard) (m : Bool) (s : State) : Host.Outcome State Fault Refusal :=
  .next (s.unitWord (.msSendc a g m) (.ms .sendc) a g false)
/-- Sends a deposit into one slot of an object, with residual class and optional wake (R135). -/
def execMsDep (a : Src) (g : Guard) (m : Bool) (s : State) : Host.Outcome State Fault Refusal :=
  .next (s.unitWord (.msDep a g m) (.ms .dep) a g false)
/-- Hands a collective entry to the die's collective engine for a group (R145). -/
def execMsColl (a : Src) (g : Guard) (m : Bool) (s : State) : Host.Outcome State Fault Refusal :=
  .next (s.unitWord (.msColl a g m) (.ms .coll) a g false)
/-- Defines a group number of the partition from a group descriptor (R145). -/
def execMsGrp (a : Src) (g : Guard) (m : Bool) (s : State) : Host.Outcome State Fault Refusal :=
  .next (s.unitWord (.msGrp a g m) (.ms .grp) a g false)
/-- Reads a launch descriptor and installs a new launch in the pending-launch store, returning its handle (R142). -/
def execMsLaunch (a : Src) (g : Guard) (m : Bool) (s : State) : Host.Outcome State Fault Refusal :=
  .next (s.unitWord (.msLaunch a g m) (.ms .launch) a g false)
/-- Copies one PAD tile to the same offset in the masked neighbouring boards (R145). -/
def execMsMcast (a : Src) (g : Guard) (m : Bool) (s : State) : Host.Outcome State Fault Refusal :=
  .next (s.unitWord (.msMcast a g m) (.ms .mcast) a g false)
/-- Captures and appends linked command-chain entries to a copy engine chain (R344). -/
def execCeTail (a : Src) (g : Guard) (m : Bool) (s : State) : Host.Outcome State Fault Refusal :=
  .next (s.unitWord (.ceTail a g m) (.ce .tail) a g false)
/-- Reads a chain's done as an acquire (R345). -/
def execCeSeq (a : Src) (g : Guard) (m : Bool) (s : State) : Host.Outcome State Fault Refusal :=
  .next (s.unitWord (.ceSeq a g m) (.ce .seq) a g false)
/-- Parks the watch until a chain's done reaches a sequence number (R345). -/
def execCeWseq (a : Src) (g : Guard) (m : Bool) (s : State) : Host.Outcome State Fault Refusal :=
  .next (s.unitWord (.ceWseq a g m) (.ce .wseq) a g false)
/-- Arms a night-copy flip of a pair at bell time T from the watch (R346). -/
def execCePub (a : Src) (g : Guard) (m : Bool) (s : State) : Host.Outcome State Fault Refusal :=
  .next (s.unitWord (.cePub a g m) (.ce .pub) a g false)
/-- Stops a copy chain, ending unstarted entries HALTED (R347). -/
def execCeHalt (a : Src) (g : Guard) (m : Bool) (s : State) : Host.Outcome State Fault Refusal :=
  .next (s.unitWord (.ceHalt a g m) (.ce .halt) a g false)
/-- Checks a tensor header and binds it to a tensor id (R243). -/
def execTbTbind (a : Src) (g : Guard) (m : Bool) (s : State) : Host.Outcome State Fault Refusal :=
  .next (s.unitWord (.tbTbind a g m) (.tb .tbind) a g false)
/-- Unbinds a tensor id (R243). -/
def execTbTfree (a : Src) (g : Guard) (m : Bool) (s : State) : Host.Outcome State Fault Refusal :=
  .next (s.unitWord (.tbTfree a g m) (.tb .tfree) a g false)
/-- Stores a bound tensor entry to memory (R243). -/
def execTbTget (a : Src) (g : Guard) (m : Bool) (s : State) : Host.Outcome State Fault Refusal :=
  .next (s.unitWord (.tbTget a g m) (.tb .tget) a g false)
/-- Replaces the base, scale or kv field of a bound tensor entry (R243). -/
def execTbTset (a : Src) (g : Guard) (m : Bool) (s : State) : Host.Outcome State Fault Refusal :=
  .next (s.unitWord (.tbTset a g m) (.tb .tset) a g false)
/-- Reads the CSR with a computed number into sy.r (R378). -/
def execSyRd (a : Src) (g : Guard) (m : Bool) (s : State) : Host.Outcome State Fault Refusal :=
  .next (s.unitWord (.syRd a g m) (.sy .rd) a g false)
/-- Writes sy.a to the CSR with a computed number, reporting BAD or PRIV (R378). -/
def execSyWr (a : Src) (g : Guard) (m : Bool) (s : State) : Host.Outcome State Fault Refusal :=
  .next (s.unitWord (.syWr a g m) (.sy .wr) a g false)

end Sys2Proof.Machine
end

