-- ==== Sys2Proof/Machine/UnitsScalar.lean ====
section
/-!
DEFINITION. The triggers of the scalar timed units, one meaning per operation over the one form of a trigger word (R104, R109,
R110, R181 to R191).
-/
namespace Sys2Proof.Machine

/-- ia addition A + B modulo 2^64, or its 32-bit form (R109). -/
def execIaAdd (a : Src) (g : Guard) (w : Bool) (m : Bool) (s : State) : Host.Outcome State Fault Refusal :=
  .next (s.unitWord (.iaAdd a g w m) (.ia .add) a g w)
/-- ia subtraction A − B (R109). -/
def execIaSub (a : Src) (g : Guard) (w : Bool) (m : Bool) (s : State) : Host.Outcome State Fault Refusal :=
  .next (s.unitWord (.iaSub a g w m) (.ia .sub) a g w)
/-- ia bitwise AND (R109). -/
def execIaAnd (a : Src) (g : Guard) (m : Bool) (s : State) : Host.Outcome State Fault Refusal :=
  .next (s.unitWord (.iaAnd a g m) (.ia .andOp) a g false)
/-- ia bitwise OR (R109). -/
def execIaOr (a : Src) (g : Guard) (m : Bool) (s : State) : Host.Outcome State Fault Refusal :=
  .next (s.unitWord (.iaOr a g m) (.ia .orOp) a g false)
/-- ia bitwise XOR (R109). -/
def execIaXor (a : Src) (g : Guard) (m : Bool) (s : State) : Host.Outcome State Fault Refusal :=
  .next (s.unitWord (.iaXor a g m) (.ia .xor) a g false)
/-- ia A & ~B (R109). -/
def execIaAndn (a : Src) (g : Guard) (m : Bool) (s : State) : Host.Outcome State Fault Refusal :=
  .next (s.unitWord (.iaAndn a g m) (.ia .andn) a g false)
/-- ia left shift of A (R109). -/
def execIaShl (a : Src) (g : Guard) (w : Bool) (m : Bool) (s : State) : Host.Outcome State Fault Refusal :=
  .next (s.unitWord (.iaShl a g w m) (.ia .shl) a g w)
/-- ia logical right shift of A (R109). -/
def execIaShr (a : Src) (g : Guard) (w : Bool) (m : Bool) (s : State) : Host.Outcome State Fault Refusal :=
  .next (s.unitWord (.iaShr a g w m) (.ia .shr) a g w)
/-- ia arithmetic right shift of A (R109). -/
def execIaSar (a : Src) (g : Guard) (w : Bool) (m : Bool) (s : State) : Host.Outcome State Fault Refusal :=
  .next (s.unitWord (.iaSar a g w m) (.ia .sar) a g w)
/-- ia left rotation of A (R109). -/
def execIaRol (a : Src) (g : Guard) (w : Bool) (m : Bool) (s : State) : Host.Outcome State Fault Refusal :=
  .next (s.unitWord (.iaRol a g w m) (.ia .rol) a g w)
/-- ia signed minimum (R109). -/
def execIaMin (a : Src) (g : Guard) (w : Bool) (m : Bool) (s : State) : Host.Outcome State Fault Refusal :=
  .next (s.unitWord (.iaMin a g w m) (.ia .min) a g w)
/-- ia signed maximum (R109). -/
def execIaMax (a : Src) (g : Guard) (w : Bool) (m : Bool) (s : State) : Host.Outcome State Fault Refusal :=
  .next (s.unitWord (.iaMax a g w m) (.ia .max) a g w)
/-- ia unsigned minimum (R109). -/
def execIaMinn (a : Src) (g : Guard) (w : Bool) (m : Bool) (s : State) : Host.Outcome State Fault Refusal :=
  .next (s.unitWord (.iaMinn a g w m) (.ia .minn) a g w)
/-- ia unsigned maximum (R109). -/
def execIaMaxn (a : Src) (g : Guard) (w : Bool) (m : Bool) (s : State) : Host.Outcome State Fault Refusal :=
  .next (s.unitWord (.iaMaxn a g w m) (.ia .maxn) a g w)
/-- ia signed less-than, giving 1 or 0 (R109). -/
def execIaSlt (a : Src) (g : Guard) (w : Bool) (m : Bool) (s : State) : Host.Outcome State Fault Refusal :=
  .next (s.unitWord (.iaSlt a g w m) (.ia .slt) a g w)
/-- ia unsigned less-than, giving 1 or 0 (R109). -/
def execIaSltn (a : Src) (g : Guard) (w : Bool) (m : Bool) (s : State) : Host.Outcome State Fault Refusal :=
  .next (s.unitWord (.iaSltn a g w m) (.ia .sltn) a g w)
/-- ia equality test (R109). -/
def execIaSeq (a : Src) (g : Guard) (w : Bool) (m : Bool) (s : State) : Host.Outcome State Fault Refusal :=
  .next (s.unitWord (.iaSeq a g w m) (.ia .seq) a g w)
/-- ia inequality test (R109). -/
def execIaSne (a : Src) (g : Guard) (w : Bool) (m : Bool) (s : State) : Host.Outcome State Fault Refusal :=
  .next (s.unitWord (.iaSne a g w m) (.ia .sne) a g w)
/-- ia count of leading zeros of B (R109). -/
def execIaClz (a : Src) (g : Guard) (w : Bool) (m : Bool) (s : State) : Host.Outcome State Fault Refusal :=
  .next (s.unitWord (.iaClz a g w m) (.ia .clz) a g w)
/-- ia index of B's lowest set bit (R109). -/
def execIaFfs (a : Src) (g : Guard) (w : Bool) (m : Bool) (s : State) : Host.Outcome State Fault Refusal :=
  .next (s.unitWord (.iaFfs a g w m) (.ia .ffs) a g w)
/-- ia population count of B (R109). -/
def execIaPop (a : Src) (g : Guard) (w : Bool) (m : Bool) (s : State) : Host.Outcome State Fault Refusal :=
  .next (s.unitWord (.iaPop a g w m) (.ia .pop) a g w)
/-- ia byte reversal of B (R109). -/
def execIaBsw (a : Src) (g : Guard) (m : Bool) (s : State) : Host.Outcome State Fault Refusal :=
  .next (s.unitWord (.iaBsw a g m) (.ia .bsw) a g false)
/-- ia bit-field extract from A (R109). -/
def execIaBxt (a : Src) (g : Guard) (m : Bool) (s : State) : Host.Outcome State Fault Refusal :=
  .next (s.unitWord (.iaBxt a g m) (.ia .bxt) a g false)
/-- ia sign extension of A from n bits (R109). -/
def execIaSxt (a : Src) (g : Guard) (m : Bool) (s : State) : Host.Outcome State Fault Refusal :=
  .next (s.unitWord (.iaSxt a g m) (.ia .sxt) a g false)
/-- ia saturating signed addition (R109). -/
def execIaAdds (a : Src) (g : Guard) (w : Bool) (m : Bool) (s : State) : Host.Outcome State Fault Refusal :=
  .next (s.unitWord (.iaAdds a g w m) (.ia .adds) a g w)
/-- ia saturating signed subtraction (R109). -/
def execIaSubs (a : Src) (g : Guard) (w : Bool) (m : Bool) (s : State) : Host.Outcome State Fault Refusal :=
  .next (s.unitWord (.iaSubs a g w m) (.ia .subs) a g w)
/-- ia saturating absolute value of B (R109). -/
def execIaAbs (a : Src) (g : Guard) (w : Bool) (m : Bool) (s : State) : Host.Outcome State Fault Refusal :=
  .next (s.unitWord (.iaAbs a g w m) (.ia .abs) a g w)
/-- im low half of the product, latency 3 (R110). -/
def execImMul (a : Src) (g : Guard) (w : Bool) (m : Bool) (s : State) : Host.Outcome State Fault Refusal :=
  .next (s.unitWord (.imMul a g w m) (.im .mul) a g w)
/-- im high half of the signed product (R110). -/
def execImMulh (a : Src) (g : Guard) (w : Bool) (m : Bool) (s : State) : Host.Outcome State Fault Refusal :=
  .next (s.unitWord (.imMulh a g w m) (.im .mulh) a g w)
/-- im high half of the unsigned product (R110). -/
def execImMulhn (a : Src) (g : Guard) (w : Bool) (m : Bool) (s : State) : Host.Outcome State Fault Refusal :=
  .next (s.unitWord (.imMulhn a g w m) (.im .mulhn) a g w)
/-- im signed division truncated toward zero, latency 24 (R110). -/
def execImDiv (a : Src) (g : Guard) (w : Bool) (m : Bool) (s : State) : Host.Outcome State Fault Refusal :=
  .next (s.unitWord (.imDiv a g w m) (.im .div) a g w)
/-- im unsigned division (R110). -/
def execImDivn (a : Src) (g : Guard) (w : Bool) (m : Bool) (s : State) : Host.Outcome State Fault Refusal :=
  .next (s.unitWord (.imDivn a g w m) (.im .divn) a g w)
/-- im signed remainder (R110). -/
def execImRem (a : Src) (g : Guard) (w : Bool) (m : Bool) (s : State) : Host.Outcome State Fault Refusal :=
  .next (s.unitWord (.imRem a g w m) (.im .rem) a g w)
/-- im unsigned remainder (R110). -/
def execImRemn (a : Src) (g : Guard) (w : Bool) (m : Bool) (s : State) : Host.Outcome State Fault Refusal :=
  .next (s.unitWord (.imRemn a g w m) (.im .remn) a g w)
/-- fa fused A × B + C rounded once to bc (R184). -/
def execFaFma (a : Src) (g : Guard) (m : Bool) (s : State) : Host.Outcome State Fault Refusal :=
  .next (s.unitWord (.faFma a g m) (.fa .fma) a g false)
/-- fa fused A × B − C (R184). -/
def execFaFms (a : Src) (g : Guard) (m : Bool) (s : State) : Host.Outcome State Fault Refusal :=
  .next (s.unitWord (.faFms a g m) (.fa .fms) a g false)
/-- fa fused C − A × B (R184). -/
def execFaFnma (a : Src) (g : Guard) (m : Bool) (s : State) : Host.Outcome State Fault Refusal :=
  .next (s.unitWord (.faFnma a g m) (.fa .fnma) a g false)
/-- fa A + C rounded to bc (R184). -/
def execFaFadd (a : Src) (g : Guard) (m : Bool) (s : State) : Host.Outcome State Fault Refusal :=
  .next (s.unitWord (.faFadd a g m) (.fa .fadd) a g false)
/-- fa A − C rounded to bc (R184). -/
def execFaFsub (a : Src) (g : Guard) (m : Bool) (s : State) : Host.Outcome State Fault Refusal :=
  .next (s.unitWord (.faFsub a g m) (.fa .fsub) a g false)
/-- fa A × C rounded to bc (R184). -/
def execFaFmul (a : Src) (g : Guard) (m : Bool) (s : State) : Host.Outcome State Fault Refusal :=
  .next (s.unitWord (.faFmul a g m) (.fa .fmul) a g false)
/-- fa lesser of A and B, rounded to bc (R185). -/
def execFaFmin (a : Src) (g : Guard) (m : Bool) (s : State) : Host.Outcome State Fault Refusal :=
  .next (s.unitWord (.faFmin a g m) (.fa .fmin) a g false)
/-- fa greater of A and B, rounded to bc (R185). -/
def execFaFmax (a : Src) (g : Guard) (m : Bool) (s : State) : Host.Outcome State Fault Refusal :=
  .next (s.unitWord (.faFmax a g m) (.fa .fmax) a g false)
/-- fa C with its sign cleared (R185). -/
def execFaFabs (a : Src) (g : Guard) (m : Bool) (s : State) : Host.Outcome State Fault Refusal :=
  .next (s.unitWord (.faFabs a g m) (.fa .fabs) a g false)
/-- fa C with its sign inverted (R185). -/
def execFaFneg (a : Src) (g : Guard) (m : Bool) (s : State) : Host.Outcome State Fault Refusal :=
  .next (s.unitWord (.faFneg a g m) (.fa .fneg) a g false)
/-- fa |A| with the sign of C (R185). -/
def execFaFsgn (a : Src) (g : Guard) (m : Bool) (s : State) : Host.Outcome State Fault Refusal :=
  .next (s.unitWord (.faFsgn a g m) (.fa .fsgn) a g false)
/-- fa compare A < C, giving 1 or 0 (R186). -/
def execFaFclt (a : Src) (g : Guard) (m : Bool) (s : State) : Host.Outcome State Fault Refusal :=
  .next (s.unitWord (.faFclt a g m) (.fa .fclt) a g false)
/-- fa compare A ≤ C (R186). -/
def execFaFcle (a : Src) (g : Guard) (m : Bool) (s : State) : Host.Outcome State Fault Refusal :=
  .next (s.unitWord (.faFcle a g m) (.fa .fcle) a g false)
/-- fa compare A = C (R186). -/
def execFaFceq (a : Src) (g : Guard) (m : Bool) (s : State) : Host.Outcome State Fault Refusal :=
  .next (s.unitWord (.faFceq a g m) (.fa .fceq) a g false)
/-- fa unordered test of A and C (R186). -/
def execFaFcun (a : Src) (g : Guard) (m : Bool) (s : State) : Host.Outcome State Fault Refusal :=
  .next (s.unitWord (.faFcun a g m) (.fa .fcun) a g false)
/-- fa rounds C to bc in the current mode (R184). -/
def execFaFrnd (a : Src) (g : Guard) (m : Bool) (s : State) : Host.Outcome State Fault Refusal :=
  .next (s.unitWord (.faFrnd a g m) (.fa .frnd) a g false)
/-- fa rounds C to bc by round-to-odd (R184). -/
def execFaFrto (a : Src) (g : Guard) (m : Bool) (s : State) : Host.Outcome State Fault Refusal :=
  .next (s.unitWord (.faFrto a g m) (.fa .frto) a g false)
/-- fa converts C to a signed 64-bit integer, saturating (R187). -/
def execFaFcvi (a : Src) (g : Guard) (m : Bool) (s : State) : Host.Outcome State Fault Refusal :=
  .next (s.unitWord (.faFcvi a g m) (.fa .fcvi) a g false)
/-- fa converts the signed integer C to a bead value at bc (R188). -/
def execFaFicv (a : Src) (g : Guard) (m : Bool) (s : State) : Host.Outcome State Fault Refusal :=
  .next (s.unitWord (.faFicv a g m) (.fa .ficv) a g false)
/-- fa scales A by 2^C with C read as an integer (R184). -/
def execFaFexa (a : Src) (g : Guard) (m : Bool) (s : State) : Host.Outcome State Fault Refusal :=
  .next (s.unitWord (.faFexa a g m) (.fa .fexa) a g false)
/-- fd quotient A / C rounded to bc (R189). -/
def execFdFdiv (a : Src) (g : Guard) (m : Bool) (s : State) : Host.Outcome State Fault Refusal :=
  .next (s.unitWord (.fdFdiv a g m) (.fd .fdiv) a g false)
/-- fd square root of C rounded to bc (R189). -/
def execFdFsqrt (a : Src) (g : Guard) (m : Bool) (s : State) : Host.Outcome State Fault Refusal :=
  .next (s.unitWord (.fdFsqrt a g m) (.fd .fsqrt) a g false)
/-- sf correctly rounded sine of C (R191). -/
def execSfSin (a : Src) (g : Guard) (m : Bool) (s : State) : Host.Outcome State Fault Refusal :=
  .next (s.unitWord (.sfSin a g m) (.sf .sin) a g false)
/-- sf correctly rounded cosine of C (R191). -/
def execSfCos (a : Src) (g : Guard) (m : Bool) (s : State) : Host.Outcome State Fault Refusal :=
  .next (s.unitWord (.sfCos a g m) (.sf .cos) a g false)
/-- sf 2^C (R191). -/
def execSfExp2 (a : Src) (g : Guard) (m : Bool) (s : State) : Host.Outcome State Fault Refusal :=
  .next (s.unitWord (.sfExp2 a g m) (.sf .exp2) a g false)
/-- sf log2 C (R191). -/
def execSfLog2 (a : Src) (g : Guard) (m : Bool) (s : State) : Host.Outcome State Fault Refusal :=
  .next (s.unitWord (.sfLog2 a g m) (.sf .log2) a g false)
/-- sf reciprocal of C (R191). -/
def execSfRcp (a : Src) (g : Guard) (m : Bool) (s : State) : Host.Outcome State Fault Refusal :=
  .next (s.unitWord (.sfRcp a g m) (.sf .rcp) a g false)
/-- sf reciprocal square root of C (R191). -/
def execSfRsqrt (a : Src) (g : Guard) (m : Bool) (s : State) : Host.Outcome State Fault Refusal :=
  .next (s.unitWord (.sfRsqrt a g m) (.sf .rsqrt) a g false)
/-- sf hyperbolic tangent of C (R191). -/
def execSfTanh (a : Src) (g : Guard) (m : Bool) (s : State) : Host.Outcome State Fault Refusal :=
  .next (s.unitWord (.sfTanh a g m) (.sf .tanh) a g false)
/-- sf logistic sigmoid of C (R191). -/
def execSfSigm (a : Src) (g : Guard) (m : Bool) (s : State) : Host.Outcome State Fault Refusal :=
  .next (s.unitWord (.sfSigm a g m) (.sf .sigm) a g false)
/-- sf 2^(C − A) (R191). -/
def execSfExd (a : Src) (g : Guard) (m : Bool) (s : State) : Host.Outcome State Fault Refusal :=
  .next (s.unitWord (.sfExd a g m) (.sf .exd) a g false)

end Sys2Proof.Machine
end

