-- ==== Sys2Proof/Machine/UnitsVector.lean ====
section
/-!
DEFINITION. The triggers of `va`, `vx` and `mx`, one meaning per operation over the one form of a trigger word (R104, R203 to
R213, R217 to R236).
-/
namespace Sys2Proof.Machine

/-- va element-wise A × B + C, fused for float types (R205). -/
def execVaMad (a : Src) (t : VTy) (g : Guard) (m : Bool) (s : State) : Host.Outcome State Fault Refusal :=
  .next (s.unitWord (.vaMad a t g m) (.va .mad t) a g false)
/-- va element-wise A + C (R205). -/
def execVaAdd (a : Src) (t : VTy) (g : Guard) (m : Bool) (s : State) : Host.Outcome State Fault Refusal :=
  .next (s.unitWord (.vaAdd a t g m) (.va .add t) a g false)
/-- va element-wise A − C (R205). -/
def execVaSub (a : Src) (t : VTy) (g : Guard) (m : Bool) (s : State) : Host.Outcome State Fault Refusal :=
  .next (s.unitWord (.vaSub a t g m) (.va .sub t) a g false)
/-- va element-wise A × C (R205). -/
def execVaMul (a : Src) (t : VTy) (g : Guard) (m : Bool) (s : State) : Host.Outcome State Fault Refusal :=
  .next (s.unitWord (.vaMul a t g m) (.va .mul t) a g false)
/-- va element-wise minimum (R205). -/
def execVaMin (a : Src) (t : VTy) (g : Guard) (m : Bool) (s : State) : Host.Outcome State Fault Refusal :=
  .next (s.unitWord (.vaMin a t g m) (.va .min t) a g false)
/-- va element-wise maximum (R205). -/
def execVaMax (a : Src) (t : VTy) (g : Guard) (m : Bool) (s : State) : Host.Outcome State Fault Refusal :=
  .next (s.unitWord (.vaMax a t g m) (.va .max t) a g false)
/-- va element-wise unsigned minimum (R205). -/
def execVaMinn (a : Src) (t : VTy) (g : Guard) (m : Bool) (s : State) : Host.Outcome State Fault Refusal :=
  .next (s.unitWord (.vaMinn a t g m) (.va .minn t) a g false)
/-- va element-wise unsigned maximum (R205). -/
def execVaMaxn (a : Src) (t : VTy) (g : Guard) (m : Bool) (s : State) : Host.Outcome State Fault Refusal :=
  .next (s.unitWord (.vaMaxn a t g m) (.va .maxn t) a g false)
/-- va bitwise AND (R205). -/
def execVaAnd (a : Src) (t : VTy) (g : Guard) (m : Bool) (s : State) : Host.Outcome State Fault Refusal :=
  .next (s.unitWord (.vaAnd a t g m) (.va .andOp t) a g false)
/-- va bitwise OR (R205). -/
def execVaOr (a : Src) (t : VTy) (g : Guard) (m : Bool) (s : State) : Host.Outcome State Fault Refusal :=
  .next (s.unitWord (.vaOr a t g m) (.va .orOp t) a g false)
/-- va bitwise XOR (R205). -/
def execVaXor (a : Src) (t : VTy) (g : Guard) (m : Bool) (s : State) : Host.Outcome State Fault Refusal :=
  .next (s.unitWord (.vaXor a t g m) (.va .xor t) a g false)
/-- va element-wise left shift (R205). -/
def execVaShl (a : Src) (t : VTy) (g : Guard) (m : Bool) (s : State) : Host.Outcome State Fault Refusal :=
  .next (s.unitWord (.vaShl a t g m) (.va .shl t) a g false)
/-- va element-wise logical right shift (R205). -/
def execVaShr (a : Src) (t : VTy) (g : Guard) (m : Bool) (s : State) : Host.Outcome State Fault Refusal :=
  .next (s.unitWord (.vaShr a t g m) (.va .shr t) a g false)
/-- va element-wise arithmetic right shift (R205). -/
def execVaSar (a : Src) (t : VTy) (g : Guard) (m : Bool) (s : State) : Host.Outcome State Fault Refusal :=
  .next (s.unitWord (.vaSar a t g m) (.va .sar t) a g false)
/-- va element-wise absolute value (R205). -/
def execVaAbs (a : Src) (t : VTy) (g : Guard) (m : Bool) (s : State) : Host.Outcome State Fault Refusal :=
  .next (s.unitWord (.vaAbs a t g m) (.va .abs t) a g false)
/-- va element-wise negation (R205). -/
def execVaNeg (a : Src) (t : VTy) (g : Guard) (m : Bool) (s : State) : Host.Outcome State Fault Refusal :=
  .next (s.unitWord (.vaNeg a t g m) (.va .neg t) a g false)
/-- va compare A < C into element masks (R205). -/
def execVaClt (a : Src) (t : VTy) (g : Guard) (m : Bool) (s : State) : Host.Outcome State Fault Refusal :=
  .next (s.unitWord (.vaClt a t g m) (.va .clt t) a g false)
/-- va compare A ≤ C into element masks (R205). -/
def execVaCle (a : Src) (t : VTy) (g : Guard) (m : Bool) (s : State) : Host.Outcome State Fault Refusal :=
  .next (s.unitWord (.vaCle a t g m) (.va .cle t) a g false)
/-- va compare A = C into element masks (R205). -/
def execVaCeq (a : Src) (t : VTy) (g : Guard) (m : Bool) (s : State) : Host.Outcome State Fault Refusal :=
  .next (s.unitWord (.vaCeq a t g m) (.va .ceq t) a g false)
/-- va unsigned compare A < C (R205). -/
def execVaCltn (a : Src) (t : VTy) (g : Guard) (m : Bool) (s : State) : Host.Outcome State Fault Refusal :=
  .next (s.unitWord (.vaCltn a t g m) (.va .cltn t) a g false)
/-- va conversion of C from the source type in A to the target type, by part (R206). -/
def execVaCvt (a : Src) (t : VTy) (g : Guard) (m : Bool) (s : State) : Host.Outcome State Fault Refusal :=
  .next (s.unitWord (.vaCvt a t g m) (.va .cvt t) a g false)
/-- va conversion to a float type by round-to-odd (R206). -/
def execVaCvto (a : Src) (t : VTy) (g : Guard) (m : Bool) (s : State) : Host.Outcome State Fault Refusal :=
  .next (s.unitWord (.vaCvto a t g m) (.va .cvto t) a g false)
/-- va loop-bound mask: element i set when A + i < C (R207). -/
def execVaWhile (a : Src) (t : VTy) (g : Guard) (m : Bool) (s : State) : Host.Outcome State Fault Refusal :=
  .next (s.unitWord (.vaWhile a t g m) (.va .whileOp t) a g false)
/-- va element-wise leading-zero count (R205). -/
def execVaClz (a : Src) (t : VTy) (g : Guard) (m : Bool) (s : State) : Host.Outcome State Fault Refusal :=
  .next (s.unitWord (.vaClz a t g m) (.va .clz t) a g false)
/-- va element-wise index of the lowest set bit (R205). -/
def execVaFfs (a : Src) (t : VTy) (g : Guard) (m : Bool) (s : State) : Host.Outcome State Fault Refusal :=
  .next (s.unitWord (.vaFfs a t g m) (.va .ffs t) a g false)
/-- va element-wise population count (R205). -/
def execVaPop (a : Src) (t : VTy) (g : Guard) (m : Bool) (s : State) : Host.Outcome State Fault Refusal :=
  .next (s.unitWord (.vaPop a t g m) (.va .pop t) a g false)
/-- va element-wise correctly rounded 2^C, latency 8 (R205). -/
def execVaExp2 (a : Src) (t : VTy) (g : Guard) (m : Bool) (s : State) : Host.Outcome State Fault Refusal :=
  .next (s.unitWord (.vaExp2 a t g m) (.va .exp2 t) a g false)
/-- va element-wise reciprocal (R205). -/
def execVaRcp (a : Src) (t : VTy) (g : Guard) (m : Bool) (s : State) : Host.Outcome State Fault Refusal :=
  .next (s.unitWord (.vaRcp a t g m) (.va .rcp t) a g false)
/-- va element-wise reciprocal square root (R205). -/
def execVaRsq (a : Src) (t : VTy) (g : Guard) (m : Bool) (s : State) : Host.Outcome State Fault Refusal :=
  .next (s.unitWord (.vaRsq a t g m) (.va .rsq t) a g false)
/-- va selects A or C per element by the top bit of B (R205). -/
def execVaSel (a : Src) (t : VTy) (g : Guard) (m : Bool) (s : State) : Host.Outcome State Fault Refusal :=
  .next (s.unitWord (.vaSel a t g m) (.va .sel t) a g false)
/-- va fills elements with C element 0 plus the gang-global index (R205). -/
def execVaIota (a : Src) (t : VTy) (g : Guard) (m : Bool) (s : State) : Host.Outcome State Fault Refusal :=
  .next (s.unitWord (.vaIota a t g m) (.va .iota t) a g false)
/-- va broadcasts one C element selected by A to every element (R205). -/
def execVaDup (a : Src) (t : VTy) (g : Guard) (m : Bool) (s : State) : Host.Outcome State Fault Refusal :=
  .next (s.unitWord (.vaDup a t g m) (.va .dup t) a g false)
/-- vx gang-wide permutation of C by indices in A (R208). -/
def execVxPerm (a : Src) (g : Guard) (m : Bool) (s : State) : Host.Outcome State Fault Refusal :=
  .next (s.unitWord (.vxPerm a g m) (.vx .perm) a g false)
/-- vx gang-wide rotation of C by s (R208). -/
def execVxRot (a : Src) (g : Guard) (m : Bool) (s : State) : Host.Outcome State Fault Refusal :=
  .next (s.unitWord (.vxRot a g m) (.vx .rot) a g false)
/-- vx gang-wide shift of C by s with zero fill (R208). -/
def execVxShift (a : Src) (g : Guard) (m : Bool) (s : State) : Host.Outcome State Fault Refusal :=
  .next (s.unitWord (.vxShift a g m) (.vx .shift) a g false)
/-- vx interleaves halves of A and C (R208). -/
def execVxZip (a : Src) (g : Guard) (m : Bool) (s : State) : Host.Outcome State Fault Refusal :=
  .next (s.unitWord (.vxZip a g m) (.vx .zip) a g false)
/-- vx de-interleaves A and C (R208). -/
def execVxUnzip (a : Src) (g : Guard) (m : Bool) (s : State) : Host.Outcome State Fault Refusal :=
  .next (s.unitWord (.vxUnzip a g m) (.vx .unzip) a g false)
/-- vx gang-wide sum of C by a fixed tree (R209). -/
def execVxRsum (a : Src) (g : Guard) (m : Bool) (s : State) : Host.Outcome State Fault Refusal :=
  .next (s.unitWord (.vxRsum a g m) (.vx .rsum) a g false)
/-- vx gang-wide maximum of C (R209). -/
def execVxRmax (a : Src) (g : Guard) (m : Bool) (s : State) : Host.Outcome State Fault Refusal :=
  .next (s.unitWord (.vxRmax a g m) (.vx .rmax) a g false)
/-- vx gang-wide minimum of C (R209). -/
def execVxRmin (a : Src) (g : Guard) (m : Bool) (s : State) : Host.Outcome State Fault Refusal :=
  .next (s.unitWord (.vxRmin a g m) (.vx .rmin) a g false)
/-- vx gang-wide inclusive prefix sum of C (R209). -/
def execVxScan (a : Src) (g : Guard) (m : Bool) (s : State) : Host.Outcome State Fault Refusal :=
  .next (s.unitWord (.vxScan a g m) (.vx .scan) a g false)
/-- vx gang-wide maximum with its index in vx.q (R208). -/
def execVxAmax (a : Src) (g : Guard) (m : Bool) (s : State) : Host.Outcome State Fault Refusal :=
  .next (s.unitWord (.vxAmax a g m) (.vx .amax) a g false)
/-- vx compresses the masked elements of C with their count in vx.q (R208). -/
def execVxCmpr (a : Src) (g : Guard) (m : Bool) (s : State) : Host.Outcome State Fault Refusal :=
  .next (s.unitWord (.vxCmpr a g m) (.vx .cmpr) a g false)
/-- vx expands C into the masked positions (R208). -/
def execVxExpd (a : Src) (g : Guard) (m : Bool) (s : State) : Host.Outcome State Fault Refusal :=
  .next (s.unitWord (.vxExpd a g m) (.vx .expd) a g false)
/-- vx requests a lent v register of a neighbour core's watch for each member (R210). -/
def execVxNbr (a : Src) (g : Guard) (m : Bool) (s : State) : Host.Outcome State Fault Refusal :=
  .next (s.unitWord (.vxNbr a g m) (.vx .nbr) a g false)
/-- vx clears the top-k state and sets its type and limit k (R213). -/
def execVxTkclr (a : Src) (g : Guard) (m : Bool) (s : State) : Host.Outcome State Fault Refusal :=
  .next (s.unitWord (.vxTkclr a g m) (.vx .tkclr) a g false)
/-- vx merges the gang vector C with indices into the top-k pairs (R213). -/
def execVxTk (a : Src) (g : Guard) (m : Bool) (s : State) : Host.Outcome State Fault Refusal :=
  .next (s.unitWord (.vxTk a g m) (.vx .tk) a g false)
/-- vx reads ranked top-k values into vx.r and indices into vx.q (R213). -/
def execVxTkrd (a : Src) (g : Guard) (m : Bool) (s : State) : Host.Outcome State Fault Refusal :=
  .next (s.unitWord (.vxTkrd a g m) (.vx .tkrd) a g false)
/-- Rod operation running row-buffer rows through a slot into the accumulators (R233). -/
def execMxMmul (a : Src) (g : Guard) (m : Bool) (s : State) : Host.Outcome State Fault Refusal :=
  .next (s.unitWord (.mxMmul a g m) (.mx .mmul) a g false)
/-- Rod operation filling row-buffer rows from an F8 tensor (R232). -/
def execMxRowld (a : Src) (g : Guard) (m : Bool) (s : State) : Host.Outcome State Fault Refusal :=
  .next (s.unitWord (.mxRowld a g m) (.mx .rowld) a g false)
/-- Rod operation loading a tile slot of each core with weights, masks, scales and checksums (R231). -/
def execMxWld (a : Src) (g : Guard) (m : Bool) (s : State) : Host.Outcome State Fault Refusal :=
  .next (s.unitWord (.mxWld a g m) (.mx .wld) a g false)
/-- Rod operation making activation vectors resident in VEC slots of every core (R234). -/
def execMxMvset (a : Src) (g : Guard) (m : Bool) (s : State) : Host.Outcome State Fault Refusal :=
  .next (s.unitWord (.mxMvset a g m) (.mx .mvset) a g false)
/-- Rod operation streaming weight rows past resident vectors into accumulators (R235). -/
def execMxMmv (a : Src) (g : Guard) (m : Bool) (s : State) : Host.Outcome State Fault Refusal :=
  .next (s.unitWord (.mxMmv a g m) (.mx .mmv) a g false)
/-- Reads an accumulator row into eight v registers (R236). -/
def execMxAread (a : Src) (g : Guard) (m : Bool) (s : State) : Host.Outcome State Fault Refusal :=
  .next (s.unitWord (.mxAread a g m) (.mx .aread) a g false)
/-- Clears the accumulator rows named by a mask (R236). -/
def execMxAclr (a : Src) (g : Guard) (m : Bool) (s : State) : Host.Outcome State Fault Refusal :=
  .next (s.unitWord (.mxAclr a g m) (.mx .aclr) a g false)
/-- Returns a macro-check counter or slot spare record by selector (R236). -/
def execMxMchk (a : Src) (g : Guard) (m : Bool) (s : State) : Host.Outcome State Fault Refusal :=
  .next (s.unitWord (.mxMchk a g m) (.mx .mchk) a g false)

end Sys2Proof.Machine
end

