-- ==== Sys2Proof/Machine/Dispatch.lean ====
section
/-! DEFINITION. The dispatch: one arm per constructor of `Instr`. -/
namespace Sys2Proof.Machine

def exec (i : Instr) (s : State) : Host.Outcome State Fault Refusal :=
  match i with
  | .cCp d a0 m => Sys2Proof.Machine.execCCp d a0 m s
  | .cAdd d a0 m => Sys2Proof.Machine.execCAdd d a0 m s
  | .cSub d a0 m => Sys2Proof.Machine.execCSub d a0 m s
  | .cAnd d a0 m => Sys2Proof.Machine.execCAnd d a0 m s
  | .cOr d a0 m => Sys2Proof.Machine.execCOr d a0 m s
  | .cXor d a0 m => Sys2Proof.Machine.execCXor d a0 m s
  | .cShl d a0 m => Sys2Proof.Machine.execCShl d a0 m s
  | .cShr d a0 m => Sys2Proof.Machine.execCShr d a0 m s
  | .cSar d a0 m => Sys2Proof.Machine.execCSar d a0 m s
  | .cMul d a0 m => Sys2Proof.Machine.execCMul d a0 m s
  | .cMin d a0 m => Sys2Proof.Machine.execCMin d a0 m s
  | .cMax d a0 m => Sys2Proof.Machine.execCMax d a0 m s
  | .cMinn d a0 m => Sys2Proof.Machine.execCMinn d a0 m s
  | .cMaxn d a0 m => Sys2Proof.Machine.execCMaxn d a0 m s
  | .cAndn d a0 m => Sys2Proof.Machine.execCAndn d a0 m s
  | .cAddi d n0 m => Sys2Proof.Machine.execCAddi d n0 m s
  | .toWord a0 d g m => Sys2Proof.Machine.execTo a0 d g m s
  | .t2 a0 d a b m => Sys2Proof.Machine.execT2 a0 d a b m s
  | .ti d n0 m => Sys2Proof.Machine.execTi d n0 m s
  | .li d n0 m => Sys2Proof.Machine.execLi d n0 m s
  | .lh d n0 m => Sys2Proof.Machine.execLh d n0 m s
  | .ldb r b n0 m => Sys2Proof.Machine.execLdb r b n0 m s
  | .ldh r b n0 m => Sys2Proof.Machine.execLdh r b n0 m s
  | .ldw r b n0 m => Sys2Proof.Machine.execLdw r b n0 m s
  | .ldd r b n0 m => Sys2Proof.Machine.execLdd r b n0 m s
  | .ldbz r b n0 m => Sys2Proof.Machine.execLdbz r b n0 m s
  | .ldhz r b n0 m => Sys2Proof.Machine.execLdhz r b n0 m s
  | .ldwz r b n0 m => Sys2Proof.Machine.execLdwz r b n0 m s
  | .ldq r b n0 m => Sys2Proof.Machine.execLdq r b n0 m s
  | .ldv r b n0 m => Sys2Proof.Machine.execLdv r b n0 m s
  | .ldf r b n0 m => Sys2Proof.Machine.execLdf r b n0 m s
  | .ldacq r b n0 m => Sys2Proof.Machine.execLdacq r b n0 m s
  | .ldk r b n0 m => Sys2Proof.Machine.execLdk r b n0 m s
  | .ldro r b n0 m => Sys2Proof.Machine.execLdro r b n0 m s
  | .ldkv r b n0 m => Sys2Proof.Machine.execLdkv r b n0 m s
  | .stb r b n0 m => Sys2Proof.Machine.execStb r b n0 m s
  | .sth r b n0 m => Sys2Proof.Machine.execSth r b n0 m s
  | .stw r b n0 m => Sys2Proof.Machine.execStw r b n0 m s
  | .std r b n0 m => Sys2Proof.Machine.execStd r b n0 m s
  | .stq r b n0 m => Sys2Proof.Machine.execStq r b n0 m s
  | .stv r b n0 m => Sys2Proof.Machine.execStv r b n0 m s
  | .stf r b n0 m => Sys2Proof.Machine.execStf r b n0 m s
  | .strel r b n0 m => Sys2Proof.Machine.execStrel r b n0 m s
  | .stnt r b n0 m => Sys2Proof.Machine.execStnt r b n0 m s
  | .stvnt r b n0 m => Sys2Proof.Machine.execStvnt r b n0 m s
  | .b g o m => Sys2Proof.Machine.execB g o m s
  | .bl g o m => Sys2Proof.Machine.execBl g o m s
  | .loop g l c m => Sys2Proof.Machine.execLoop g l c m s
  | .jr g t m => Sys2Proof.Machine.execJr g t m s
  | .jlr g t m => Sys2Proof.Machine.execJlr g t m s
  | .fence k p m => Sys2Proof.Machine.execFence k p m s
  | .pause a n0 m => Sys2Proof.Machine.execPause a n0 m s
  | .isync m => Sys2Proof.Machine.execIsync m s
  | .roinv m => Sys2Proof.Machine.execRoinv m s
  | .csrr a n m => Sys2Proof.Machine.execCsrr a n m s
  | .csrw a n m => Sys2Proof.Machine.execCsrw a n m s
  | .bcs a n0 m => Sys2Proof.Machine.execBcs a n0 m s
  | .rms o m => Sys2Proof.Machine.execRms o m s
  | .wnd p m => Sys2Proof.Machine.execWnd p m s
  | .wpop m => Sys2Proof.Machine.execWpop m s
  | .glead c m => Sys2Proof.Machine.execGlead c m s
  | .gfollow m => Sys2Proof.Machine.execGfollow m s
  | .gend m => Sys2Proof.Machine.execGend m s
  | .done m => Sys2Proof.Machine.execDone m s
  | .reque m => Sys2Proof.Machine.execReque m s
  | .trap n m => Sys2Proof.Machine.execTrap n m s
  | .tret m => Sys2Proof.Machine.execTret m s
  | .wb a b m => Sys2Proof.Machine.execWb a b m s
  | .idle m => Sys2Proof.Machine.execIdle m s
  | .cancel a l m => Sys2Proof.Machine.execCancel a l m s
  | .iaAdd a0 g w m => Sys2Proof.Machine.execIaAdd a0 g w m s
  | .iaSub a0 g w m => Sys2Proof.Machine.execIaSub a0 g w m s
  | .iaAnd a0 g m => Sys2Proof.Machine.execIaAnd a0 g m s
  | .iaOr a0 g m => Sys2Proof.Machine.execIaOr a0 g m s
  | .iaXor a0 g m => Sys2Proof.Machine.execIaXor a0 g m s
  | .iaAndn a0 g m => Sys2Proof.Machine.execIaAndn a0 g m s
  | .iaShl a0 g w m => Sys2Proof.Machine.execIaShl a0 g w m s
  | .iaShr a0 g w m => Sys2Proof.Machine.execIaShr a0 g w m s
  | .iaSar a0 g w m => Sys2Proof.Machine.execIaSar a0 g w m s
  | .iaRol a0 g w m => Sys2Proof.Machine.execIaRol a0 g w m s
  | .iaMin a0 g w m => Sys2Proof.Machine.execIaMin a0 g w m s
  | .iaMax a0 g w m => Sys2Proof.Machine.execIaMax a0 g w m s
  | .iaMinn a0 g w m => Sys2Proof.Machine.execIaMinn a0 g w m s
  | .iaMaxn a0 g w m => Sys2Proof.Machine.execIaMaxn a0 g w m s
  | .iaSlt a0 g w m => Sys2Proof.Machine.execIaSlt a0 g w m s
  | .iaSltn a0 g w m => Sys2Proof.Machine.execIaSltn a0 g w m s
  | .iaSeq a0 g w m => Sys2Proof.Machine.execIaSeq a0 g w m s
  | .iaSne a0 g w m => Sys2Proof.Machine.execIaSne a0 g w m s
  | .iaClz a0 g w m => Sys2Proof.Machine.execIaClz a0 g w m s
  | .iaFfs a0 g w m => Sys2Proof.Machine.execIaFfs a0 g w m s
  | .iaPop a0 g w m => Sys2Proof.Machine.execIaPop a0 g w m s
  | .iaBsw a0 g m => Sys2Proof.Machine.execIaBsw a0 g m s
  | .iaBxt a0 g m => Sys2Proof.Machine.execIaBxt a0 g m s
  | .iaSxt a0 g m => Sys2Proof.Machine.execIaSxt a0 g m s
  | .iaAdds a0 g w m => Sys2Proof.Machine.execIaAdds a0 g w m s
  | .iaSubs a0 g w m => Sys2Proof.Machine.execIaSubs a0 g w m s
  | .iaAbs a0 g w m => Sys2Proof.Machine.execIaAbs a0 g w m s
  | .imMul a0 g w m => Sys2Proof.Machine.execImMul a0 g w m s
  | .imMulh a0 g w m => Sys2Proof.Machine.execImMulh a0 g w m s
  | .imMulhn a0 g w m => Sys2Proof.Machine.execImMulhn a0 g w m s
  | .imDiv a0 g w m => Sys2Proof.Machine.execImDiv a0 g w m s
  | .imDivn a0 g w m => Sys2Proof.Machine.execImDivn a0 g w m s
  | .imRem a0 g w m => Sys2Proof.Machine.execImRem a0 g w m s
  | .imRemn a0 g w m => Sys2Proof.Machine.execImRemn a0 g w m s
  | .faFma a0 g m => Sys2Proof.Machine.execFaFma a0 g m s
  | .faFms a0 g m => Sys2Proof.Machine.execFaFms a0 g m s
  | .faFnma a0 g m => Sys2Proof.Machine.execFaFnma a0 g m s
  | .faFadd a0 g m => Sys2Proof.Machine.execFaFadd a0 g m s
  | .faFsub a0 g m => Sys2Proof.Machine.execFaFsub a0 g m s
  | .faFmul a0 g m => Sys2Proof.Machine.execFaFmul a0 g m s
  | .faFmin a0 g m => Sys2Proof.Machine.execFaFmin a0 g m s
  | .faFmax a0 g m => Sys2Proof.Machine.execFaFmax a0 g m s
  | .faFabs a0 g m => Sys2Proof.Machine.execFaFabs a0 g m s
  | .faFneg a0 g m => Sys2Proof.Machine.execFaFneg a0 g m s
  | .faFsgn a0 g m => Sys2Proof.Machine.execFaFsgn a0 g m s
  | .faFclt a0 g m => Sys2Proof.Machine.execFaFclt a0 g m s
  | .faFcle a0 g m => Sys2Proof.Machine.execFaFcle a0 g m s
  | .faFceq a0 g m => Sys2Proof.Machine.execFaFceq a0 g m s
  | .faFcun a0 g m => Sys2Proof.Machine.execFaFcun a0 g m s
  | .faFrnd a0 g m => Sys2Proof.Machine.execFaFrnd a0 g m s
  | .faFrto a0 g m => Sys2Proof.Machine.execFaFrto a0 g m s
  | .faFcvi a0 g m => Sys2Proof.Machine.execFaFcvi a0 g m s
  | .faFicv a0 g m => Sys2Proof.Machine.execFaFicv a0 g m s
  | .faFexa a0 g m => Sys2Proof.Machine.execFaFexa a0 g m s
  | .fdFdiv a0 g m => Sys2Proof.Machine.execFdFdiv a0 g m s
  | .fdFsqrt a0 g m => Sys2Proof.Machine.execFdFsqrt a0 g m s
  | .sfSin a0 g m => Sys2Proof.Machine.execSfSin a0 g m s
  | .sfCos a0 g m => Sys2Proof.Machine.execSfCos a0 g m s
  | .sfExp2 a0 g m => Sys2Proof.Machine.execSfExp2 a0 g m s
  | .sfLog2 a0 g m => Sys2Proof.Machine.execSfLog2 a0 g m s
  | .sfRcp a0 g m => Sys2Proof.Machine.execSfRcp a0 g m s
  | .sfRsqrt a0 g m => Sys2Proof.Machine.execSfRsqrt a0 g m s
  | .sfTanh a0 g m => Sys2Proof.Machine.execSfTanh a0 g m s
  | .sfSigm a0 g m => Sys2Proof.Machine.execSfSigm a0 g m s
  | .sfExd a0 g m => Sys2Proof.Machine.execSfExd a0 g m s
  | .vaMad a0 t g m => Sys2Proof.Machine.execVaMad a0 t g m s
  | .vaAdd a0 t g m => Sys2Proof.Machine.execVaAdd a0 t g m s
  | .vaSub a0 t g m => Sys2Proof.Machine.execVaSub a0 t g m s
  | .vaMul a0 t g m => Sys2Proof.Machine.execVaMul a0 t g m s
  | .vaMin a0 t g m => Sys2Proof.Machine.execVaMin a0 t g m s
  | .vaMax a0 t g m => Sys2Proof.Machine.execVaMax a0 t g m s
  | .vaMinn a0 t g m => Sys2Proof.Machine.execVaMinn a0 t g m s
  | .vaMaxn a0 t g m => Sys2Proof.Machine.execVaMaxn a0 t g m s
  | .vaAnd a0 t g m => Sys2Proof.Machine.execVaAnd a0 t g m s
  | .vaOr a0 t g m => Sys2Proof.Machine.execVaOr a0 t g m s
  | .vaXor a0 t g m => Sys2Proof.Machine.execVaXor a0 t g m s
  | .vaShl a0 t g m => Sys2Proof.Machine.execVaShl a0 t g m s
  | .vaShr a0 t g m => Sys2Proof.Machine.execVaShr a0 t g m s
  | .vaSar a0 t g m => Sys2Proof.Machine.execVaSar a0 t g m s
  | .vaAbs a0 t g m => Sys2Proof.Machine.execVaAbs a0 t g m s
  | .vaNeg a0 t g m => Sys2Proof.Machine.execVaNeg a0 t g m s
  | .vaClt a0 t g m => Sys2Proof.Machine.execVaClt a0 t g m s
  | .vaCle a0 t g m => Sys2Proof.Machine.execVaCle a0 t g m s
  | .vaCeq a0 t g m => Sys2Proof.Machine.execVaCeq a0 t g m s
  | .vaCltn a0 t g m => Sys2Proof.Machine.execVaCltn a0 t g m s
  | .vaCvt a0 t g m => Sys2Proof.Machine.execVaCvt a0 t g m s
  | .vaCvto a0 t g m => Sys2Proof.Machine.execVaCvto a0 t g m s
  | .vaWhile a0 t g m => Sys2Proof.Machine.execVaWhile a0 t g m s
  | .vaClz a0 t g m => Sys2Proof.Machine.execVaClz a0 t g m s
  | .vaFfs a0 t g m => Sys2Proof.Machine.execVaFfs a0 t g m s
  | .vaPop a0 t g m => Sys2Proof.Machine.execVaPop a0 t g m s
  | .vaExp2 a0 t g m => Sys2Proof.Machine.execVaExp2 a0 t g m s
  | .vaRcp a0 t g m => Sys2Proof.Machine.execVaRcp a0 t g m s
  | .vaRsq a0 t g m => Sys2Proof.Machine.execVaRsq a0 t g m s
  | .vaSel a0 t g m => Sys2Proof.Machine.execVaSel a0 t g m s
  | .vaIota a0 t g m => Sys2Proof.Machine.execVaIota a0 t g m s
  | .vaDup a0 t g m => Sys2Proof.Machine.execVaDup a0 t g m s
  | .vxPerm a0 g m => Sys2Proof.Machine.execVxPerm a0 g m s
  | .vxRot a0 g m => Sys2Proof.Machine.execVxRot a0 g m s
  | .vxShift a0 g m => Sys2Proof.Machine.execVxShift a0 g m s
  | .vxZip a0 g m => Sys2Proof.Machine.execVxZip a0 g m s
  | .vxUnzip a0 g m => Sys2Proof.Machine.execVxUnzip a0 g m s
  | .vxRsum a0 g m => Sys2Proof.Machine.execVxRsum a0 g m s
  | .vxRmax a0 g m => Sys2Proof.Machine.execVxRmax a0 g m s
  | .vxRmin a0 g m => Sys2Proof.Machine.execVxRmin a0 g m s
  | .vxScan a0 g m => Sys2Proof.Machine.execVxScan a0 g m s
  | .vxAmax a0 g m => Sys2Proof.Machine.execVxAmax a0 g m s
  | .vxCmpr a0 g m => Sys2Proof.Machine.execVxCmpr a0 g m s
  | .vxExpd a0 g m => Sys2Proof.Machine.execVxExpd a0 g m s
  | .vxNbr a0 g m => Sys2Proof.Machine.execVxNbr a0 g m s
  | .vxTkclr a0 g m => Sys2Proof.Machine.execVxTkclr a0 g m s
  | .vxTk a0 g m => Sys2Proof.Machine.execVxTk a0 g m s
  | .vxTkrd a0 g m => Sys2Proof.Machine.execVxTkrd a0 g m s
  | .mxMmul a0 g m => Sys2Proof.Machine.execMxMmul a0 g m s
  | .mxRowld a0 g m => Sys2Proof.Machine.execMxRowld a0 g m s
  | .mxWld a0 g m => Sys2Proof.Machine.execMxWld a0 g m s
  | .mxMvset a0 g m => Sys2Proof.Machine.execMxMvset a0 g m s
  | .mxMmv a0 g m => Sys2Proof.Machine.execMxMmv a0 g m s
  | .mxAread a0 g m => Sys2Proof.Machine.execMxAread a0 g m s
  | .mxAclr a0 g m => Sys2Proof.Machine.execMxAclr a0 g m s
  | .mxMchk a0 g m => Sys2Proof.Machine.execMxMchk a0 g m s
  | .lsLdt a0 g m => Sys2Proof.Machine.execLsLdt a0 g m s
  | .lsStt a0 g m => Sys2Proof.Machine.execLsStt a0 g m s
  | .lsPin a0 g m => Sys2Proof.Machine.execLsPin a0 g m s
  | .lsUnpin a0 g m => Sys2Proof.Machine.execLsUnpin a0 g m s
  | .lsPfr a0 g m => Sys2Proof.Machine.execLsPfr a0 g m s
  | .lsPush a0 g m => Sys2Proof.Machine.execLsPush a0 g m s
  | .lsPop a0 g m => Sys2Proof.Machine.execLsPop a0 g m s
  | .lsBmode a0 g m => Sys2Proof.Machine.execLsBmode a0 g m s
  | .atAadd a0 g m => Sys2Proof.Machine.execAtAadd a0 g m s
  | .atAand a0 g m => Sys2Proof.Machine.execAtAand a0 g m s
  | .atAor a0 g m => Sys2Proof.Machine.execAtAor a0 g m s
  | .atAxor a0 g m => Sys2Proof.Machine.execAtAxor a0 g m s
  | .atAmin a0 g m => Sys2Proof.Machine.execAtAmin a0 g m s
  | .atAmax a0 g m => Sys2Proof.Machine.execAtAmax a0 g m s
  | .atAminn a0 g m => Sys2Proof.Machine.execAtAminn a0 g m s
  | .atAmaxn a0 g m => Sys2Proof.Machine.execAtAmaxn a0 g m s
  | .atAxch a0 g m => Sys2Proof.Machine.execAtAxch a0 g m s
  | .atAcas a0 g m => Sys2Proof.Machine.execAtAcas a0 g m s
  | .atAfadd a0 g m => Sys2Proof.Machine.execAtAfadd a0 g m s
  | .atRecon a0 g m => Sys2Proof.Machine.execAtRecon a0 g m s
  | .atLdsib a0 g m => Sys2Proof.Machine.execAtLdsib a0 g m s
  | .atSnap a0 g m => Sys2Proof.Machine.execAtSnap a0 g m s
  | .atWslot a0 g m => Sys2Proof.Machine.execAtWslot a0 g m s
  | .atWdrop a0 g m => Sys2Proof.Machine.execAtWdrop a0 g m s
  | .msSend a0 g m => Sys2Proof.Machine.execMsSend a0 g m s
  | .msCallat a0 g m => Sys2Proof.Machine.execMsCallat a0 g m s
  | .msReply a0 g m => Sys2Proof.Machine.execMsReply a0 g m s
  | .msSendc a0 g m => Sys2Proof.Machine.execMsSendc a0 g m s
  | .msDep a0 g m => Sys2Proof.Machine.execMsDep a0 g m s
  | .msColl a0 g m => Sys2Proof.Machine.execMsColl a0 g m s
  | .msGrp a0 g m => Sys2Proof.Machine.execMsGrp a0 g m s
  | .msLaunch a0 g m => Sys2Proof.Machine.execMsLaunch a0 g m s
  | .msMcast a0 g m => Sys2Proof.Machine.execMsMcast a0 g m s
  | .ceTail a0 g m => Sys2Proof.Machine.execCeTail a0 g m s
  | .ceSeq a0 g m => Sys2Proof.Machine.execCeSeq a0 g m s
  | .ceWseq a0 g m => Sys2Proof.Machine.execCeWseq a0 g m s
  | .cePub a0 g m => Sys2Proof.Machine.execCePub a0 g m s
  | .ceHalt a0 g m => Sys2Proof.Machine.execCeHalt a0 g m s
  | .tbTbind a0 g m => Sys2Proof.Machine.execTbTbind a0 g m s
  | .tbTfree a0 g m => Sys2Proof.Machine.execTbTfree a0 g m s
  | .tbTget a0 g m => Sys2Proof.Machine.execTbTget a0 g m s
  | .tbTset a0 g m => Sys2Proof.Machine.execTbTset a0 g m s
  | .syRd a0 g m => Sys2Proof.Machine.execSyRd a0 g m s
  | .syWr a0 g m => Sys2Proof.Machine.execSyWr a0 g m s
  | .powerOnReset => Sys2Proof.Machine.execPowerOnReset s
  | .firmwareRestart => Sys2Proof.Machine.execFirmwareRestart s
  | .registerWrite => Sys2Proof.Machine.execRegisterWrite s
  | .ringWrite => Sys2Proof.Machine.execRingWrite s
  | .query => Sys2Proof.Machine.execQuery s
  | .pcreate => Sys2Proof.Machine.execPcreate s
  | .pdestroy => Sys2Proof.Machine.execPdestroy s
  | .setattr => Sys2Proof.Machine.execSetattr s
  | .job => Sys2Proof.Machine.execJob s
  | .phase => Sys2Proof.Machine.execPhase s
  | .graph => Sys2Proof.Machine.execGraph s
  | .fwCancel => Sys2Proof.Machine.execFwCancel s
  | .map => Sys2Proof.Machine.execMap s
  | .unmap => Sys2Proof.Machine.execUnmap s
  | .type => Sys2Proof.Machine.execType s
  | .notify => Sys2Proof.Machine.execNotify s
  | .pair => Sys2Proof.Machine.execPair s
  | .klist => Sys2Proof.Machine.execKlist s
  | .kreset => Sys2Proof.Machine.execKreset s
  | .split => Sys2Proof.Machine.execSplit s
  | .switch => Sys2Proof.Machine.execSwitch s
  | .resume => Sys2Proof.Machine.execResume s
  | .stop => Sys2Proof.Machine.execStop s
  | .discard => Sys2Proof.Machine.execDiscard s
  | .duskadd => Sys2Proof.Machine.execDuskadd s
  | .frames => Sys2Proof.Machine.execFrames s
  | .attest => Sys2Proof.Machine.execAttest s
  | .cfgwrite => Sys2Proof.Machine.execCfgwrite s
  | .extload => Sys2Proof.Machine.execExtload s
  | .linkreset => Sys2Proof.Machine.execLinkreset s
  | .indexPlacement => Sys2Proof.Machine.execIndexPlacement s
  | .taskDispatch => Sys2Proof.Machine.execTaskDispatch s
  | .watchReady => Sys2Proof.Machine.execWatchReady s
  | .markerRelease => Sys2Proof.Machine.execMarkerRelease s
  | .pauseExpiry => Sys2Proof.Machine.execPauseExpiry s
  | .agingStep => Sys2Proof.Machine.execAgingStep s
  | .resultLanding => Sys2Proof.Machine.execResultLanding s
  | .loadDeliver => Sys2Proof.Machine.execLoadDeliver s
  | .fetchFill => Sys2Proof.Machine.execFetchFill s
  | .loopPassEnd => Sys2Proof.Machine.execLoopPassEnd s
  | .watchFree => Sys2Proof.Machine.execWatchFree s
  | .messageAccept => Sys2Proof.Machine.execMessageAccept s
  | .overflowTimeout => Sys2Proof.Machine.execOverflowTimeout s
  | .overflowDrain => Sys2Proof.Machine.execOverflowDrain s
  | .wakeRetry => Sys2Proof.Machine.execWakeRetry s
  | .depositApply => Sys2Proof.Machine.execDepositApply s
  | .cancelNotice => Sys2Proof.Machine.execCancelNotice s
  | .launchComplete => Sys2Proof.Machine.execLaunchComplete s
  | .continuationStart => Sys2Proof.Machine.execContinuationStart s
  | .phaseComplete => Sys2Proof.Machine.execPhaseComplete s
  | .windowBoundary => Sys2Proof.Machine.execWindowBoundary s
  | .cvrUpdate => Sys2Proof.Machine.execCvrUpdate s
  | .gangForm => Sys2Proof.Machine.execGangForm s
  | .nbrServed => Sys2Proof.Machine.execNbrServed s
  | .nbrTimeout => Sys2Proof.Machine.execNbrTimeout s
  | .rodOpStart => Sys2Proof.Machine.execRodOpStart s
  | .rodOpEnd => Sys2Proof.Machine.execRodOpEnd s
  | .bankAccess => Sys2Proof.Machine.execBankAccess s
  | .fifoReserve => Sys2Proof.Machine.execFifoReserve s
  | .fifoTake => Sys2Proof.Machine.execFifoTake s
  | .modeChange => Sys2Proof.Machine.execModeChange s
  | .prefetchDone => Sys2Proof.Machine.execPrefetchDone s
  | .wcbDrain => Sys2Proof.Machine.execWcbDrain s
  | .storeApply => Sys2Proof.Machine.execStoreApply s
  | .updateApply => Sys2Proof.Machine.execUpdateApply s
  | .storeAck => Sys2Proof.Machine.execStoreAck s
  | .missFill => Sys2Proof.Machine.execMissFill s
  | .keepStoreDecide => Sys2Proof.Machine.execKeepStoreDecide s
  | .clockPush => Sys2Proof.Machine.execClockPush s
  | .keepRetry => Sys2Proof.Machine.execKeepRetry s
  | .atomicApply => Sys2Proof.Machine.execAtomicApply s
  | .tlbWalk => Sys2Proof.Machine.execTlbWalk s
  | .entryCopy => Sys2Proof.Machine.execEntryCopy s
  | .entryGather => Sys2Proof.Machine.execEntryGather s
  | .entrySelgather => Sys2Proof.Machine.execEntrySelgather s
  | .entryScatter => Sys2Proof.Machine.execEntryScatter s
  | .entryFill => Sys2Proof.Machine.execEntryFill s
  | .entryConvert => Sys2Proof.Machine.execEntryConvert s
  | .entrySnap => Sys2Proof.Machine.execEntrySnap s
  | .entryPublish => Sys2Proof.Machine.execEntryPublish s
  | .entryFence => Sys2Proof.Machine.execEntryFence s
  | .entryWait => Sys2Proof.Machine.execEntryWait s
  | .entryPrefetch => Sys2Proof.Machine.execEntryPrefetch s
  | .allgather => Sys2Proof.Machine.execAllgather s
  | .redscat => Sys2Proof.Machine.execRedscat s
  | .alltoall => Sys2Proof.Machine.execAlltoall s
  | .entryBarrier => Sys2Proof.Machine.execEntryBarrier s
  | .collectiveStart => Sys2Proof.Machine.execCollectiveStart s
  | .entryEnd => Sys2Proof.Machine.execEntryEnd s
  | .dawnSwap => Sys2Proof.Machine.execDawnSwap s
  | .snapHold => Sys2Proof.Machine.execSnapHold s
  | .snapRelease => Sys2Proof.Machine.execSnapRelease s
  | .splitSwitch => Sys2Proof.Machine.execSplitSwitch s
  | .remapReplay => Sys2Proof.Machine.execRemapReplay s
  | .duskExpiry => Sys2Proof.Machine.execDuskExpiry s
  | .gangSwitch => Sys2Proof.Machine.execGangSwitch s
  | .resumeAtT => Sys2Proof.Machine.execResumeAtT s
  | .powerGate => Sys2Proof.Machine.execPowerGate s
  | .coreWake => Sys2Proof.Machine.execCoreWake s
  | .clockThrottle => Sys2Proof.Machine.execClockThrottle s
  | .linkRetrain => Sys2Proof.Machine.execLinkRetrain s
  | .linkReturn => Sys2Proof.Machine.execLinkReturn s
  | .linkDown => Sys2Proof.Machine.execLinkDown s
  | .cxlMemRead => Sys2Proof.Machine.execCxlMemRead s
  | .cxlMemWrite => Sys2Proof.Machine.execCxlMemWrite s
  | .hostSnoop => Sys2Proof.Machine.execHostSnoop s
  | .rdmaWrite => Sys2Proof.Machine.execRdmaWrite s
  | .peerLoad => Sys2Proof.Machine.execPeerLoad s
  | .extensionCommand => Sys2Proof.Machine.execExtensionCommand s

end Sys2Proof.Machine
end

