-- ==== Sys2Proof/Machine/Schedule.lean ====
section
/-!
DEFINITION. The moves of the device: the issue of a word, an event, time, and firmware taking a command; and the move it makes
when none is scheduled (R44, R200, R375, R376, R385, R403, R405; log 3).
-/
namespace Sys2Proof.Machine

/-! ## Moves -/

/-- A word that cannot be fetched, or is illegal, traps in its own slot: an illegal word in every member of a gang, a fetch in
the leader that makes it (R44, R48, R200). -/
def State.fetchTrap (s : State) (ks : List Nat) (k : Nat) (e : Nat × Word) : State :=
  let raised := fun (j : Nat) => if j = k || e.1 = 1 || e.1 = 2 then some e else none
  s.trap ks raised (fun _ => (s.watch k).pc) (s.watch k).pc false
/-- THE ISSUE POINT of core `c`: it chooses a watch where it issues none; else it fetches the next word of its watch, decodes
it, and the word is executed (R44, R97, R119). A landed result's trap comes first (R376); a line that must wait stalls it (R99). -/
def State.issueAt (s : State) (c : Nat) : Host.Outcome State Fault Refusal :=
  let s := { s with cur := c }
  match s.issuer with
  | none => .next (s.select c)
  | some k =>
    let ks := s.members k
    let s := if (s.coreAt c).owed.contains (k % 4) then s.onCore c fun v => { v with owed := v.owed.erase (k % 4) } else s
    let t := s.endPasses ks
    if s.nbrStall ks then .next (s.pass 1)
    else if ks.any fun j => (s.watch j).fpTrap.isSome then .next ((s.pass 1).landingTrap ks)
    else match t.fetchWord k with
      | .error e => .next (if e.1 = waitCause then t.pass 1 else (t.pass 1).fetchTrap ks k e)
      | .ok (i, t) => exec i t
/-- A core, other than its own, of a gang that core `c` issues, whose ready watches have yet to issue before the gang goes on (R39;
log 60). -/
def State.turn (s : State) (c : Nat) : Option Nat :=
  match (s.coreAt c).issuing with
  | none => none
  | some i => ((s.members (c * 4 + i)).map (· / 4)).find? fun n =>
      n ≠ c && (s.coreAt n).owed.any (s.coreAt n).eager.contains
/-- The issue of a word at core `c`, or at the core of its gang whose turn it is (R39). -/
def State.issueMove (s : State) (c : Nat) : Host.Outcome State Fault Refusal := s.issueAt ((s.turn c).getD c)
/-- A command that firmware takes and finds BAD whatever it is: an opcode of no command, a wrong sequence number. -/
def State.badCmd (s : State) (seq : Nat) : State :=
  { s with fw := { s.fw with fseen := seq, taken := s.fw.taken ++ [seq] } }.complete seq 3
/-- The entry of a command in the ring (R403). -/
def State.cmdAt (s : State) (n seq : Nat) : Cmd :=
  let a := hostAddr (bits s.fw.cqb 63 12 * 2 ^ 12 + 64 * ((seq + 2 ^ 32 - 1) % n))
  cmdOf (s.homeWord a) (Vector.ofFn fun i => s.homeWord (a + 8 * (i.val + 1)))
/-- Firmware dumps what a fatal trap has stopped, and takes the next command that the host has written (R385, R403, R405). -/
def State.firmwareMove (s : State) : Host.Outcome State Fault Refusal :=
  if s.fw.fwst ≠ 1 then .next s
  else
    let s := s.dumpFatal
    if s.hostWaits then .next s else
    let seq := (s.fw.fseen + 1) % 2 ^ 32
    match ringSize s.fw.cqb with
    | none => .next s
    | some n =>
      if (s.fw.cqt + 2 ^ 32 - s.fw.fseen) % 2 ^ 32 = 0 then .next s
      else
        let c := s.cmdAt n seq
        if c.seq ≠ seq then .next (s.badCmd seq)
        else match decodeCmd c with
          | some i => exec i { s with opnd := { Operand.zero with cmd := c } }
          | none => .next (s.badCmd seq)
/-- An operation or event of the opcode table that has no encoding. -/
def isEvent (i : Instr) : Bool := (encode i).isNone

/-! ## What time makes due (R37, R271, R273) -/

def ev (i : Instr) (a : Nat := 0) (b : Nat := 0) (c : Nat := 0) : Move := .event i ⟨a, b, c, 0, Operand.zero.cmd⟩
/-- One move for each number below `n`. -/
def upTo (n : Nat) (f : Nat → Move) : List Move := (List.range n).map f
/-- The cycles until bell time first reads `t` or more (R35). -/
def State.untilBell (s : State) (t : Nat) : Nat := (t - s.bell) * max s.clock 1 - s.phase
/-- The cycles within which a store that has left its core is applied at its home or reaches its bank, and forwarded words are applied at a
board (R273; log 64). -/
def storeBound : Nat := 4096
/-- The deadlines of a partition (R31, R37, R138, R139, R389, R392), each as the cycles until it and the move that is then due. -/
def State.partTimers (s : State) (p : Nat) (q : Part) : List (Nat × Move) :=
  let bell := fun (t : Nat) (m : Move) => (s.untilBell t, m)
  (match q.ended with
    | some x => [bell x.2.1 (ev .cvrUpdate p)]
    | none => [bell ((q.window + 1) * 2 ^ q.win) (ev .windowBoundary p)])
    ++ (if q.job.isSome && q.run = .running then [(q.dusk, ev .duskExpiry p)] else [])
    ++ (q.armed.toList.map fun x => bell x.1 (ev .gangSwitch p))
    ++ (q.resume.toList.map fun x => bell x.1 (ev .resumeAtT p))
    ++ q.pairs.flatMap fun (r : Nat × Pair) => r.2.flip.toList.map fun f => bell f.t (ev .dawnSwap p r.1)
/-- The deadlines of a watch: it becomes READY, its pause ends, its neighbour read is served or given up (R119, R148, R210). -/
def State.watchTimers (s : State) (n i : Nat) (w : Watch) : List (Nat × Move) :=
  (w.readyAt.toList.map fun t => (t - s.cycles, ev .watchReady n i))
    ++ (if w.st = .paused then [(w.pauseEnd - s.cycles, ev .pauseExpiry n i)] else [])
    ++ match w.nbr with
      | some r =>
        let left := r.since + w.nbt.toNat - s.cycles
        if r.done then []
        else if s.lends r && decide (s.cycles ≤ r.since + w.nbt.toNat) then [(0, ev .nbrServed n i)] else [(left, ev .nbrTimeout n i)]
      | none => []
/-- The bell ticks within which a cancel notice reaches every core of its partition: 2 µs (R33). -/
def noticeBound : Nat := 200
/-- The cancel notice that a core has to act on, by its deadline (R33). -/
def State.noticeTimer (s : State) (n : Nat) (c : Core) : List (Nat × Move) :=
  match ((s.partOf n).bind s.part?).bind fun q => q.notices[c.notices]? with
  | some x => [(s.untilBell (x.since + noticeBound), ev .cancelNotice n)]
  | none => []
/-- The deadlines of a core: its watches', the promotions of its queue, the drains of its buffer, its cancel notice, its gating; a gated
one wakes at once (R33, R40, R271, R412, R413; log 41). -/
def State.coreTimers (s : State) (n : Nat) (c : Core) : List (Nat × Move) :=
  let ages := fun (e : Nat × Slot) => match e.2 with
    | .queued t | .cursor t _ _ _ => [(s.untilBell (t.sinceB + 4096 * (t.steps + 1)), ev .agingStep n e.1)]
    | _ => []
  ((List.range 4).flatMap fun i => s.watchTimers n i (c.watch i)) ++ c.slots.flatMap ages
    ++ (c.wcb.map fun l => (l.since + 512 - s.cycles, ev .wcbDrain n l.line))
    ++ s.noticeTimer n c
    ++ if c.gated then (if s.wakes? n then [(0, ev .coreWake n)] else [])
      else if s.quiet n then [(c.idle + gateAfter - s.cycles, ev .powerGate n)] else []
/-- The deadline of a stamped store: its clock is pushed, its line filled, or it is decided; one that has been refused is tried again when its
wait is over (R273, R301, R307; log 64). -/
def State.keepTimer (s : State) (q : KeepReq) (i : Nat) : Nat × Move :=
  let line := ((q.bytes.head?).map Prod.fst).getD 0 / 64
  let left := q.since + storeBound - s.cycles
  if q.wantPush then (left, ev .clockPush i)
  else if q.atHome then (left, ev .missFill (s.homeSlice (line * 64)) line)
  else if 0 < q.due then (q.due - s.cycles, ev .keepRetry i)
  else (left, ev .keepStoreDecide i)
/-- The deadlines of stores and forwarded words on their way (R273; log 64). -/
def State.storeTimers (s : State) : List (Nat × Move) :=
  (s.bankq.zipIdx.map fun (q : BankReq × Nat) => (q.1.since + storeBound - s.cycles, ev .bankAccess q.2))
    ++ (s.keepq.zipIdx.map fun (q : KeepReq × Nat) => s.keepTimer q.1 q.2)
    ++ (s.stores.zipIdx.flatMap fun (f : StoreFl × Nat) =>
    let left := f.1.since + storeBound - s.cycles
    if f.1.applied then []
    else if f.1.atHome then
      let line := ((f.1.bytes.head?).map Prod.fst).getD 0 / 64
      [(left, ev .missFill (s.homeSlice (line * 64)) line)]
    else [(left, ev .storeApply f.2)])
    ++ s.updates.zipIdx.map fun (u : Update × Nat) => (u.1.since + storeBound - s.cycles, ev .updateApply u.2)
/-- The next hops of the messages on the mesh, each when the message has reached its router and the next one has a place (R12, R388). -/
def State.meshTimers (s : State) : List (Nat × Move) :=
  ((s.msgs ++ s.deposits).filter s.mayHop).map fun m => (m.since - s.cycles, ev .messageAccept s.msgs.length)
/-- A link that has retrained for more than 200 µs is down (R400). -/
def State.linkTimers (s : State) : List (Nat × Move) :=
  (List.range 12).flatMap fun n => (s.linkAt n).retrain.toList.map fun t => (s.untilBell (t + 20001), ev .linkDown n)
/-- Every deadline of the device. -/
def State.timers (s : State) : List (Nat × Move) :=
  (s.parts.flatMap fun (e : Nat × Option Part) => (e.2.map (s.partTimers e.1)).getD [])
    ++ (s.snaps.zipIdx.flatMap fun (x : Snap × Nat) => if x.1.held then [] else [(s.untilBell x.1.t, ev .snapHold x.2)])
    ++ (s.split.toList.map fun r => (s.untilBell r.t, ev .splitSwitch))
    ++ (s.cores.flatMap fun (e : Nat × Core) => s.coreTimers e.1 e.2) ++ s.storeTimers ++ s.meshTimers ++ s.linkTimers
/-- The clock runs for `n` cycles, or to the next deadline before that; the rest remains scheduled (R37). -/
def State.run (s : State) (n : Nat) : State :=
  let m := (((s.timers.map Prod.fst).filter (0 < ·)).foldl min n)
  let t := s.tick m
  if m < n then { t with schedule := .tick (n - m) :: t.schedule } else t

/-! ## Making a move -/

/-- A move of the device by itself. A word is not an event: it is issued. -/
def State.makeMove (s : State) (m : Move) : Host.Outcome State Fault Refusal :=
  match m with
  | .issue c => s.issueMove c
  | .event i o => if isEvent i then exec i { s with opnd := o } else .next s
  | .tick n => .next (s.run n)
  | .firmware => s.firmwareMove
/-- A move, and what the memory paths can then perform; an issue point performs what its own words can (R290, R399). -/
def State.runMove (s : State) (m : Move) : Host.Outcome State Fault Refusal :=
  match m with
  | .issue c => s.issueMove c
  | m => match s.makeMove m with
    | .next t => .next t.runPaths
    | r => r
/-- A move changes more than the operands that it leaves behind. -/
def State.changes (s : State) (m : Move) : Bool :=
  match s.makeMove m with
  | .next t => decide ({ t with opnd := s.opnd } ≠ s)
  | _ => false
/-- The move that time has made due. -/
def State.dueMove (s : State) : Option Move :=
  ((s.timers.filter fun e => e.1 = 0).map Prod.snd).find? s.changes

/-! ## The move that is made when none is scheduled (log 3) -/

/-- What a core can do besides issuing. -/
def State.coreMoves (s : State) (n : Nat) (c : Core) : List Move :=
  (if c.gated then [ev .coreWake n] else [])
    ++ (if (s.partOf n).any fun p => (s.part? p).any fun q => c.notices < q.notices.length then [ev .cancelNotice n] else [])
    ++ ((List.range 4).flatMap fun i =>
      let w := c.watch i
      match w.st with
      | .parked => (match w.after with
          | .done | .reque | .idle => [ev .watchFree n i]
          | .glead => [ev .gangForm n i, ev .markerRelease n i]
          | _ => [ev .markerRelease n i])
      | _ => [])
    ++ (if (s.chosen n).isSome then [ev .taskDispatch n] else [])
    ++ c.wcb.map (fun l => ev .wcbDrain n l.line)
/-- The queues of the device. -/
def State.queueMoves (s : State) : List Move :=
  upTo s.bankq.length (ev .bankAccess ·) ++ upTo s.atomq.length (ev .atomicApply ·)
    ++ upTo s.keepq.length (ev .keepStoreDecide ·) ++ upTo s.keepq.length (ev .clockPush ·) ++ upTo s.keepq.length (ev .keepRetry ·)
    ++ upTo s.stores.length (ev .storeApply ·) ++ upTo s.updates.length (ev .updateApply ·) ++ upTo s.stores.length (ev .storeAck ·)
    ++ upTo s.msgs.length (ev .messageAccept ·) ++ upTo s.msgs.length (ev .overflowTimeout ·)
    ++ upTo s.wakes.length (ev .wakeRetry ·) ++ upTo s.deposits.length (ev .depositApply ·)
    ++ upTo s.prefetches.length (ev .prefetchDone ·) ++ upTo s.remaps.length (ev .remapReplay ·)
    ++ (s.slices.flatMap fun (e : Nat × Slice) => e.2.misses.map fun m => ev .missFill e.1 m.line)
    ++ (s.boards.flatMap fun (e : Nat × Board) => (e.2.overflow.map fun m => ev .overflowDrain m.dcore) ++
      (List.range 16).flatMap fun n =>
        let k := e.2.bank n
        (if k.pushes ≠ [] then [ev .fifoReserve e.1 n] else []) ++ (if k.takes ≠ [] then [ev .fifoTake e.1 n] else [])
          ++ (if k.changes ≠ [] then [ev .modeChange e.1 n] else []))
    ++ (s.rods.flatMap fun (e : Nat × Rod) => ev .rodOpStart e.1 :: upTo e.2.running.length (ev .rodOpEnd e.1 ·))
/-- What an entry of a chain can do, by its kind. -/
def entryMove (k i j seq : Nat) : Move :=
  match k with
  | 1 => ev .entryCopy i j
  | 2 => ev .entryGather i j
  | 3 => ev .entrySelgather i j
  | 4 => ev .entryScatter i j
  | 5 => ev .entryFill i j
  | 6 => ev .entryConvert i j
  | 7 => ev .entrySnap i j
  | 8 => ev .entryPublish i j
  | 9 => ev .entryFence i j
  | 10 => ev .entryWait i j
  | 11 => ev .entryPrefetch i j
  | 0x10 => ev .allgather i seq
  | 0x11 => ev .redscat i seq
  | 0x12 => ev .alltoall i seq
  | _ => ev .entryBarrier i seq
/-- The engines. -/
def State.engineMoves (s : State) : List Move :=
  (s.chains.zipIdx.flatMap fun x =>
    ev .entryEnd x.2 :: x.1.entries.zipIdx.flatMap fun e =>
      (if x.1.group.isSome then [ev .collectiveStart x.2 e.1.seq] else []) ++ [entryMove e.1.kind x.2 e.2 e.1.seq])
    ++ upTo s.snaps.length (ev .snapRelease ·)
/-- The work slices. -/
def State.workMoves (s : State) : List Move :=
  s.parts.flatMap fun (e : Nat × Option Part) => match e.2 with
    | none => []
    | some q =>
      (if q.admitted ≠ [] then [ev .indexPlacement e.1 0 1] else [])
        ++ (q.launches.flatMap fun l => if l.2.used then
            (if l.2.toPlace ≠ [] then [ev .indexPlacement e.1 l.1] else []) ++ [ev .launchComplete e.1 l.1] else [])
        ++ ((q.pages.filter fun g => g.2.seen ≠ []).map fun g => ev .ringWrite e.1 g.2.pa 1)
        ++ [ev .continuationStart e.1, ev .phaseComplete e.1]
/-- What goes on besides the issue of words: queues come before dispatch, so that a freed slot is the overflow area's first
(R130). -/
def State.otherMoves (s : State) : List Move :=
  (if s.fw.fwst = 3 then [ev .firmwareRestart] else []) ++ (s.cores.flatMap fun (e : Nat × Core) => s.coreMoves e.1 e.2) ++ s.queueMoves ++ s.engineMoves ++ s.workMoves
/-- The next core, after the one that issued last, that issues a watch. -/
def State.nextIssuer (s : State) : Option Nat :=
  let on := (s.cores.filter fun (e : Nat × Core) => e.2.issuing.isSome).map Prod.fst
  (on.find? fun c => s.cur < c).orElse fun _ => on.head?
/-- The move that is made when none is scheduled or due: by turns, a word and what goes on besides; else firmware; else time. -/
def State.nextMove (s : State) : Move :=
  let other := fun (_ : Unit) => s.otherMoves.find? s.changes
  let word := s.nextIssuer.map Move.issue
  let first := if s.cycles % 16 = 15 then (other ()).orElse fun _ => word else word.orElse other
  first.getD (if s.changes .firmware then .firmware else .tick 16)

/-! ## Placing an instruction (log 5) -/

/-- The virtual address at which a placed instruction stands, and its page's physical address. -/
def placeVa : Nat := 2 ^ 38
def placePa : Nat := 2 ^ 30
/-- A watch that issues at the placed instruction, in user mode and ungrouped, with nothing of an earlier word pending. -/
def Watch.placed (w : Watch) : Watch :=
  { w with
    st := .issuing, pc := BitVec.ofNat 64 placeVa, part := 0, launch := 0, slotNo := 0, mp := 0
    hm := false, gang := none, gp := 0, gs := 1, nbr := none, fpTrap := none, passDue := none, path := []
    img := { w.img with loops := [], flights := [] } }
/-- The machine with an instruction's bytes, and zeros after them, at an address that partition 0 maps, where watch 0 of core
0 issues next. -/
def State.placed (s : State) (w : Nat) : State :=
  let s := ((s.putWord 0x10000 0x11000001).putWord 0x11000 0x12000001).putWord (0x12000 + 8 * 256) 0x0000040000000003
  let s := s.putNat placePa 8 w
  let c := s.coreAt 0
  let q : Part := { (s.part? 0).getD { Part.fresh with window := s.bell / 2 ^ 16 } with rods := [0], root := 0x10000, run := .running }
  { s with
    schedule := [.issue 0]
    cores := Tbl.set s.cores 0 { c with
      issuing := some 0, owed := [], fetch := [], loopTag := none, loopBuf := [], utlb := []
      watches := c.watches.set 0 (c.watch 0).placed }
    boards := Tbl.set s.boards 0 { s.boardAt 0 with tlb := [], ways := [] }
    parts := Tbl.set s.parts 0 (some q) }

end Sys2Proof.Machine
end

