-- ==== Sys2Proof/Machine/Step.lean ====
section
/-!
DEFINITION. The step: what is due, the next move of the schedule, or the move the device makes where none is scheduled; and how a word is
placed where the next step fetches (log 3, log 5).
-/
namespace Sys2Proof.Machine

/-- ONE STEP of the machine: what time has made due; else the next move of its schedule; else the move it makes by itself (R37). -/
def step (s : State) : Host.Outcome State Fault Refusal :=
  match s.dueMove, s.schedule with
  | some m, _ => s.runMove m
  | none, m :: t => ({ s with schedule := t }).runMove m
  | none, [] => s.runMove s.nextMove

/-- An instruction stored where the next step fetches it: see `State.placed` (log 5). -/
def State.withFetchWord (s : State) (_nbits w : Nat) : State := s.placed w

end Sys2Proof.Machine
end

