-- ==== Sys2Proof/Safety.lean ====
section
/-!
DEFINITION. What counts as a safe run, and the terms that claims use: whose turn it is to issue, the machine as a word finds it, and
the machine once the word's slot has passed.
-/
namespace Sys2Proof

/-- Memory is in its one canonical form: addresses strictly rising, no byte listed that an unlisted address reads as. -/
abbrev Machine.State.memWf (s : Machine.State) : Prop := Tbl.wf (0 : Byte) s.mem = true

/-- A step that answers a next state. -/
def goesOn (s : Machine.State) : Prop := ∃ t, Machine.step s = .next t

/-- A safe run of `n` steps: no fault, no refusal, memory canonical at each step. -/
def safeFor : Nat → Machine.State → Prop
  | 0, s => s.memWf
  | n + 1, s => s.memWf ∧ ∃ t, Machine.step s = .next t ∧ safeFor n t

/-- It is the turn of watch `k`: the current core issues it (R119), alone and in no gang (R193), no neighbour read of the
word before is outstanding (R210), and no trap of a landed result is due (R180). -/
structure Turn (s : Machine.State) (k : Nat) : Prop where
  issuer : s.issuer = some k
  here : k / 4 = s.cur
  solo : (s.watch k).gang = none
  quiet : ∀ n, (s.watch k).nbr = some n → n.done = true
  calm : (s.watch k).fpTrap = none

/-- The machine as the word of watch `k` finds it: one cycle has passed (R97), and the pass that the last word closed has
ended (R113). -/
def ready (s : Machine.State) (k : Nat) : Machine.State := (s.pass 1).endPasses [k]

/-- The machine once a word that parks watch `k` has passed its slot and left the watch as `w`, with what follows once its results have
landed: one more word has issued, the pass that the word closes has ended, and its core, which has not been quiet until now, issues its
next READY watch, if it has one (R63, R113, R117, R119, R412). Nothing else of `r` changes. -/
def parkedAs (r : Machine.State) (k : Nat) (a : Machine.After) (w : Machine.Watch) : Machine.State :=
  let t := r.onCore (k / 4) fun c =>
    { c.setWatch k (w.park a (r.watch k).pc) with issued := c.issued + 1, issuing := none, lastWid := k % 4, idle := r.cycles }
  (if w.passDue = none ∨ w.endPass.pc = w.pc then t else t.refill k).select (k / 4)

/-- The machine once a word of watch `k` has passed its slot and left the watch as `w`: one more word has issued, and at a
marker the watch parks (R63). Nothing else of `r` changes. -/
def passed (r : Machine.State) (k : Nat) (m : Bool) (w : Machine.Watch) : Machine.State :=
  if m then parkedAs r k .marker w else r.onCore (k / 4) fun c => { c.setWatch k w with issued := c.issued + 1 }

end Sys2Proof
end

