-- ==== Sys2Proof/Certificates/Slice0/Obligations.lean ====
section
/-! DEFINITION. The statements for the provers, one `Obligations.<Name>` each, with the terms they are said in. -/

namespace Sys2Proof.Claims
end Sys2Proof.Claims

section
open Sys2Proof Sys2Proof.Machine Sys2Proof.Claims

/-! ### Words of the integer units -/

namespace Sys2Proof.Claims
open Sys2Proof.Machine

/-- A watch whose word's slot has passed, with one more timed result on its way (R58). -/
def fly (b : Watch) (f : Flight) : Watch := { b with img := { b.img with flights := b.img.flights ++ [f] } }

/-- What a C2 word of operation `o` of `ia` does in a watch whose turn it is (R46, R58, R108): the unit's A latch takes `a`, and the
result `v` stands one slot later in the unit's port and in `xd`, where it is the later write of a load of the region issued before;
a word with the marker parks its watch, and leaves the result to land there (R63). Writes of x0 are discarded. -/
def CompactIa (i : Instr) (m : Bool) (o : IaOp) (d : XReg) (a v : Watch → Word) : Prop :=
  ∀ s k, Turn s k →
    let w := (s.watch k).endPass
    let b := w.finishWord 2 .seq (!m)
    let c : Watch := { b with
      loads := if d = 0 then b.loads else b.loads.filter fun l => l.reg ≠ .x d
      img := { b.img with latch := w.img.latch.setIfInBounds 0 (a w) } }
    exec i s = .next (passed (ready s k) k m (if m then
        fly c ⟨w.img.slot + 1, .ia, v w, 0, none, some d, 0, (UOp.ia o).code.toNat, w.pc⟩
      else { c with
        x := if d = 0 then b.x else b.x.setIfInBounds d.val (v w)
        img := { c.img with tport := b.img.tport.setIfInBounds 0 (v w) } }))

/-- The result of each integer operation at one width (R109), each said by what its bits or its value are. -/
def IaTable (n : Nat) (o : IaOp) (A B R : BitVec n) : Prop :=
  let k := B.toNat % n
  match o with
  | .add => R = A + B
  | .sub => R = A - B
  | .andOp => R = A &&& B
  | .orOp => R = A ||| B
  | .xor => R = A ^^^ B
  | .andn => R = A &&& ~~~B
  | .shl => ∀ i, i < n → R.getLsbD i = (decide (k ≤ i) && A.getLsbD (i - k))
  | .shr => R.toNat = A.toNat / 2 ^ k
  | .sar => R.toInt = A.toInt / 2 ^ k
  | .rol => ∀ i, i < n → R.getLsbD ((i + k) % n) = A.getLsbD i
  | .min => R.toInt = min A.toInt B.toInt
  | .max => R.toInt = max A.toInt B.toInt
  | .minn => R.toNat = min A.toNat B.toNat
  | .maxn => R.toNat = max A.toNat B.toNat
  | .slt => R.toNat = if A.toInt < B.toInt then 1 else 0
  | .sltn => R.toNat = if A.toNat < B.toNat then 1 else 0
  | .seq => R.toNat = if A = B then 1 else 0
  | .sne => R.toNat = if A = B then 0 else 1
  | .clz => R.toNat ≤ n ∧ (∀ i, n - R.toNat ≤ i → B.getLsbD i = false) ∧ (R.toNat < n → B.getLsbD (n - 1 - R.toNat) = true)
  | .ffs => (B = 0 ∧ R.toNat = n) ∨ (R.toNat < n ∧ B.getLsbD R.toNat = true ∧ ∀ i, i < R.toNat → B.getLsbD i = false)
  | .pop => R.toNat = ((List.range n).map fun i => if B.getLsbD i then 1 else 0).sum
  | .bsw => ∀ i j, i < 8 → j < 8 → R.getLsbD (8 * i + j) = B.getLsbD (8 * (7 - i) + j)
  | .bxt =>
    let f := B.toNat / 256 % 64
    ∀ i, i < n → R.getLsbD i = (decide (f = 0 ∨ i < f) && A.getLsbD (i + B.toNat % 64))
  | .sxt =>
    let f := B.toNat % 64
    ∀ i, i < n → R.getLsbD i = A.getLsbD (if f = 0 then i else min i (f - 1))
  | .adds => R.toInt = max (-(2 ^ (n - 1))) (min (2 ^ (n - 1) - 1) (A.toInt + B.toInt))
  | .subs => R.toInt = max (-(2 ^ (n - 1))) (min (2 ^ (n - 1) - 1) (A.toInt - B.toInt))
  | .abs => R.toInt = min (2 ^ (n - 1) - 1) (B.toInt.natAbs : Int)

/-- The result of each multiply or divide operation at one width (R110). -/
def ImTable (n : Nat) (o : ImOp) (A B R : BitVec n) : Prop :=
  match o with
  | .mul => R.toNat = A.toNat * B.toNat % 2 ^ n
  | .mulh => R.toInt = A.toInt * B.toInt / 2 ^ n
  | .mulhn => R.toNat = A.toNat * B.toNat / 2 ^ n
  | .div =>
    if B = 0 then R = BitVec.allOnes n else if A = BitVec.intMin n ∧ B = BitVec.allOnes n then R = A
    else R.toInt = A.toInt.tdiv B.toInt
  | .divn => if B = 0 then R = BitVec.allOnes n else R.toNat = A.toNat / B.toNat
  | .rem =>
    if B = 0 then R = A else if A = BitVec.intMin n ∧ B = BitVec.allOnes n then R = 0
    else R.toInt = A.toInt.tmod B.toInt
  | .remn => if B = 0 then R = A else R.toNat = A.toNat % B.toNat

/-- A table read at 64 bits, or in the w form at the low 32 bits with the result sign-extended from bit 31 (R55, R109, R110). -/
def AtWidth (table : (n : Nat) → BitVec n → BitVec n → BitVec n → Prop) (w : Bool) (A B R : Word) : Prop :=
  if w then ∃ c : BitVec 32, table 32 (A.setWidth 32) (B.setWidth 32) c ∧ R = c.signExtend 64 else table 64 A B R

end Sys2Proof.Claims

/-- The sixteen C2 words (R46, R108): operands, A latch, result one slot later (three for `c.mul`), or at the marker, port and register,
x0 discarded; nothing else of the machine changes but the passing of the word. -/
def Obligations.CompactWords : Prop :=
  (∀ d x m, CompactIa (.cCp d x m) m .orOp d (fun _ => 0) fun w => w.xRead x.val) ∧
  (∀ d x m, CompactIa (.cAdd d x m) m .add d (fun w => w.xRead d.val) fun w => w.xRead d.val + w.xRead x.val) ∧
  (∀ d x m, CompactIa (.cSub d x m) m .sub d (fun w => w.xRead d.val) fun w => w.xRead d.val - w.xRead x.val) ∧
  (∀ d x m, CompactIa (.cAnd d x m) m .andOp d (fun w => w.xRead d.val) fun w => w.xRead d.val &&& w.xRead x.val) ∧
  (∀ d x m, CompactIa (.cOr d x m) m .orOp d (fun w => w.xRead d.val) fun w => w.xRead d.val ||| w.xRead x.val) ∧
  (∀ d x m, CompactIa (.cXor d x m) m .xor d (fun w => w.xRead d.val) fun w => w.xRead d.val ^^^ w.xRead x.val) ∧
  (∀ d x m, CompactIa (.cShl d x m) m .shl d (fun w => w.xRead d.val) fun w => w.xRead d.val <<< ((w.xRead x.val).toNat % 64)) ∧
  (∀ d x m, CompactIa (.cShr d x m) m .shr d (fun w => w.xRead d.val) fun w => w.xRead d.val >>> ((w.xRead x.val).toNat % 64)) ∧
  (∀ d x m, CompactIa (.cSar d x m) m .sar d (fun w => w.xRead d.val)
    fun w => (w.xRead d.val).sshiftRight ((w.xRead x.val).toNat % 64)) ∧
  (∀ d x m, CompactIa (.cMin d x m) m .min d (fun w => w.xRead d.val)
    fun w => if (w.xRead d.val).toInt ≤ (w.xRead x.val).toInt then w.xRead d.val else w.xRead x.val) ∧
  (∀ d x m, CompactIa (.cMax d x m) m .max d (fun w => w.xRead d.val)
    fun w => if (w.xRead d.val).toInt ≤ (w.xRead x.val).toInt then w.xRead x.val else w.xRead d.val) ∧
  (∀ d x m, CompactIa (.cMinn d x m) m .minn d (fun w => w.xRead d.val)
    fun w => if (w.xRead d.val).toNat ≤ (w.xRead x.val).toNat then w.xRead d.val else w.xRead x.val) ∧
  (∀ d x m, CompactIa (.cMaxn d x m) m .maxn d (fun w => w.xRead d.val)
    fun w => if (w.xRead d.val).toNat ≤ (w.xRead x.val).toNat then w.xRead x.val else w.xRead d.val) ∧
  (∀ d x m, CompactIa (.cAndn d x m) m .andn d (fun w => w.xRead d.val) fun w => w.xRead d.val &&& ~~~w.xRead x.val) ∧
  (∀ d v m, CompactIa (.cAddi d v m) m .add d (fun w => w.xRead d.val) fun w => w.xRead d.val + v.signExtend 64) ∧
  (∀ d x m s k, Turn s k →
    let w := (s.watch k).endPass
    let b := w.finishWord 2 .seq (!m)
    exec (.cMul d x m) s = .next (passed (ready s k) k m { b with
      loads := if d = 0 then b.loads else b.loads.filter fun l => l.reg ≠ .x d
      img := { b.img with
        latch := w.img.latch.setIfInBounds 1 (w.xRead d.val)
        flights := b.img.flights ++
          [⟨w.img.slot + 3, .im, w.xRead d.val * w.xRead x.val, 0, none, some d, 0, 0, w.pc⟩] } }))

/-- Trigger words of `ia` (R109): with the guard set, the result of R109's table at the width of the form stands in `ia.r` one
slot later, or lands once a marker has parked the watch (R63); no flag is set, and nothing else changes. -/
def Sys2Proof.Claims.IaTriggers : Prop :=
  ∀ s k, Turn s k → ∀ (o : IaOp) (a : Src) (g : Guard) (w m : Bool), (w = true → (UOp.ia o).hasW = true) →
    ((s.watch k).guard g).getLsbD 0 = true →
    let r := (ready s k).touchSrc k a
    let b := (r.watch k).finishWord 4 .seq (!m)
    ∃ R, AtWidth (fun n => IaTable n o) w ((r.watch k).latch .iaA) ((ready s k).read k a).toScalar R ∧
      exec (.ofUnit (.ia o) a g w m) s = .next (passed r k m (if m then
          fly b ⟨(r.watch k).img.slot + 1, .ia, R, 0, none, none, 0, (UOp.ia o).code.toNat, (r.watch k).pc⟩
        else { b with img := { b.img with tport := b.img.tport.setIfInBounds 0 R } }))

/-- Trigger words of `im` (R110): with the guard set, the result of R110's table is on its way to `im.r`, three slots for
a product and 24 for a division, and nothing else changes. -/
def Sys2Proof.Claims.ImTriggers : Prop :=
  ∀ s k, Turn s k → ∀ (o : ImOp) (a : Src) (g : Guard) (w m : Bool), ((s.watch k).guard g).getLsbD 0 = true →
    let r := (ready s k).touchSrc k a
    let b := (r.watch k).finishWord 4 .seq (!m)
    ∃ R, AtWidth (fun n => ImTable n o) w ((r.watch k).latch .imA) ((ready s k).read k a).toScalar R ∧
      exec (.ofUnit (.im o) a g w m) s = .next (passed r k m { b with img := { b.img with
        flights := b.img.flights ++
          [⟨(r.watch k).img.slot + (match o with | .mul | .mulh | .mulhn => 3 | _ => 24), .im, R, 0, none, none, 0,
            (UOp.im o).code.toNat, (r.watch k).pc⟩] } })

/-- A trigger word whose guard is clear does nothing: its slot passes, and every unit, register, port and byte of memory is as it
was (R65). -/
def Sys2Proof.Claims.GuardClear : Prop :=
  ∀ s k, Turn s k → ∀ (o : UOp) (a : Src) (g : Guard) (w m : Bool), (w = true → o.hasW = true) →
    ((s.watch k).guard g).getLsbD 0 = false →
    exec (.ofUnit o a g w m) s = .next (passed (ready s k) k m ((s.watch k).endPass.finishWord 4 .seq (!m)))

/-- The words of the integer units (R109, R110): op8 numbers the operations in the order of the tables, and a w bit on an operation
without a w form is illegal. -/
def Sys2Proof.Claims.IntegerCodes : Prop :=
  ∀ (x : BitVec 5) (n : Nat) (w m : Bool),
    let word := fun (unit : BitVec 7) => 0b00#2 ++ x ++ unit ++ BitVec.ofNat 8 n ++ 0#4 ++ BitVec.ofBool w ++ 0b000#3 ++ BitVec.ofBool m ++ 1#1
    (∀ o, [IaOp.add, .sub, .andOp, .orOp, .xor, .andn, .shl, .shr, .sar, .rol, .min, .max, .minn, .maxn, .slt, .sltn, .seq, .sne, .clz,
        .ffs, .pop, .bsw, .bxt, .sxt, .adds, .subs, .abs][n]? = some o →
      if w = true ∧ n ∈ [2, 3, 4, 5, 0x15, 0x16, 0x17] then ∃ e, decode32 (word 112) = .error e
      else decode32 (word 112) = .ok (.ofUnit (.ia o) (.x x.toFin) ⟨false, 0⟩ w m)) ∧
    (∀ o, [ImOp.mul, .mulh, .mulhn, .div, .divn, .rem, .remn][n]? = some o →
      decode32 (word 113) = .ok (.ofUnit (.im o) (.x x.toFin) ⟨false, 0⟩ w m))

/-- Trigger words of the integer units `ia` and `im` (R109, R110). -/
def Obligations.IntegerTriggers : Prop := IntegerCodes ∧ IaTriggers ∧ ImTriggers
/-! ### Words of the float, vector and cross-lane units -/

/-- Trigger words of `fa`, `fd` and `sf` (R181 to R191): with the guard set, and for `sf` at most 23 beads or SX set, the result
and its flags are on their way to the port: `fa` 3, 4 or 6 slots and `fd` 10, 14 or 24 by the bead count's band, `sf` 18; nothing
else changes. -/
def Obligations.FloatTriggers : Prop :=
  ∀ s k, Turn s k → ∀ (a : Src) (g : Guard) (m : Bool), ((s.watch k).guard g).getLsbD 0 = true →
    let r := (ready s k).touchSrc k a
    let w := r.watch k
    let b := w.finishWord 4 .seq (!m)
    let c := ((ready s k).read k a).toScalar
    let band := fun (x y z : Nat) => if w.bc ≤ 10 then x else if w.bc ≤ 23 then y else z
    (∀ o : FaOp,
      let v := faResult o w.bc w.mode (w.latch .faA) (w.latch .faB) c
      exec (.ofUnit (.fa o) a g false m) s = .next (passed r k m
        (fly b ⟨w.img.slot + band 3 4 6, .fa, v.1, 0, none, none, v.2.bits, (UOp.fa o).code.toNat, w.pc⟩))) ∧
    (∀ o : FdOp,
      let v := fdResult o w.bc w.mode (w.latch .fdA) c
      exec (.ofUnit (.fd o) a g false m) s = .next (passed r k m
        (fly b ⟨w.img.slot + band 10 14 24, .fd, v.1, 0, none, none, v.2.bits, (UOp.fd o).code.toNat, w.pc⟩))) ∧
    (∀ o : SfOp, (w.bc ≤ 23 ∨ w.fst.getLsbD 24 = true) →
      let v := sfResult o (min w.bc 23) w.mode (w.latch .sfA) c
      exec (.ofUnit (.sf o) a g false m) s = .next (passed r k m
        (fly b ⟨w.img.slot + 18, .sf, v.1, 0, none, none, v.2.bits, (UOp.sf o).code.toNat, w.pc⟩)))

/-- Trigger words of `va` (R203 to R207): with the guard set and no precision trap due, the vector is on its way to `va.r`,
eight slots for the special functions and four for the rest; nothing else changes. -/
def Obligations.VectorTriggers : Prop :=
  ∀ s k, Turn s k → ∀ (o : VaOp) (t : VTy) (a : Src) (g : Guard) (m : Bool), ((s.watch k).guard g).getLsbD 0 = true →
    let r := (ready s k).touchSrc k a
    let w := r.watch k
    vaPrec o t w.bc w.sx = false →
    exec (.ofUnit (.va o t) a g false m) s = .next (passed r k m (fly (w.finishWord 4 .seq (!m))
      ⟨w.img.slot + (match o with | .exp2 | .rcp | .rsq => 8 | _ => 4), .va, 0,
        vaResult o t w.bc w.mode w.gp (w.vlatch .vaA) (w.vlatch .vaB) ((ready s k).read k a).toVec, none, none, 0,
        (UOp.va o t).code.toNat, w.pc⟩))

/-- Trigger words of `vx` in a watch that is in no gang (R208 to R213): with the guard set and no precision trap due, the results
are on their way to `vx.r` and, where the operation has a second one, to `vx.q`, six slots on. A neighbour read is outstanding from
then on where the row has such a neighbour; `tkclr` and `tk` change the top-k state at once; nothing else changes. -/
def Obligations.CrossLaneTriggers : Prop :=
  ∀ s k, Turn s k → ∀ (o : VxOp) (a : Src) (g : Guard) (m : Bool), ((s.watch k).guard g).getLsbD 0 = true →
    let r := (ready s k).touchSrc k a
    let w := r.watch k
    let b := w.finishWord 4 .seq (!m)
    let c := ((ready s k).read k a).toVec
    let ctl := vxCtl ((w.vlatch .vxB).setWidth 64)
    let A := lanes (vtyWidth ctl.t) (w.vlatch .vxA)
    let C := lanes (vtyWidth ctl.t) c
    let lands := fun (v : Vec) (q : Option Vec) =>
      fly b ⟨w.img.slot + 6, .vx, 0, v, q, none, 0, (UOp.vx o).code.toNat, w.pc⟩
    vxPrec o ctl w.bc = false →
    exec (.ofUnit (.vx o) a g false m) s = .next (passed r k m (match o with
      | .nbr => { lands 0 (some 0) with nbr := match nbrTarget k ctl with
          | none => b.nbr
          | some n => some ⟨r.cycles, n, ctl.nw, ctl.vreg, false⟩ }
      | .tkclr => { lands 0 (some 0) with tk := ⟨ctl.t, min (max (c.setWidth 64).toNat 1) 64, []⟩ }
      | .tk => { lands 0 (some 0) with
          tk := tkStep w.tk ((w.vlatch .vxA).setWidth 64).toNat (lanes (vtyWidth w.tk.t) c) }
      | .tkrd => lands (tkRead w.tk ctl.s.toNat 0).1 (some (tkRead w.tk ctl.s.toNat 0).2)
      | o => lands (join (vtyWidth ctl.t) (vxLanes o ctl w.bc w.mode A C).r)
          ((vxLanes o ctl w.bc w.mode A C).q.map fun q => join 32 (List.replicate 8 q))))

/-- Precision exhausted (R190, R204): a trigger of `sf` above 23 beads with SX clear, or of `va` or `vx` above what its type holds, is
performed by no unit; the watch takes the trap of cause 7 whose value is the bead count. -/
def Sys2Proof.Claims.PrecisionTraps : Prop :=
  ∀ s k, Turn s k → ∀ (o : UOp) (a : Src) (g : Guard) (m : Bool), ((s.watch k).guard g).getLsbD 0 = true →
    let r := (ready s k).touchSrc k a
    let w := r.watch k
    (match o with
      | .sf _ => 23 < w.bc ∧ w.fst.getLsbD 24 = false
      | .va o t => vaPrec o t w.bc w.sx = true
      | .vx o => vxPrec o (vxCtl ((w.vlatch .vxB).setWidth 64)) w.bc = true
      | _ => False) →
    exec (.ofUnit o a g false m) s =
      .next ((ready s k).trap1 k 7 (BitVec.ofNat 64 w.bc) w.pc w.pc false)

/-- `va` works lane by lane (R201, R205): a lane of the result of an operation on integers is that of the operands' lanes alone: sums,
differences and products modulo the lane's width, signed and unsigned order, masks of all ones, bitwise. -/
def Obligations.IntegerLanes : Prop :=
  ∀ (t : VTy) (l : Nat) (m : RMode) (p : Nat) (a b c : Vec) (j : Nat), vtyFloat t = false → j < 256 / vtyWidth t →
    let n := vtyWidth t
    let lane := fun (v : Vec) => v.extractLsb' (j * n) n
    let res := fun (o : VaOp) => lane (vaResult o t l m p a b c)
    let A := lane a
    let B := lane b
    let C := lane c
    res .mad = A * B + C ∧ res .add = A + C ∧ res .sub = A - C ∧ res .mul = A * C ∧ res .neg = -C ∧
    (res .min).toInt = min A.toInt C.toInt ∧ (res .max).toInt = max A.toInt C.toInt ∧
    (res .minn).toNat = min A.toNat C.toNat ∧ (res .maxn).toNat = max A.toNat C.toNat ∧
    res .andOp = A &&& C ∧ res .orOp = A ||| C ∧ res .xor = A ^^^ C ∧
    res .shl = A <<< (C.toNat % n) ∧ res .shr = A >>> (C.toNat % n) ∧ res .sar = A.sshiftRight (C.toNat % n) ∧
    res .clt = (if A.toInt < C.toInt then BitVec.allOnes n else 0) ∧
    res .cle = (if A.toInt ≤ C.toInt then BitVec.allOnes n else 0) ∧
    res .ceq = (if A = C then BitVec.allOnes n else 0) ∧
    res .cltn = (if A.toNat < C.toNat then BitVec.allOnes n else 0) ∧
    res .sel = (if B.msb then A else C)

/-- Trigger words that no unit performs: with the guard clear (R65), or with the precision exhausted (R190, R204). -/
def Obligations.UnperformedTriggers : Prop := GuardClear ∧ PrecisionTraps
/-! ### Transport words and constants -/

namespace Sys2Proof.Claims
open Sys2Proof.Machine

/-- A write of an x register in its slot is its last write: over a load of the region issued before, and over a C2 result that lands
no later (R57, R62). -/
def taken (b : Watch) (r : XReg) : Watch :=
  { b with
    loads := b.loads.filter fun l => l.reg ≠ .x r
    img := { b.img with flights := b.img.flights.map fun f => if f.due ≤ b.img.slot ∧ f.xd = some r then { f with xd := none } else f } }

/-- A write of byte lanes of a v register takes them from the loads, and the `aread` rows, of the region that would write them later
(R62, R65). -/
def lanesTaken (r : VReg) (p : Pred) (l : List PLoad) : List PLoad :=
  (l.map fun x => if x.reg = .v r then { x with lanes := x.lanes &&& ~~~p } else x).filter fun x => x.reg ≠ .v r || x.lanes ≠ 0

/-- A datum arrives, under a predicate, at a destination that is no trigger port and no f register (R50, R52, R65, R104), in a watch
whose word's slot has passed: a scalar or predicate destination takes it if bit 0 is set, a vector destination in the byte lanes
whose bits are set; x0 and g0 discard it; a load of the region issued before does not come over it (R62). -/
def arrives (b : Watch) (p : Pred) (d : Datum) : Dst → Watch
  | .x r => if p.getLsbD 0 ∧ r ≠ 0 then { taken b r with x := b.x.setIfInBounds r.val d.toScalar } else b
  | .g r => if p.getLsbD 0 ∧ r ≠ 0 then { b with g := b.g.setIfInBounds r.val d.toPred } else b
  | .v r => { b with
      v := b.v.setIfInBounds r.val (blend p (b.vRead r.val) d.toVec)
      loads := lanesTaken r p b.loads
      img := { b.img with regs := lanesTaken r p b.img.regs } }
  | .latch l => match l with
    | .vaA | .vaB | .vxA | .vxB => b.setVlatch l (blend p (b.vlatch l) d.toVec)
    | _ => if p.getLsbD 0 then b.setLatch l d.toScalar else b
  | .f _ | .trig _ => b

/-- A value is bound to an f register of the top window, at depth `d` (R162): a load of the region issued before does not come over it, and
is checked still (R62, R163). -/
def bound (b : Watch) (f : FReg) (d : Nat) (top : Window) (rest : List Window) (v : Word) : Watch :=
  { b with
    loads := b.loads.map fun l => if l.reg = .f f d then { l with lanes := 0 } else l
    windows := { top with vals := top.vals.setIfInBounds f.val (some v) } :: rest }

/-- What a word does that moves the value `v` to f register `f`, and `more` to its other destination (R54, R162, R163): one that fits the top
window's capacity becomes the binding of the register in that window, where it has one or the core's pool holds room for it; one that does
not fit is the trap of cause 7, which names it. `r` is the machine once the word's sources have been read. -/
def BindsTo (s r : State) (k : Nat) (i : Instr) (m : Bool) (f : FReg) (v : Word) (more : Watch → Watch) : Prop :=
  ∀ top rest, (r.watch k).windows = top :: rest → top.spilled = false →
    (fits top.cap v = false →
      exec i s = .next ((ready s k).trap1 k 7 v (s.watch k).endPass.pc (s.watch k).endPass.pc false)) ∧
    (fits top.cap v = true → (((top.vals[f.val]?).getD none).isSome = true ∨ top.cap ≤ (r.coreAt (k / 4)).freePips) →
      exec i s = .next (passed r k m (more (bound ((r.watch k).finishWord 4 .seq (!m)) f rest.length top rest v))))

/-- A destination of `arrives`. -/
def plainDst : Dst → Prop
  | .f _ | .trig _ => False
  | _ => True

end Sys2Proof.Claims

/-- `to` (R104): the source, converted to the class of the destination, arrives under the guard, lane by lane at a vector
destination; nothing else changes. -/
def Sys2Proof.Claims.TransportWord : Prop :=
  ∀ s k, Turn s k → ∀ (a : Src) (d : Dst) (g : Guard) (m : Bool),
    let p := (s.watch k).guard g
    let r := if p.getLsbD 0 then (ready s k).touchSrc k a else ready s k
    plainDst d →
    exec (.toWord a d g m) s = .next (passed r k m (arrives ((r.watch k).finishWord 4 .seq (!m)) p ((ready s k).read k a) d))

/-- `to` to an f register (R54, R104, R162, R163), under a guard that holds. -/
def Sys2Proof.Claims.FloatTransport : Prop :=
  ∀ s k, Turn s k → ∀ (a : Src) (f : FReg) (g : Guard) (m : Bool), ((s.watch k).guard g).getLsbD 0 = true →
    BindsTo s ((ready s k).touchSrc k a) k (.toWord a (.f f) g m) m f ((ready s k).read k a).toScalar id

/-- `t2` and `ti` to destinations that are no trigger port and no f register (R56, R105, R106): both sources of a `t2` are read
before either destination is written; `ti` carries its constant, sign-extended; there is no guard. -/
def Sys2Proof.Claims.TwoTransports : Prop :=
  ∀ s k, Turn s k →
    (∀ (a : Src) (d : Dst) (c : Src) (e : Dst) (m : Bool),
      let p : Pred := BitVec.allOnes 32
      let r := ((ready s k).touchSrc k a).touchSrc k c
      plainDst d → plainDst e →
      exec (.t2 a d c e m) s = .next (passed r k m
        (arrives (arrives ((r.watch k).finishWord 4 .seq (!m)) p ((ready s k).read k a) d) p ((ready s k).read k c) e))) ∧
    (∀ (d : Dst) (v : BitVec 12) (m : Bool), plainDst d →
      exec (.ti d v m) s = .next (passed (ready s k) k m
        (arrives ((s.watch k).endPass.finishWord 4 .seq (!m)) (BitVec.allOnes 32) (.scalar (v.signExtend 64)) d)))

/-- `t2` and `ti` to f registers (R54, R56, R105, R106, R162, R163): one of the two destinations of a `t2`, the other being no trigger
port, or both, of registers that the top window binds already; the register of a `ti` takes its sign-extended constant. -/
def Sys2Proof.Claims.FloatTransports : Prop :=
  ∀ s k, Turn s k →
    (∀ (a c : Src) (f : FReg) (e : Dst) (m : Bool), plainDst e →
      let r := ((ready s k).touchSrc k a).touchSrc k c
      let A := (ready s k).read k a
      let C := (ready s k).read k c
      BindsTo s r k (.t2 a (.f f) c e m) m f A.toScalar (fun b => arrives b (BitVec.allOnes 32) C e) ∧
      BindsTo s r k (.t2 a e c (.f f) m) m f C.toScalar (fun b => arrives b (BitVec.allOnes 32) A e)) ∧
    (∀ (a c : Src) (f h : FReg) (m : Bool) (top : Window) (rest : List Window),
      let r := ((ready s k).touchSrc k a).touchSrc k c
      let u := ((ready s k).read k a).toScalar
      let v := ((ready s k).read k c).toScalar
      let b := bound ((r.watch k).finishWord 4 .seq (!m)) f rest.length top rest u
      (r.watch k).windows = top :: rest → top.spilled = false → ((top.vals[f.val]?).getD none).isSome = true →
      ((top.vals[h.val]?).getD none).isSome = true → fits top.cap u = true →
      (fits top.cap v = false → exec (.t2 a (.f f) c (.f h) m) s =
        .next ((ready s k).trap1 k 7 v (s.watch k).endPass.pc (s.watch k).endPass.pc false)) ∧
      (fits top.cap v = true → exec (.t2 a (.f f) c (.f h) m) s = .next (passed r k m
        (bound b h rest.length { top with vals := top.vals.setIfInBounds f.val (some u) } rest v)))) ∧
    (∀ (f : FReg) (v : BitVec 12) (m : Bool), BindsTo s (ready s k) k (.ti (.f f) v m) m f (v.signExtend 64) id)

/-- Triggers by `t2` and `ti` (R50, R51, R105, R106). A `ti` does what the trigger word of the operation that it names does from a source, no
f register, that holds its sign-extended constant. A `t2` does what the trigger word of its second source does, of op 0 of the unit in a word of the stream,
where its first destination is x0, which discards; where that is an operand latch, what the trigger word does in the machine whose latch
is written, as long as its own-slot checks pass there: a trigger sees the latch that its own word writes. Two trigger ports start both
units. For `ia` also the result itself: it stands one slot later in its port, or lands at the marker. -/
def Sys2Proof.Claims.OtherTriggers : Prop :=
  ∀ s k, Turn s k →
    (∀ (o : UOp) (v : BitVec 12) (a : Src) (m : Bool), (∀ f, a ≠ .f f) → (ready s k).read k a = .scalar (v.signExtend 64) →
      exec (.ti (.trig o) v m) s = exec (.ofUnit o a Guard.always false m) s) ∧
    (∀ (o : UOp) (a c : Src) (m : Bool), (∀ f, a ≠ .f f) →
      exec (.t2 a (.x 0) c (.trig o) m) s = exec (.ofUnit o c Guard.always false m) (s.onWatch k id)) ∧
    (∀ (o : UOp) (a c : Src) (l : Latch) (m : Bool) (u : State),
      (∀ f, a ≠ .f f) → (∀ f, c ≠ .f f) →
      let s' := s.onWatch k fun w => arrives w (BitVec.allOnes 32) ((ready s k).read k a) (.latch l)
      (ready s' k).trigCheck k o ((ready s k).read k c) = .ok u →
      exec (.t2 a (.latch l) c (.trig o) m) s = exec (.ofUnit o c Guard.always false m) s') ∧
    (∀ (a c : Src) (m : Bool),
      let r := ((ready s k).touchSrc k a).touchSrc k c
      let w := r.watch k
      let b := w.finishWord 4 .seq (!m)
      let R := w.latch .iaA + ((ready s k).read k a).toScalar
      exec (.t2 a (.trig (.ia .add)) c (.trig (.im .mul)) m) s = .next (passed r k m (fly
        (if m then fly b ⟨w.img.slot + 1, .ia, R, 0, none, none, 0, 0, w.pc⟩
          else { b with img := { b.img with tport := b.img.tport.setIfInBounds 0 R } })
        ⟨w.img.slot + 3, .im, w.latch .imA * ((ready s k).read k c).toScalar, 0, none, none, 0, 0, w.pc⟩))) ∧
    (∀ (a c : Src) (m : Bool),
      let r := ((ready s k).touchSrc k a).touchSrc k c
      let A := ((ready s k).read k a).toScalar
      let b := ((r.watch k).setLatch .iaA A).finishWord 4 .seq (!m)
      let R := A + ((ready s k).read k c).toScalar
      exec (.t2 a (.latch .iaA) c (.trig (.ia .add)) m) s = .next (passed r k m (if m then
          fly b ⟨(r.watch k).img.slot + 1, .ia, R, 0, none, none, 0, 0, (r.watch k).pc⟩
        else { b with img := { b.img with tport := b.img.tport.setIfInBounds 0 R } }))) ∧
    (∀ (o : IaOp) (v : BitVec 12) (m : Bool),
      let b := (s.watch k).endPass.finishWord 4 .seq (!m)
      ∃ R, IaTable 64 o ((s.watch k).latch .iaA) (v.signExtend 64) R ∧
      exec (.ti (.trig (.ia o)) v m) s = .next (passed (ready s k) k m (if m then
          fly b ⟨(s.watch k).endPass.img.slot + 1, .ia, R, 0, none, none, 0, (UOp.ia o).code.toNat, (s.watch k).endPass.pc⟩
        else { b with img := { b.img with tport := b.img.tport.setIfInBounds 0 R } })))

/-- `li` and `lh` (R107): the constant sign-extended, or the register shifted left by 21 with the constant below; x0 discards it. -/
def Sys2Proof.Claims.Constants : Prop :=
  ∀ s k, Turn s k → ∀ (d : XReg) (v : BitVec 21) (m : Bool),
    let b := (s.watch k).endPass.finishWord 4 .seq (!m)
    exec (.li d v m) s = .next (passed (ready s k) k m
      (arrives b (BitVec.allOnes 32) (.scalar (v.signExtend 64)) (.x d))) ∧
    exec (.lh d v m) s = .next (passed (ready s k) k m
      (arrives b (BitVec.allOnes 32) (.scalar ((s.watch k).xRead d.val <<< 21 ||| v.setWidth 64)) (.x d)))

/-- The conversions between classes (R53): a scalar stands in every quarter of a vector; a vector gives its low quarter; bit i of a
predicate is byte lane i of a vector, all ones or not; a scalar's low 32 bits are a predicate. -/
def Obligations.Conversions : Prop :=
  (∀ (w : Word) (i : Nat), i < 4 → (Datum.scalar w).toVec.extractLsb' (64 * i) 64 = w) ∧
  (∀ (v : Vec), (Datum.vector v).toScalar = v.extractLsb' 0 64) ∧
  (∀ (p : Pred) (i : Nat), i < 32 → (Datum.pred p).toVec.extractLsb' (8 * i) 8 = if p.getLsbD i then 255 else 0) ∧
  (∀ (v : Vec) (i : Nat), i < 32 → (Datum.vector v).toPred.getLsbD i = decide (v.extractLsb' (8 * i) 8 = 255)) ∧
  (∀ (p : Pred), (Datum.pred p).toScalar.toNat = p.toNat) ∧
  (∀ (w : Word) (i : Nat), i < 32 → (Datum.scalar w).toPred.getLsbD i = w.getLsbD i) ∧
  (∀ (p : Pred) (old new : Vec) (i : Nat), i < 32 →
    (blend p old new).extractLsb' (8 * i) 8 = if p.getLsbD i then new.extractLsb' (8 * i) 8 else old.extractLsb' (8 * i) 8)

/-- `to` to every destination that is no trigger port (R104), an f register among them (R54, R162, R163). -/
def Obligations.TransportWords : Prop := TransportWord ∧ FloatTransport

/-- `t2`, `ti`, `li` and `lh` (R56, R105 to R107), to every class of destination, with the triggers that `t2` and `ti` start (R51). -/
def Obligations.ConstantTransports : Prop := TwoTransports ∧ FloatTransports ∧ OtherTriggers ∧ Constants
/-! ### Branches and loops -/

namespace Sys2Proof.Claims
open Sys2Proof.Machine

/-- A watch whose taken branch has passed its slot (R111, R112, R116): issue goes on at the target, and the loop levels whose bodies
do not hold it have ended. -/
def jumped (b : Watch) (t : Word) : Watch :=
  { b with pc := t, passDue := none, img := { b.img with loops := b.img.loops.filter fun l => l.first ≤ t ∧ t < l.next } }

/-- The link of a taken branch in x31 (R111, R112). -/
def linked (b : Watch) (v : Word) : Watch :=
  { taken b 31 with x := b.x.setIfInBounds 31 v }

end Sys2Proof.Claims

/-- `b` and `bl` (R111, R116): taken when the guard's bit 0 is set, to the word's address plus twice the offset; `bl` taken writes
pc + 4 to x31; not taken, issue goes on at the next word. -/
def Sys2Proof.Claims.RelativeBranches : Prop :=
  ∀ s k, Turn s k → ∀ (g : Guard) (o : BitVec 19) (m : Bool),
    let w := (s.watch k).endPass
    let b := w.finishWord 4 .seq (!m)
    let t := w.pc + (o.signExtend 64 <<< 1)
    exec (.b g o m) s = .next (passed (ready s k) k m (if (w.guard g).getLsbD 0 then jumped b t else b)) ∧
    exec (.bl g o m) s =
      .next (passed (ready s k) k m (if (w.guard g).getLsbD 0 then linked (jumped b t) (w.pc + 4) else b))

/-- `jr` and `jlr` (R45, R112): taken to the address in the register, read before the link is written; an odd target of a taken branch
is the alignment trap, cause 4, whose value is the target. -/
def Sys2Proof.Claims.RegisterBranches : Prop :=
  ∀ s k, Turn s k → ∀ (g : Guard) (x : XReg) (m : Bool),
    let w := (s.watch k).endPass
    let b := w.finishWord 4 .seq (!m)
    let t := w.xRead x.val
    let trap := Host.Outcome.next (φ := Fault) (ρ := Refusal)
      ((ready s k).trap1 k 4 t w.pc w.pc false)
    ((w.guard g).getLsbD 0 = true → t.getLsbD 0 = true → exec (.jr g x m) s = trap ∧ exec (.jlr g x m) s = trap) ∧
    ((w.guard g).getLsbD 0 = true → t.getLsbD 0 = false →
      exec (.jr g x m) s = .next (passed (ready s k) k m (jumped b t)) ∧
      exec (.jlr g x m) s = .next (passed (ready s k) k m (linked (jumped b t) (w.pc + 4)))) ∧
    ((w.guard g).getLsbD 0 = false →
      exec (.jr g x m) s = .next (passed (ready s k) k m b) ∧ exec (.jlr g x m) s = .next (passed (ready s k) k m b))

/-- `loop` (R113, R115, R117), its body of n + 1 words located: with the guard set and a count that is not 0 a level is entered whose
counter is that count and whose body begins behind the word, and the loop buffer is given to the outermost body unless it holds it, and
takes its words as they issue; with the guard clear or a count of 0 the body is skipped; a fourth level, or a body that ends beyond the innermost active one, is the trap of cause 0x12. -/
def Obligations.LoopWord : Prop :=
  ∀ s k, Turn s k → ∀ (g : Guard) (n : BitVec 8) (c : XReg) (m : Bool) (last next : Nat) (r : State),
    let w := (s.watch k).endPass
    let count := w.xRead c.val
    let enters := (w.guard g).getLsbD 0 = true ∧ count ≠ 0
    (ready s k).body k (n.toNat + 1) 0 (w.pc.toNat + 4) = .ok (last, next, r) →
    (¬enters → exec (.loop g n c m) s =
      .next (passed r k m { w.finishWord 4 .seq (!m) with pc := BitVec.ofNat 64 next })) ∧
    (enters → w.img.loops.length < 3 → (∀ l ∈ w.img.loops.head?, last ≤ l.last.toNat) →
      let l : Loop := ⟨count, w.pc + 4, BitVec.ofNat 64 last, BitVec.ofNat 64 next⟩
      let o := (w.img.loops.getLast?).getD l
      let r' := if w.img.loops ≠ [] ∧ (r.coreAt (k / 4)).loopTag = some (k % 4, o.first) then r else r.onCore (k / 4) fun v =>
          { v with loopTag := some (k % 4, o.first), loopBuf := [] }
      exec (.loop g n c m) s = .next (passed r' k m
        (Watch.finishWord { w with img := { w.img with loops := l :: w.img.loops } } 4 .seq (!m)))) ∧
    (enters → 3 ≤ w.img.loops.length → exec (.loop g n c m) s =
      .next ((ready s k).trap1 k 0x12 0 w.pc w.pc false)) ∧
    (enters → w.img.loops.length < 3 → (∃ l ∈ w.img.loops.head?, l.last.toNat < last) → exec (.loop g n c m) s =
      .next ((ready s k).trap1 k 0x12 1 w.pc w.pc false))

/-- The four branch words (R45, R111, R112, R116). -/
def Obligations.Branches : Prop := RelativeBranches ∧ RegisterBranches
/-! ### Loads -/

namespace Sys2Proof.Claims
open Sys2Proof.Machine

/-- A watch after its word: parked where the word carries the marker (R63). -/
def marked (m : Bool) (p : Word) (w : Watch) : Watch := if m then w.park .marker p else w

/-- A vector of bytes, byte 0 lowest (R2). -/
def vecOf (l : List Byte) : Vec := join 8 (l.map BitVec.toNat)

/-- The undelivered entries that a load word leaves for its registers, each with its bytes in the word and whether they are still to
come (R62). -/
def pending (w : Watch) (signed : Bool) (ea : Word) (need : Nat) (bytes : List Byte) (regs : List (LReg × Nat × Nat)) :
    List PLoad :=
  regs.map fun r => ⟨w.ord, r.1, vecOf ((bytes.drop r.2.1).take r.2.2), r.2.2, signed, r.2.1, need, BitVec.allOnes 32, w.pc, ea⟩

/-- The undelivered loads of a watch after one of place `ord` has issued: those of other places as they were, then its own entries. -/
def Adds (w : Watch) (new l : List PLoad) : Prop :=
  l.drop w.loads.length = new ∧
    (l.take w.loads.length).filter (fun x => x.ord ≠ w.ord) = w.loads.filter fun x => x.ord ≠ w.ord

/-- Nothing that a watch has in the memory path, and no stamped store of its own that is undecided, keeps an access to these bytes
waiting (R277, R278). -/
abbrev Clear (s : State) (k : Nat) (l : List (Nat × Nat)) : Prop := (s.watch k).path = [] ∧ s.keepsMeet k l = false

/-- What a load leaves alone: memory and its cells, stores on their way, and every other watch. -/
def QuietLoad (s t : State) (k : Nat) : Prop :=
  t.mem = s.mem ∧ t.cells = s.cells ∧ t.stores = s.stores ∧ t.keepq = s.keepq ∧ t.bankq = s.bankq ∧
    (∀ b, b ≠ boardOf (k / 4) → t.updates.filter (·.board = b) = s.updates.filter (·.board = b)) ∧
    ∀ j, j ≠ k → t.watch j = s.watch j

/-- A load waits for a link that retrains, or, with no byte of its own core's to take it from, for its line, which is in miss or has
been asked for (R268, R356, R399). -/
def Waits (s : State) (q : LoadReq) : Bool :=
  s.behindRetrain q.addr || (!(q.got.all Option.isSome) && (s.recordMiss (q.addr / 64) (pteType q.pte = 1) (.load q)).1)
/-- The machine has a load recorded: with its line in miss, queued at its slice, or behind a link (R356, R399). -/
def Recorded (s : State) (q : LoadReq) : Prop :=
  q ∈ s.linkLoads ∨ ∃ e ∈ s.slices, (∃ m ∈ e.2.misses, m.line = q.addr / 64 ∧ .load q ∈ m.reqs) ∨
    (q.addr / 64, .load q) ∈ e.2.queue ∨ (q.addr / 64, .load q) ∈ e.2.port

/-- A load of `n` bytes of a page that has come, or waits (R62, R268, R356): where it waits, its request is recorded, its entries have
no bytes and the region waits for it; else its entries have the bytes that the core sees. `b` is the watch once the word's slot has
passed, `v` the watch but for its loads. -/
def LoadAnswered (s t : State) (k : Nat) (m : Bool) (q : LoadReq) (signed : Bool) (bytes : List Byte) (regs : List (LReg × Nat × Nat))
    (b v : Watch) (wait : Bool) : Prop :=
  let w := (s.watch k).endPass
  if wait then Recorded t q ∧
    t.watch k = marked m w.pc { b with
      ord := w.ord + 1
      loads := w.loads ++ pending w signed q.va 1 [] regs
      img := { b.img with waits := w.img.waits ++ [(s.ticket, none)] } }
  else ∃ l, Adds w (pending w signed q.va 0 bytes regs) l ∧
    t.watch k = marked m w.pc { v with
      ord := w.ord + 1
      loads := l
      img := { b.img with waits := w.img.waits.filter fun x => x.1 ≠ s.ticket } }

/-- A load word of `n` bytes from a page of memory, its address in one sector and, where its lines may be cached, one line; on a KEEP page
aligned; nothing of its own in its way: its bytes are those that the core sees there (its own stores, its board's copy, the home: R268,
R278), at once or when its line's fill or its link has come (R356, R399); its registers are loaded when the region's marker is
reached (R62), and nothing else changes but which lines are held where. -/
def LoadsFrom (i : Instr) (m : Bool) (n : Nat) (signed : Bool) (b : XReg) (o : BitVec 12) (regs : Watch → List (LReg × Nat × Nat)) : Prop :=
  ∀ s k, Turn s k → ∀ a e,
    let r := ready s k
    let w := (s.watch k).endPass
    let va := (w.xRead b.val + o.signExtend 64).toNat
    Clear r k [(a, n)] → r.resolveAll k .load va n = .ok [(.mem a e, va, 0, n)] →
    (pteType e = 1 → va % n = 0) →
    r.poisoned a n = false → (a / 64 = (a + n - 1) / 64 ∨ cacheable e = false) →
    let q : LoadReq := ⟨s.ticket, k, w.ord, w.pc, BitVec.ofNat 64 va, 0, a, n, e, { size := n, signed := signed },
      r.gotBytes (k / 4) e a n, []⟩
    let v := w.finishWord 4 .seq (!m)
    ∃ t, exec i s = .next t ∧ QuietLoad s t k ∧
      LoadAnswered s t k m q signed ((List.range n).map fun j => r.coreByte (k / 4) e (a + j)) (regs w) v v (Waits r q)

/-- The same word on a bank of a board's store: the access is on its way to the bank controller, and the region waits for it
(R246, R272). -/
def LoadsBank (i : Instr) (m : Bool) (n : Nat) (signed : Bool) (b : XReg) (o : BitVec 12) (regs : Watch → List (LReg × Nat × Nat)) : Prop :=
  ∀ s k, Turn s k → ∀ bd off,
    let r := ready s k
    let w := (s.watch k).endPass
    let va := (w.xRead b.val + o.signExtend 64).toNat
    let ea := BitVec.ofNat 64 va
    let v := w.finishWord 4 .seq (!m)
    Clear r k [(storeAddr bd off, n)] → r.resolveAll k .load va n = .ok [(.bank bd off, va, 0, n)] →
    exec i s = .next (passed
      { r with ticket := r.ticket + 1, bankq := r.bankq ++ [⟨r.ticket, k, w.ord, w.pc, ea, bd, off, 0, n, .load, r.cycles⟩] } k m { v with
        ord := w.ord + 1
        loads := w.loads ++ pending w signed ea 1 [] (regs w)
        img := { v.img with waits := v.img.waits ++ [(r.ticket, none)] } })

/-- The same word wherever its pieces lie, one to each 32-byte sector of memory, each bank of a board's store and each 8 bytes of HOST-U memory
that it touches (R246, R275, R397): it completes, and what stands in memory,
what is on its way and every other watch are as they were. A piece in a bank is on its way to the bank controller. Where every piece is of
memory that can answer at once (no store is on its way, no error, no link that retrains, its line held by its slice or in none, no copy of its
line in the board's cache), the registers have the bytes of all pieces in their order. -/
def LoadsAcross (i : Instr) (m : Bool) (n : Nat) (signed : Bool) (b : XReg) (o : BitVec 12) (regs : Watch → List (LReg × Nat × Nat)) : Prop :=
  ∀ s k, Turn s k → ∀ ps,
    let r := ready s k
    let w := (s.watch k).endPass
    let va := (w.xRead b.val + o.signExtend 64).toNat
    let v := marked m w.pc (w.finishWord 4 .seq (!m))
    r.loadCheck k { size := n, signed := signed } va = .ok ps → Clear r k (ps.map spanOfPiece) →
    ∃ t, exec i s = .next t ∧ t.mem = s.mem ∧ t.cells = s.cells ∧ t.stores = s.stores ∧ t.keepq = s.keepq ∧
      t.bankq.take s.bankq.length = s.bankq ∧ (∀ j, j ≠ k → t.watch j = s.watch j) ∧
      (t.watch k).x = v.x ∧ (t.watch k).v = v.v ∧ (t.watch k).windows = v.windows ∧ (t.watch k).pc = v.pc ∧ (t.watch k).ord = w.ord + 1 ∧
      (∀ p ∈ ps, ∀ bd off, p.1 = .bank bd off →
        ∃ x, (⟨x, k, w.ord, w.pc, BitVec.ofNat 64 p.2.1, bd, off, p.2.2.1, p.2.2.2, .load, r.cycles⟩ : BankReq) ∈ t.bankq) ∧
      (s.stores = [] → s.updates = [] → (∀ e ∈ s.slices, e.2.misses = []) →
        (∀ p ∈ ps, ∃ a e, p.1 = .mem a e ∧ r.poisoned a p.2.2.2 = false ∧ r.behindRetrain a = false ∧
          (r.sliced a = false ∨ (r.tag? (a / 64)).isSome = true) ∧ (cacheable e = false ∨ (r.boardAt (boardOf (k / 4))).ways = [])) →
        Adds w (pending w signed (BitVec.ofNat 64 va) 0 (ps.flatMap fun p => (List.range p.2.2.2).map fun j => match p.1 with
          | .mem a e => r.coreByte (k / 4) e (a + j)
          | _ => 0) (regs w)) (t.watch k).loads)

/-- Every load word of R288, with its size, its sign extension, and its registers with their place in its bytes. -/
def EveryLoad (P : Instr → Bool → Nat → Bool → XReg → BitVec 12 → (Watch → List (LReg × Nat × Nat)) → Prop) : Prop :=
  (∀ r b o m, P (.ldb r b o m) m 1 true b o fun _ => [(.x r, 0, 1)]) ∧
  (∀ r b o m, P (.ldh r b o m) m 2 true b o fun _ => [(.x r, 0, 2)]) ∧
  (∀ r b o m, P (.ldw r b o m) m 4 true b o fun _ => [(.x r, 0, 4)]) ∧
  (∀ r b o m, P (.ldd r b o m) m 8 false b o fun _ => [(.x r, 0, 8)]) ∧
  (∀ r b o m, P (.ldbz r b o m) m 1 false b o fun _ => [(.x r, 0, 1)]) ∧
  (∀ r b o m, P (.ldhz r b o m) m 2 false b o fun _ => [(.x r, 0, 2)]) ∧
  (∀ r b o m, P (.ldwz r b o m) m 4 false b o fun _ => [(.x r, 0, 4)]) ∧
  (∀ (r : Fin 16) b o m, P (.ldq r b o m) m 16 false b o fun _ =>
    [(.x (pairReg r 0), 0, 8), (.x (pairReg r 1), 8, 8)]) ∧
  (∀ r b o m, P (.ldv r b o m) m 32 false b o fun _ => [(.v r, 0, 32)]) ∧
  (∀ r b o m, P (.ldf r b o m) m 8 false b o fun w => [(.f r (w.windows.length - 1), 0, 8)])

/-- The own-slot traps of a load word (R245, R266, R267, R275, R287): an access whose first refused piece has a cause takes that trap, with
the piece's address; nothing is loaded. -/
def TrapsFor (i : Instr) (_m : Bool) (n : Nat) (_signed : Bool) (b : XReg) (o : BitVec 12)
    (_regs : Watch → List (LReg × Nat × Nat)) : Prop :=
  ∀ s k, Turn s k → ∀ c a,
    let r := ready s k
    let w := (s.watch k).endPass
    let va := (w.xRead b.val + o.signExtend 64).toNat
    r.resolveAll k .load va n = .error (c, a) →
    exec i s = .next (r.trap1 k c (BitVec.ofNat 64 a) w.pc w.pc false)

/-- An access that meets a KEEP page and is not aligned to its size is the alignment trap (R287). -/
def KeepAlign (i : Instr) (_m : Bool) (n : Nat) (_signed : Bool) (b : XReg) (o : BitVec 12)
    (_regs : Watch → List (LReg × Nat × Nat)) : Prop :=
  ∀ s k, Turn s k → ∀ ps,
    let r := ready s k
    let w := (s.watch k).endPass
    let va := (w.xRead b.val + o.signExtend 64).toNat
    r.resolveAll k .load va n = .ok ps → (∃ p ∈ ps, ∃ a e, p.1 = .mem a e ∧ pteType e = 1) → va % n ≠ 0 →
    exec i s = .next (r.trap1 k 4 (BitVec.ofNat 64 va) w.pc w.pc false)

end Sys2Proof.Claims

/-- The ten load words from memory pages, in one sector and across sectors, pages and banks (R62, R268, R275, R278, R287, R288). -/
def Sys2Proof.Claims.LoadsFromMemory : Prop := EveryLoad LoadsFrom ∧ EveryLoad LoadsAcross

/-- Where the ten load words trap in their own slot: at the first piece that is refused, and unaligned on a KEEP page (R287). -/
def Sys2Proof.Claims.LoadTraps : Prop := EveryLoad TrapsFor ∧ EveryLoad KeepAlign

/-- `ldacq` and `ldro` from a page that is not KEEP (R280, R286): an aligned acquire, of a line that is not in miss and behind no link
that retrains, reads the home, after the core's own stores to the bytes have been performed there; the read-only path returns the line
its board's read-only cache holds, else the home's, at once or when its line's fill has come, and what is written elsewhere does not
reach a line held there. An unaligned acquire is the alignment trap. The value is read as the word issues, and an acquire performs at once
what it waits for: the model's choices (logs 7 and 8). -/
def Obligations.AcquireAndReadOnly : Prop :=
  ∀ s k, Turn s k → ∀ (x b : XReg) (o : BitVec 12) (m : Bool) a e,
    let r := ready s k
    let w := (s.watch k).endPass
    let va := (w.xRead b.val + o.signExtend 64).toNat
    let v := w.finishWord 4 .seq (!m)
    let c := k / 4
    (va % 8 ≠ 0 → exec (.ldacq x b o m) s = .next (r.trap1 k 4 (BitVec.ofNat 64 va) w.pc w.pc false)) ∧
    (Clear r k [(a, 8)] → r.resolveAll k .load va 8 = .ok [(.mem a e, va, 0, 8)] → pteType e ≠ 1 →
      (va % 8 = 0 → r.poisoned a 8 = false → r.behindRetrain a = false → (r.sliced a = false ∨ r.inMiss (a / 64) = false) →
        ∃ t l, exec (.ldacq x b o m) s = .next t ∧ t.mem = (r.drainOver c a 8).mem ∧ (∀ j, j ≠ k → t.watch j = (r.drainOver c a 8).watch j) ∧
          Adds w (pending w false (BitVec.ofNat 64 va) 0 ((List.range 8).map fun j => t.home (a + j)) [(.x x, 0, 8)]) l ∧
          (t.watch k).loads = l ∧ (t.watch k).x = v.x) ∧
      (r.poisoned a 8 = false → cacheable e = true → a / 64 = (a + 7) / 64 →
        let held := ((r.boardAt (boardOf c)).ro.find? (·.1 = a / 64)).map Prod.snd
        let q : LoadReq := ⟨s.ticket, k, w.ord, w.pc, BitVec.ofNat 64 va, 0, a, 8, e, { size := 8, readOnly := true },
          r.gotBytes c e a 8, []⟩
        ∃ t, exec (.ldro x b o m) s = .next t ∧ QuietLoad s t k ∧
          LoadAnswered s t k m q false ((List.range 8).map fun j => match held with
              | some l => lineByte l ((a + j) % 64)
              | none => r.home (a + j)) [(.x x, 0, 8)] v v
            (r.behindRetrain a || (held.isNone && (r.recordMiss (a / 64) (pteType e = 1) (.load q)).1))))

/-- `ldk` and `ldkv` (R304): aligned, from a KEEP page, no stamped store of the watch to its bytes undecided: each cell gives its value of
the highest dot, at once or when its line's fill has come; `sib` takes the greatest number of values of a cell, and the watch's enrolment
in the region, if it has one, joins the dots returned. From another page the words load what the core sees and set `sib` to 1. The value
is the one at issue when the line is at hand, the model's choice (log 7). -/
def Obligations.KeepingLoads : Prop :=
  ∀ s k, Turn s k → ∀ (b : XReg) (o : BitVec 12) (m : Bool) a e (n : Nat) (i : Instr) (reg : LReg),
    ((n = 8 ∧ ∃ x, i = .ldk x b o m ∧ reg = .x x) ∨ (n = 32 ∧ ∃ x, i = .ldkv x b o m ∧ reg = .v x)) →
    let r := ready s k
    let w := (s.watch k).endPass
    let va := (w.xRead b.val + o.signExtend 64).toNat
    let v := w.finishWord 4 .seq (!m)
    Clear r k [(a, n)] → va % n = 0 → r.resolveAll k .keep va n = .ok [(.mem a e, va, 0, n)] → r.poisoned a n = false →
    (a / 64 = (a + n - 1) / 64 ∨ cacheable e = false) →
    let cells := (cellsOf a n).map r.cellVals
    let q : LoadReq := ⟨s.ticket, k, w.ord, w.pc, BitVec.ofNat 64 va, 0, a, n, e, { size := n, align := n, keep := true },
      r.gotBytes (k / 4) e a n, []⟩
    ∃ t, exec i s = .next t ∧ QuietLoad s t k ∧
      LoadAnswered s t k m q false ((List.range n).map fun j => r.coreByte (k / 4) e (a + j)) [(reg, 0, n)] v
        (if pteType e = 1 then { v with
          sib := BitVec.ofNat 64 ((cells.map List.length).foldl max 1)
          kenr := match w.enrolled (pteAux e) with
            | none => w.kenr
            | some q => w.kenr.setIfInBounds q ((w.enrol q).join (dotsOf (cells.map topVal))) } else { v with sib := 1 }) (Waits r q)

/-- The ten load words from memory pages, and where they trap in their own slot (R62, R268, R278, R287, R288). A load's value is the one at
issue when its line is at hand, the model's choice (log 7). -/
def Obligations.LoadWords : Prop := LoadsFromMemory ∧ LoadTraps
/-! ### Stores -/

namespace Sys2Proof.Claims
open Sys2Proof.Machine

/-- A plain store word wherever its pieces lie, one to each 32-byte sector of memory, each bank of a board's store and each
8 bytes of HOST-U memory that it touches, none on a KEEP page and none of their bytes such
as only the device writes (R246, R270, R271, R275, R289, R397): the home and every other watch are as they were. Each piece of memory the core sees
from then on; each piece in a bank of a board's store is on its way to the bank controller, and the region waits for it (R246, R272). -/
def StoresTo (i : Instr) (m : Bool) (b : XReg) (o : BitVec 12) (data : Watch → List Byte) : Prop :=
  ∀ s k, Turn s k → ∀ ps,
    let r := ready s k
    let w := (s.watch k).endPass
    let va := (w.xRead b.val + o.signExtend 64).toNat
    let l := data w
    let v := w.finishWord 4 .seq (!m)
    (∀ x ∈ w.windows, x.spilled = false) →
    Clear r k (ps.map spanOfPiece) → r.resolveAll k .store va l.length = .ok ps →
    (∀ p ∈ ps, ∀ a e, p.1 = .mem a e → pteType e ≠ 1 ∧ r.cutOff a = false ∧ ∀ j, j < p.2.2.2 → r.pageHeld (a + j) = false) →
    ps.Pairwise (fun p q => spansMeet [spanOfPiece p] [spanOfPiece q] = false) →
    ∃ t, exec i s = .next t ∧ t.mem = s.mem ∧ t.cells = s.cells ∧ (∀ j, j ≠ k → t.watch j = s.watch j) ∧
      (∃ l, t.watch k = marked m w.pc { v with ord := w.ord + 1, img := { v.img with waits := w.img.waits ++ l } } ∧
        l.length = (ps.filter fun p => match p.1 with | .bank .. => true | _ => false).length) ∧
      ∀ p ∈ ps, (∀ a e, p.1 = .mem a e → ∀ j, j < p.2.2.2 → t.coreByte (k / 4) e (a + j) = l.getD (p.2.2.1 + j) 0) ∧
        ∀ bd off, p.1 = .bank bd off → ∃ x, (x, none) ∈ (t.watch k).img.waits ∧
          (⟨x, k, w.ord, w.pc, BitVec.ofNat 64 p.2.1, bd, off, p.2.2.1, p.2.2.2, .store ((l.drop p.2.2.1).take p.2.2.2)
            (List.replicate p.2.2.2 0xFF), r.cycles⟩ : BankReq) ∈ t.bankq

/-- The own-slot traps of a store word: its first refused piece has the trap's cause and address; a store that meets a KEEP page and is not
aligned to its size is the alignment trap (R245, R275, R287). -/
def StoreTraps (i : Instr) (_m : Bool) (b : XReg) (o : BitVec 12) (data : Watch → List Byte) : Prop :=
  ∀ s k, Turn s k → let r := ready s k
    let w := (s.watch k).endPass
    let va := (w.xRead b.val + o.signExtend 64).toNat
    let n := (data w).length
    (∀ c a, r.resolveAll k .store va n = .error (c, a) → exec i s = .next (r.trap1 k c (BitVec.ofNat 64 a) w.pc w.pc false)) ∧
    (∀ ps, r.resolveAll k .store va n = .ok ps → (∃ p ∈ ps, ∃ a e, p.1 = .mem a e ∧ pteType e = 1) → va % n ≠ 0 →
      exec i s = .next (r.trap1 k 4 (BitVec.ofNat 64 va) w.pc w.pc false))

/-- The same word on one bank of a board's store: it is on its way to the bank controller, and the region waits for it (R246, R272). -/
def StoresBank (i : Instr) (m : Bool) (b : XReg) (o : BitVec 12) (data : Watch → List Byte) : Prop :=
  ∀ s k, Turn s k → ∀ bd off,
    let r := ready s k
    let w := (s.watch k).endPass
    let va := (w.xRead b.val + o.signExtend 64).toNat
    let l := data w
    (∀ x ∈ w.windows, x.spilled = false) →
    Clear r k [(storeAddr bd off, l.length)] → r.resolveAll k .store va l.length = .ok [(.bank bd off, va, 0, l.length)] →
    ∃ t, exec i s = .next t ∧ t.mem = s.mem ∧ (∀ j, j ≠ k → t.watch j = s.watch j) ∧
      t.bankq = s.bankq ++ [⟨s.ticket, k, w.ord, w.pc, BitVec.ofNat 64 va, bd, off, 0, l.length, .store l (List.replicate l.length 0xFF), r.cycles⟩] ∧
      t.watch k = marked m w.pc { w.finishWord 4 .seq (!m) with
        ord := w.ord + 1
        img := { (w.finishWord 4 .seq (!m)).img with waits := w.img.waits ++ [(s.ticket, none)] } }

/-- The stamped store that a word of watch `k` leaves for its home: the bytes of one piece, its dot, the generation and the clock of
the enrolment as they stood before it, and whether the clock is attached (R299, R302). -/
def stamped (s r : State) (k : Nat) (ea : Word) (a region : Nat) (l : List Byte) (n : Enrol) (attach : Bool) : KeepReq :=
  ⟨s.ticket, k, (s.watch k).endPass.ord, (s.watch k).endPass.pc, ea, ((List.range l.length).map (a + ·)).zip l, List.replicate l.length 0xFF,
    (s.watch k).endPass.part, region, n.slot, n.clock.get 0 n.slot + 1, n.gen, n.clock, attach, false, false, 0, 0, false, r.cycles⟩

/-- The enrolment once its watch's next store has taken its dot (R299). -/
def Counted (n : Enrol) : Enrol := { n with clock := Tbl.put 0 n.clock n.slot (n.clock.get 0 n.slot + 1) }

/-- The same word on a KEEP page (R295, R299, R302, R308): aligned to its size, by a watch enrolled in the page's region whose counter is
below its limit, it is on its way with the next dot of the watch's slot and no clock attached, and the region waits for it; by a watch
that is not enrolled, which has a register free for it and whose region has a slot FREE below its limit, it enrols the watch first, its
counter going on from the slot's; with no register or no slot free, or at the counter's limit, it is the trap of cause 0x0B. -/
def StoresKeep (i : Instr) (m : Bool) (b : XReg) (o : BitVec 12) (data : Watch → List Byte) : Prop :=
  ∀ s k, Turn s k → ∀ a e,
    let r := ready s k
    let w := (s.watch k).endPass
    let va := (w.xRead b.val + o.signExtend 64).toNat
    let ea := BitVec.ofNat 64 va
    let l := data w
    let g := r.region w.part (pteAux e)
    let frees := fun n => n < min g.limit 64 ∧ g.slots.get .free n = .free
    let trap := Host.Outcome.next (φ := Fault) (ρ := Refusal) (r.trap1 k 0xB ea w.pc w.pc false)
    let sends := fun (t : State) (q : Nat) (n : Enrol) => t.mem = s.mem ∧ t.cells = s.cells ∧ (∀ j, j ≠ k → t.watch j = s.watch j) ∧
      t.keepq = s.keepq ++ [stamped s r k ea a (pteAux e) l n false] ∧
      t.watch k = marked m w.pc { w.finishWord 4 .seq (!m) with
        ord := w.ord + 1
        kenr := w.kenr.setIfInBounds q (Counted n)
        img := { (w.finishWord 4 .seq (!m)).img with waits := w.img.waits ++ [(s.ticket, none)] } }
    (∀ x ∈ w.windows, x.spilled = false) →
    Clear r k [(a, l.length)] → r.resolveAll k .store va l.length = .ok [(.mem a e, va, 0, l.length)] →
    pteType e = 1 → va % l.length = 0 →
    (w.enrolled (pteAux e) = none → ((∀ q, q < 4 → (w.enrol q).valid = true) ∨ ∀ n, ¬frees n) → exec i s = trap) ∧
    (∀ q, w.enrolled (pteAux e) = some q → 0xFFFFFF ≤ (w.enrol q).clock.get 0 (w.enrol q).slot → exec i s = trap) ∧
    (∀ q, w.enrolled (pteAux e) = some q → (w.enrol q).clock.get 0 (w.enrol q).slot < 0xFFFFFF →
      ∃ t, exec i s = .next t ∧ sends t q (w.enrol q)) ∧
    (∀ q n, w.enrolled (pteAux e) = none → (s.part? w.part).isSome = true → q < 4 → (w.enrol q).valid = false →
      (∀ j, j < q → (w.enrol j).valid = true) → frees n → (∀ j, j < n → ¬frees j) → g.counters.get 0 n < 0xFFFFFF →
      ∃ t, exec i s = .next t ∧ sends t q ⟨true, pteAux e, n, 0, Tbl.put 0 [] n (g.counters.get 0 n)⟩ ∧
        (t.region w.part (pteAux e)).slots.get .free n = .held k ∧
        (t.region w.part (pteAux e)).counters.get 0 n = g.counters.get 0 n + 1)

/-- The seven plain store words of R289, with their bytes. -/
def EveryStore (P : Instr → Bool → XReg → BitVec 12 → (Watch → List Byte) → Prop) : Prop :=
  (∀ x b o m, P (.stb x b o m) m b o fun w => leBytes 1 (w.xRead x.val).toNat) ∧
  (∀ x b o m, P (.sth x b o m) m b o fun w => leBytes 2 (w.xRead x.val).toNat) ∧
  (∀ x b o m, P (.stw x b o m) m b o fun w => leBytes 4 (w.xRead x.val).toNat) ∧
  (∀ x b o m, P (.std x b o m) m b o fun w => leBytes 8 (w.xRead x.val).toNat) ∧
  (∀ (x : Fin 16) b o m, P (.stq x b o m) m b o fun w =>
    leBytes 8 (w.xRead (2 * x.val)).toNat ++ leBytes 8 (w.xRead (2 * x.val + 1)).toNat) ∧
  (∀ x b o m, P (.stv x b o m) m b o fun w => leBytes 32 (w.vRead x.val).toNat) ∧
  (∀ x b o m, P (.stf x b o m) m b o fun w => leBytes 8 (w.fRead x.val).toNat)

end Sys2Proof.Claims

/-- The seven plain store words to memory pages and across sectors, pages and banks, and their traps (R270, R271, R275, R287, R289). -/
def Obligations.StoresToMemory : Prop := EveryStore StoresTo ∧ EveryStore StoreTraps

/-- The ten load words and the seven plain store words on a board's store (R246, R272, R288, R289). -/
def Obligations.BankWords : Prop := EveryLoad LoadsBank ∧ EveryStore StoresBank

/-- `strel` to a KEEP page, in an empty path, no link retraining (R280, R299, R302): aligned, by an enrolled watch, it is on its way with the
next dot of the watch's slot, with the writer's clock to attach, after every earlier store of its core. -/
def Sys2Proof.Claims.KeepRelease : Prop :=
  ∀ s k, Turn s k → ∀ (x b : XReg) (o : BitVec 12) (m : Bool) a e q,
    let r := ready s k
    let w := (s.watch k).endPass
    let va := (w.xRead b.val + o.signExtend 64).toNat
    let n := w.enrol q
    (s.watch k).path = [] → s.keepq = [] → s.linkLoads = [] → (∀ n, (s.linkAt n).retrain = none) →
    r.resolveAll k .store va 8 = .ok [(.mem a e, va, 0, 8)] → pteType e = 1 → w.enrolled (pteAux e) = some q →
    (va % 8 ≠ 0 → exec (.strel x b o m) s = .next (r.trap1 k 4 (BitVec.ofNat 64 va) w.pc w.pc false)) ∧
    (va % 8 = 0 → n.clock.get 0 n.slot < 0xFFFFFF → ∃ t g, exec (.strel x b o m) s = .next t ∧ t.keepq = [g] ∧
      g = { stamped s r k (BitVec.ofNat 64 va) a (pteAux e) (leBytes 8 (w.xRead x.val).toNat) n true with ticket := g.ticket } ∧
      (t.watch k).img.holds g.ticket = true ∧ (t.coreAt (k / 4)).wcb = [] ∧ (∀ h ∈ t.stores, h.core = k / 4 → h.applied = true) ∧
      (∀ h ∈ t.atomq, h.watch ≠ k) ∧ ∀ h ∈ t.bankq, h.watch ≠ k)

/-- The seven plain store words, and the two non-temporal ones, to KEEP pages, with the enrolment that a first store makes, and the release
store, which attaches the writer's clock (R287, R295, R299, R302, R308). A release performs at once what it waits for, the model's
choice (log 8). -/
def Obligations.StoresToKeeping : Prop :=
  EveryStore StoresKeep ∧
  (∀ x b o m, StoresKeep (.stnt x b o m) m b o fun w => leBytes 8 (w.xRead x.val).toNat) ∧
  (∀ x b o m, StoresKeep (.stvnt x b o m) m b o fun w => leBytes 32 (w.vRead x.val).toNat) ∧ KeepRelease

/-- `strel`, `stnt` and `stvnt` to a page that is not KEEP, in one sector, no link retraining (R272, R280, R285): the bytes are on their
way to their home, and the region waits for them; a release comes after every earlier access of its watch and every earlier store of its
core: no atomic and no board-store access of the watch waits, and no store of the core is in the write-combining buffer or unapplied but
the release itself; an unaligned release is the alignment trap; `stnt` and `stvnt` leave nothing of their line in the core's buffer. A release performs
at once what it waits for, the model's choice (log 8). To KEEP pages these words are in `StoresToKeeping`. -/
def Obligations.ReleaseAndNonTemporal : Prop :=
  ∀ s k, Turn s k → ∀ (b : XReg) (o : BitVec 12) (m : Bool) a e (i : Instr) (f : StoreForm) (l : List Byte),
    let r := ready s k
    let w := (s.watch k).endPass
    let va := (w.xRead b.val + o.signExtend 64).toNat
    ((∃ x, i = .strel x b o m ∧ f = { align := 8, release := true } ∧ l = leBytes 8 (w.xRead x.val).toNat) ∨
      (∃ x, i = .stnt x b o m ∧ f = { nt := true } ∧ l = leBytes 8 (w.xRead x.val).toNat) ∨
      (∃ x, i = .stvnt x b o m ∧ f = { nt := true } ∧ l = leBytes 32 (w.vRead x.val).toNat)) →
    (va % f.align ≠ 0 → exec i s = .next (r.trap1 k 4 (BitVec.ofNat 64 va) w.pc w.pc false)) ∧
    (va % f.align = 0 → (s.watch k).path = [] → s.keepq = [] → s.linkLoads = [] → (∀ n, (s.linkAt n).retrain = none) →
      r.resolveAll k .store va l.length = .ok [(.mem a e, va, 0, l.length)] → pteType e ≠ 1 → r.cutOff a = false →
      (∀ j, j < l.length → r.pageHeld (a + j) = false) →
      ∃ t, exec i s = .next t ∧
        (∃ g ∈ t.stores, g.core = k / 4 ∧ g.bytes = ((List.range l.length).map (a + ·)).zip l ∧ g.applied = false ∧ g.nt = f.nt ∧
          g.waits = some k ∧ (t.watch k).img.holds g.ticket = true ∧
          (f.release = true → (t.coreAt (k / 4)).wcb = [] ∧ (∀ h ∈ t.stores, h.core = k / 4 → h.applied = true ∨ h = g) ∧
            (∀ h ∈ t.atomq, h.watch ≠ k) ∧ ∀ h ∈ t.bankq, h.watch ≠ k)) ∧
        (f.nt = true → ∀ g ∈ (t.coreAt (k / 4)).wcb, ¬(g.line * 64 < a + l.length ∧ a < g.line * 64 + 64)) ∧
        (t.watch k).x = (w.finishWord 4 .seq (!m)).x ∧ (t.watch k).v = (w.finishWord 4 .seq (!m)).v ∧
        (t.watch k).pc = (marked m w.pc (w.finishWord 4 .seq (!m))).pc)
/-! ### CSRs, precision, windows, ordering -/

namespace Sys2Proof.Claims
open Sys2Proof.Machine

/-- The watch after a write of a CSR by `csrw` (R3, R4, R178, R179, R369, R377, R379): the writable fields take the value, a mode
of 5 to 7 leaves the mode field of `fst` and the flags that landed in the slot are kept; a read-only CSR ignores it. -/
def written (w : Watch) (n : Nat) (v : Word) : Watch :=
  if n = 0x001 then
    { w with fst := ((v &&& 0x13F3F00) ||| (if v.toNat % 8 ≤ 4 then v &&& 7 else w.fst &&& 7)) |||
        (w.img.landed.setWidth 64 <<< 8) }
  else if n = 0x070 then { w with nlend := v.setWidth 16 }
  else if n = 0x071 then { w with nbt := v.setWidth 16 }
  else if n = 0x080 then { w with quota := min (v.toNat % 128) 64 }
  else if n = 0x103 then { w with tnext := v &&& ~~~1 }
  else if n = 0x106 then { w with tsa0 := v }
  else if n = 0x107 then { w with tsa1 := v }
  else w

/-- Every earlier store of a core has been performed (R280, R284, R290): none is in its write-combining buffer, none is unapplied at
its home, and no forwarded word waits at a board. -/
def Performed (t : State) (c : Nat) : Prop :=
  (t.coreAt c).wcb = [] ∧ (∀ g ∈ t.stores, g.core = c → g.applied = true) ∧ t.updates = []

/-- The status that a word leaves for `sy.r` and `pst` at the marker (R61, R378). -/
def syDone (w : Watch) (v : Nat) : ParkRes := ⟨w.ord, .sy, BitVec.ofNat 64 v, v, 0, w.pc⟩

end Sys2Proof.Claims

/-- `csrr` and `csrw` (R368, R377): a number that R379 assigns is read into the register, or written by what `written` says; a number that
is not assigned, or a handler-only one written in user mode, is the illegal-instruction trap, cause 1, whose value is the word. -/
def Obligations.CsrWords : Prop :=
  ∀ s k, Turn s k → ∀ (a : XReg) (n : BitVec 9) (m : Bool),
    let r := ready s k
    let w := (s.watch k).endPass
    let only := n.toNat = 0x103 ∨ n.toNat = 0x106 ∨ n.toNat = 0x107
    (∀ v, r.csr? k n.toNat = some v →
      exec (.csrr a n m) s =
        .next (passed r k m (arrives (w.finishWord 4 .seq (!m)) (BitVec.allOnes 32) (.scalar v) (.x a))) ∧
      ((only → w.hm = true) →
        exec (.csrw a n m) s = .next (passed r k m ((written w n.toNat (w.xRead a.val)).finishWord 4 .seq (!m))))) ∧
    (r.csr? k n.toNat = none → exec (.csrr a n m) s =
      .next (r.trap1 k 1 (Instr.encoding (.csrr a n m)) w.pc w.pc false)) ∧
    (r.csr? k n.toNat = none ∨ (only ∧ w.hm = false) → exec (.csrw a n m) s =
      .next (r.trap1 k 1 (Instr.encoding (.csrw a n m)) w.pc w.pc false))

/-- The words of `bcs`, `rms`, `wnd` and `wpop` (R158, R159, R164, R165): the modes 5 to 7, and bits set in a field that is 0, are illegal. -/
def Sys2Proof.Claims.BeadCodes : Prop :=
  ∀ (a : BitVec 5) (n : BitVec 9) (m : Bool),
    let word := fun (op : BitVec 8) (a : BitVec 5) => op ++ a ++ 0#5 ++ n ++ 0b110#3 ++ BitVec.ofBool m ++ 1#1
    decode32 (word 6 a) = .ok (.bcs a.toFin n m) ∧
    (if n.toNat ≤ 4 then decode32 (word 7 0) = .ok (.rms (n.setWidth 3) m) else ∃ e, decode32 (word 7 0) = .error e) ∧
    (if n.toNat ≤ 3 then decode32 (word 8 0) = .ok (.wnd (n.setWidth 2) m) else ∃ e, decode32 (word 8 0) = .error e) ∧
    (if n = 0 then decode32 (word 9 0) = .ok (.wpop m) else ∃ e, decode32 (word 9 0) = .error e)

/-- `bcs`, `rms`, `wnd` and `wpop` (R158, R159, R164, R165, R166): the bead count clamped to 1..52; the mode field alone of `fst`; a window of p + 1
pips pushed with every register unbound, the trap of cause 0x19 value 0 at a stack of 16; the top window popped with the loads that
would bind in it, the trap of cause 0x19 value 2 at the base. -/
def Sys2Proof.Claims.BeadEffects : Prop :=
  ∀ s k, Turn s k → ∀ (a : XReg) (n : BitVec 9) (o : BitVec 3) (p : BitVec 2) (m : Bool),
    let r := ready s k
    let w := (s.watch k).endPass
    let trap := fun (v : Nat) => Host.Outcome.next (φ := Fault) (ρ := Refusal)
      (r.trap1 k 0x19 (BitVec.ofNat 64 v) w.pc w.pc false)
    exec (.bcs a n m) s = .next (passed r k m (Watch.finishWord { w with
      bc := (max 1 (min 52 (w.xRead a.val + n.setWidth 64).toInt)).toNat } 4 .seq (!m))) ∧
    exec (.rms o m) s = .next (passed r k m (Watch.finishWord { w with fst := (w.fst &&& ~~~7) ||| o.setWidth 64 } 4 .seq (!m))) ∧
    (w.windows.length < 16 → exec (.wnd p m) s = .next (passed r k m { w.finishWord 4 .seq (!m) with
      windows := ⟨p.toNat + 1, .replicate 16 none, false⟩ :: w.windows })) ∧
    (16 ≤ w.windows.length → exec (.wnd p m) s = trap 0) ∧
    (2 ≤ w.windows.length → exec (.wpop m) s = .next (passed r k m { w.finishWord 4 .seq (!m) with
      windows := w.windows.tail
      loads := w.loads.filter fun l => match l.reg with
        | .f _ d => d + 1 < w.windows.length
        | _ => true })) ∧
    (w.windows.length ≤ 1 → exec (.wpop m) s = trap 2)

/-- `bcs`, `rms`, `wnd` and `wpop` (R158, R159, R164 to R166): their words, and what they do. -/
def Obligations.BeadWords : Prop := BeadCodes ∧ BeadEffects

/-- Nothing of a watch's waits in its memory path, for a link, for a retry of a stamped store, or for a sharer of a store of its core
(R270, R301, R399). -/
def Sys2Proof.Claims.Unheld (s : State) (k : Nat) : Prop :=
  (s.watch k).path = [] ∧ s.keepq = [] ∧ s.linkLoads = [] ∧ (∀ n, (s.linkAt n).retrain = none) ∧
    ∀ f ∈ s.stores, f.core = k / 4 → f.sharers = []

/-- What a fence has performed when it ends, nothing of its watch held (R284, R290): no load of the watch waits at a bank controller, but for
kind `eng` beyond what its stores need; but for kind `acq`, and for scope core outside kind `eng`, every earlier store of the core and
every earlier atomic of the watch has been performed. -/
def Fenced (s t : State) (k : Nat) (kind scope : BitVec 3) (m : Bool) : Prop :=
  (t.watch k).x = ((s.watch k).endPass.finishWord 4 .seq (!m)).x ∧ (∀ q ∈ t.bankq, q.watch ≠ k) ∧
    (kind.toNat ≠ 1 → (scope.toNat ≠ 0 ∨ kind.toNat = 3) → Performed t (k / 4) ∧ ∀ q ∈ t.atomq, q.watch ≠ k)

/-- `fence` (R284, R290, R399, R400), nothing of the watch held. Where no link that its scope covers is down, or such a link has lost no write
and nothing of the core or of an atomic is on its way, or the kind is `acq`, the last result that stands for the marker is status 0. Where
such a link is down and has lost writes, it is LINKLOSS (13), and with the partition's link-loss attribute the trap of cause 0x15 is left for
the marker, with the record of the lost window. -/
def Sys2Proof.Claims.FenceWord : Prop :=
  ∀ s k, Turn s k → ∀ (kind scope : BitVec 3) (m : Bool),
    let w := (s.watch k).endPass
    let still := s.stores = [] ∧ s.atomq = [] ∧ (s.coreAt (k / 4)).wcb = []
    Unheld s k →
    ((∀ n ∈ scopeLinks scope.toNat, s.linkDown n = true → kind.toNat = 1 ∨ ((s.linkAt n).lost = 0 ∧ still)) →
      ∃ t, exec (.fence kind scope m) s = .next t ∧ (t.watch k).img.results.getLast? = some (syDone w 0) ∧ Fenced s t k kind scope m) ∧
    ((∃ n ∈ scopeLinks scope.toNat, s.linkDown n = true ∧ 0 < (s.linkAt n).lost) → kind.toNat ≠ 1 →
      ∃ t, exec (.fence kind scope m) s = .next t ∧ (t.watch k).img.results.getLast? = some (syDone w 13) ∧ Fenced s t k kind scope m ∧
        ∀ p, t.part? w.part = some p → p.linkTrap = true → ∃ n ∈ scopeLinks scope.toNat, ∃ v : Word,
          s.linkDown n = true ∧ 0 < (t.linkAt n).lost ∧ (t.watch k).img.faults.getLast? = some ⟨w.ord, 0x15, w.pc, v⟩ ∧
          v.toNat = (t.linkAt n).lostFirst % 2 ^ 32 + min (t.linkAt n).lost 0xFFFF * 2 ^ 32 + n * 2 ^ 48)

/-- `isync`, `roinv`, `wb` and `pause` (R148, R291, R292, R349, R416): `isync` issues, the loads of the watch that can be performed are, the
fetches that follow come after those that cannot (`StepIssues`), and the fetch buffer and what the loop buffer holds of no active body go;
the board's read-only lines go, once the watch's earlier loads have been performed; a range within one 64 KiB block that translates is
clean in every slice's tags, with status 0, and one that does not, or stands where no page may, leaves the trap of cause 5 for the marker;
an empty range is status 0, and one longer than 2^32 or meeting a board-store window is BAD; `pause` holds the watch after its marker for at
most 2^24 cycles. -/
def Sys2Proof.Claims.HousekeepingWords : Prop :=
  ∀ s k, Turn s k → ∀ (a b : XReg) (i : BitVec 9) (m : Bool),
    let r := ready s k
    let w := (s.watch k).endPass
    let v := w.finishWord 4 .seq (!m)
    let lo := (w.xRead a.val).toNat
    let n := (w.xRead b.val).toNat
    let ends := fun (st : Nat) => passed r k m { v with
      ord := w.ord + 1, img := { v.img with results := w.img.results ++ [syDone w st] } }
    (∃ t, exec (.isync m) s = .next t ∧ (t.coreAt (k / 4)).fetch = [] ∧ (t.watch k).x = v.x ∧
      (t.watch k).pc = (marked m w.pc v).pc ∧ (t.watch k).syncOrd = w.ord ∧ (Unheld s k → ∀ q ∈ t.bankq, q.watch ≠ k) ∧
      ((∀ j, ((r.coreAt (k / 4)).watch j).img.loops = []) → (t.coreAt (k / 4)).loopBuf = []) ∧
      (∀ x j, (m = false ∨ w.img.loops = []) → (r.coreAt (k / 4)).loopTag = some (j, x) →
        (∃ l ∈ ((r.coreAt (k / 4)).watch j).img.loops, l.first = x) → (t.coreAt (k / 4)).loopBuf = (r.coreAt (k / 4)).loopBuf)) ∧
    (Unheld s k → ∃ t, exec (.roinv m) s = .next t ∧ (t.boardAt (boardOf (k / 4))).ro = [] ∧ (∀ q ∈ t.bankq, q.watch ≠ k) ∧
      (t.watch k).x = v.x ∧ (t.watch k).pc = (marked m w.pc v).pc) ∧
    (n = 0 → exec (.wb a b m) s = .next (ends 0)) ∧
    (n ≠ 0 → (2 ^ 32 < n ∨ meetsWindow lo n = true) → exec (.wb a b m) s = .next (ends 3)) ∧
    (Unheld s k → 0 < n → n ≤ 2 ^ 32 → meetsWindow lo n = false → lo / 2 ^ 16 = (lo + n - 1) / 2 ^ 16 → ∀ e size,
      r.translate (k / 4) w.part lo = some (e, size) →
      let pa := r.paOf w.part e size lo false
      r.badPa e pa = false →
      ∃ t, exec (.wb a b m) s = .next t ∧ (t.watch k).img.results.getLast? = some (syDone w 0) ∧
        ∀ q ∈ t.slices, ∀ g ∈ q.2.tags, pa / 64 ≤ g.1 → g.1 * 64 < pa + n → g.2.dirty = 0) ∧
    (Unheld s k → 0 < n → n ≤ 2 ^ 32 → meetsWindow lo n = false →
      (∀ e size, r.translate (k / 4) w.part lo = some (e, size) → r.badPa e (r.paOf w.part e size lo false) = true) →
      ∃ t, exec (.wb a b m) s = .next t ∧ (t.watch k).img.faults.getLast? = some ⟨w.ord, 5, w.pc, BitVec.ofNat 64 lo⟩) ∧
    exec (.pause a i m) s = .next (passed r k m (Watch.finishWord { w with
      pauseCnt := min ((w.xRead a.val).toNat + i.toNat) (2 ^ 24) } 4 .seq (!m)))

/-- `fence`, `isync`, `roinv`, `wb` and `pause` (R148, R284, R290 to R292, R399, R400, R416). The model's choices: a fence performs at once
what it waits for (log 8), a `pause` counts the exact sum (log 14), and the four UCIe modules are one link to the host, which holds what waits
for it (log 28). -/
def Obligations.OrderingWords : Prop := FenceWord ∧ HousekeepingWords
/-! ### Words that park, traps and cancelling -/

/-- `done`, `reque`, `glead`, `gfollow` (R146, R147, R194): the watch parks and its core issues its next READY watch; `reque` keeps x1 to x4 as the arguments of its new
entry; `glead` at an aligned position claims the cores of its span, each behind earlier claims, and elsewhere is the trap of cause
0x14 value 1. -/
def Sys2Proof.Claims.ParkingWords : Prop :=
  ∀ s k, Turn s k → ∀ (c : BitVec 3) (m : Bool),
    let r := ready s k
    let w := (s.watch k).endPass
    let v := w.finishWord 4 .seq false
    let n := 2 ^ c.toNat
    exec (.done m) s = .next (parkedAs r k .done v) ∧
    exec (.reque m) s = .next (parkedAs r k .reque
      { v with rargs := #v[w.xRead 1, w.xRead 2, w.xRead 3, w.xRead 4] }) ∧
    exec (.gfollow m) s = .next (parkedAs (r.onCore (k / 4) fun c => { c with follows := c.follows ++ [k] }) k .gfollow v) ∧
    (posOf (k / 4) % n ≠ 0 → exec (.glead c m) s =
      .next (r.trap1 k 0x14 1 w.pc w.pc false)) ∧
    (posOf (k / 4) % n = 0 → ∃ t, exec (.glead c m) s = .next t ∧
      t.watch k = ({ v with claim := n } : Watch).park .glead w.pc ∧
      (t.coreAt (k / 4)).issuing ≠ some (k % 4) ∧ t.mem = s.mem ∧
      ∀ i, i < n → (t.coreAt (rodCore (rodOf (k / 4)) (posOf (k / 4) + i))).claims =
        (s.coreAt (rodCore (rodOf (k / 4)) (posOf (k / 4) + i))).claims ++ [k])

/-- `gend` (R199): issued by the leader of a gang none of whose members is held, every member parks with its gang to dissolve at the
release, and its core issues it no longer; memory is as it was. In a watch that is in no gang it is the trap of cause 0x14 value 3. -/
def Sys2Proof.Claims.GangEnd : Prop :=
  (∀ s k, ∀ m, Turn s k → exec (.gend m) s =
    .next ((ready s k).trap1 k 0x14 3 (s.watch k).endPass.pc (s.watch k).endPass.pc false)) ∧
  (∀ s k ks m, s.issuer = some k → s.members k = ks → ks.Nodup →
    (∀ j ∈ ks, (s.watch j).gang.isSome = true ∧ (s.watch j).nbr = none ∧ (s.watch j).fpTrap = none) →
    ∃ t, exec (.gend m) s = .next t ∧ t.mem = s.mem ∧ ∀ j ∈ ks, (t.watch j).st = .parked ∧ (t.watch j).after = .gend ∧
      (t.watch j).markPc = (s.watch j).endPass.pc ∧ (t.watch j).x = (s.watch j).x ∧
      (t.coreAt (j / 4)).issuing ≠ some (j % 4))

/-- `tret` and `idle` (R368, R381, R382): in handler mode the watch parks until the handler's results have landed, `idle` until what the
interrupted task has issued has drained, too; in user mode each is the illegal-instruction trap, cause 1, whose value is the word. -/
def Sys2Proof.Claims.HandlerReturns : Prop :=
  ∀ s k, Turn s k → ∀ (m : Bool),
    let r := ready s k
    let w := (s.watch k).endPass
    let v := w.finishWord 4 .seq false
    (w.hm = true → exec (.tret m) s = .next (parkedAs r k .tret v) ∧
      exec (.idle m) s = .next (parkedAs r k .idle v)) ∧
    (w.hm = false →
      exec (.tret m) s = .next (r.trap1 k 1 (Instr.encoding (.tret m)) w.pc w.pc false) ∧
      exec (.idle m) s = .next (r.trap1 k 1 (Instr.encoding (.idle m)) w.pc w.pc false))

/-- `trap` (R372, R380, R384): in user mode with a handler installed and its region's loads come, the word's slot passes and the watch enters the handler with cause 0x13, the
9-bit constant as value, its own address in `taddr`, the next word's in `tnext`, and the word's marker kept; in handler mode the partition
stops with reason 2, and every core of it records the constant as the code, the reason, the origin and the cause (R384). -/
def Sys2Proof.Claims.TrapWord : Prop :=
  ∀ s k, Turn s k → ∀ (n : BitVec 9) (m : Bool) (p : Part),
    let w := (s.watch k).endPass
    let v := (w.finishWord 4 .seq false).endPass
    (w.hm = false → w.loadsOut = false → (s.tvb k).getLsbD 0 = true → ∃ t, exec (.trap n m) s = .next t ∧
      (t.watch k).hm = true ∧ (t.watch k).tcause = 0x13 ∧ (t.watch k).tval = n.setWidth 64 ∧ (t.watch k).taddr = w.pc ∧
      (t.watch k).tnext = (v.pc &&& ~~~1) ∧ (t.watch k).marker = m ∧ (t.watch k).pc = (s.tvb k &&& 0x00FFFFFFFFFFFFFE) ∧
      (t.watch k).img = Image.fresh) ∧
    (w.hm = true → s.part? w.part = some p → p.run = .running → ∃ t q, exec (.trap n m) s = .next t ∧
      t.part? w.part = some q ∧ q.run = .stopped 2 ∧
      ∀ c ∈ p.cores, (t.coreAt c).hcause = BitVec.ofNat 64 (n.toNat * 2 ^ 39 + 2 * 2 ^ 36 + k / 4 * 2 ^ 24 + 0x13) ∧
        (t.coreAt c).hbell = BitVec.ofNat 64 (ready s k).bell)

/-- Entering the handler (R372, R374): a watch that traps, with its partition's handler installed and not in handler mode already, saves its
port image and begins at the handler's address with a fresh one; `tcause`, `tval`, `taddr`, `tnext`, the marker and the deferred-fault
bit say what happened; its v and g registers stand, and so does every other watch's state, and memory. Entry waits while a load of the
region has not come. -/
def Sys2Proof.Claims.TrapEntry : Prop :=
  ∀ (s : State) (k cause : Nat) (val taddr tnext : Word) (mk : Bool),
    (s.watch k).hm = false → (s.tvb k).getLsbD 0 = true →
    let w := s.watch k
    let t := s.trap1 k cause val taddr tnext mk
    (w.loadsOut = true → t = s) ∧
    (w.loadsOut = false → w.loads = [] → t.mem = s.mem ∧ (∀ j, j ≠ k → t.watch j = s.watch j) ∧ t.watch k = { w with
      tcause := BitVec.ofNat 64 cause, tval := val, taddr := taddr, tnext := tnext &&& ~~~1
      hm := true, marker := mk, dfr := !w.img.faults.isEmpty, faultsDue := false, tgang := w.gang.isSome
      saved := some w.img, img := Image.fresh, fpTrap := none
      pc := s.tvb k &&& 0x00FFFFFFFFFFFFFE })

/-- A trap with nowhere to go (R373, R383): in handler mode, but for cause 0x13, or with no handler installed, the trap stops the
watch's running partition: reason 1, the cause and the core in every core's `hcause`, the bell time in `hbell`, what it has issued, accepted and sent in `hissue`
and `hmsg` (R384); no watch of its cores issues,
and every watch that holds a task is HALTED where it stood. -/
def Sys2Proof.Claims.FatalTrap : Prop :=
  ∀ (s : State) (k cause : Nat) (val taddr tnext : Word) (mk : Bool) (p : Part),
    (((s.watch k).hm = true ∧ cause ≠ 0x13) ∨ (s.tvb k).getLsbD 0 = false) →
    s.part? (s.watch k).part = some p → p.run = .running →
    let t := s.trap1 k cause val taddr tnext mk
    t.mem = s.mem ∧ t.part? (s.watch k).part = some { p with run := .stopped 1 } ∧
    ∀ c ∈ p.cores, (t.coreAt c).issuing = none ∧
      (t.coreAt c).hcause = BitVec.ofNat 64 (1 * 2 ^ 36 + k / 4 * 2 ^ 24 + cause) ∧
      (t.coreAt c).hbell = BitVec.ofNat 64 s.bell ∧ (t.coreAt c).hissue = (s.coreAt c).issued ∧
      (t.coreAt c).hmsg = BitVec.ofNat 64 ((s.coreAt c).rcvd * 2 ^ 32 + (s.coreAt c).sent) ∧
      ∀ i, i < 4 → (t.watch (c * 4 + i)) =
        if (s.watch (c * 4 + i)).st = .free then s.watch (c * 4 + i)
        else { s.watch (c * 4 + i) with prior := (s.watch (c * 4 + i)).st, st := .halted }

/-- `cancel` of a launch (R26, R32): a handle whose reserved bits are set is BADH, one that names no live entry is STALE; a live launch is
cancelled with status 0: of a started one, the indices not yet placed are discarded from its counter and its lineage; one that has not
started completes at once, and its entry is free. `sy.r` has the status at the marker. -/
def Obligations.CancelWord : Prop :=
  ∀ s k, Turn s k → ∀ (a : XReg) (m : Bool) (p : Part),
    let w := (s.watch k).endPass
    let v := w.finishWord 4 .seq (!m)
    let h := w.xRead a.val
    let l := bits h 7 0
    (ready s k).part? w.part = some p →
    (∀ st, ((bits h 63 24 ≠ 0 ∧ st = 2) ∨
        (bits h 63 24 = 0 ∧ ((p.launchAt l).used = false ∨ (p.launchAt l).gen ≠ bits h 23 8) ∧ st = 1)) →
      exec (.cancel a 0 m) s = .next (passed (ready s k) k m { v with
        ord := w.ord + 1
        img := { v.img with results := w.img.results ++ [syDone w st] } })) ∧
    (bits h 63 24 = 0 → (p.launchAt l).used = true → (p.launchAt l).gen = bits h 23 8 → (p.launchAt l).cancelled = false →
      ∃ t q, exec (.cancel a 0 m) s = .next t ∧ (t.watch k).img.results.getLast? = some (syDone w 0) ∧ t.part? w.part = some q ∧
        ((p.launchAt l).started = true → (q.launchAt l).cancelled = true ∧ (q.launchAt l).toPlace = [] ∧
          (q.launchAt l).counter = (p.launchAt l).counter - (p.launchAt l).unplaced p l) ∧
        ((p.launchAt l).started = false → (q.launchAt l).used = false ∧ (q.launchAt l).gen = (bits h 23 8 + 1) % 2 ^ 16))

/-- The words that end or group tasks: `done`, `reque`, `glead`, `gfollow`, `gend` (R146, R147, R194, R199). -/
def Obligations.ParkingAndGangEnd : Prop := ParkingWords ∧ GangEnd

/-- `trap`, `tret` and `idle` (R368, R372, R380 to R382, R384). -/
def Obligations.TrapAndReturn : Prop := TrapWord ∧ HandlerReturns

/-- Taking a trap: into the handler (R372, R374), or with nowhere to go (R373, R383). -/
def Obligations.TakingTraps : Prop := TrapEntry ∧ FatalTrap

/-! ### Triggers of the parked units: rods, tensors, boards -/

namespace Sys2Proof.Claims
open Sys2Proof.Machine

/-- Something that a watch has waited for has ended: until now its core has not been quiet (R412). -/
def stirred (s : State) (k : Nat) : State := s.onCore (k / 4) fun c => { c with idle := s.cycles }

/-- A trigger word of a parked unit whose operation is performed in its slot: the guard's bit 0 is set (R65), fewer than eight triggers
of the core's unit are unfinished (R99), nothing of the watch waits in its memory path, and no stamped store is outstanding. -/
structure Performs (s : State) (k : Nat) (g : Guard) (u : FUnit) : Prop where
  turn : Turn s k
  guard : ((s.watch k).guard g).getLsbD 0 = true
  room : (ready s k).unfinished (k / 4) u < 8
  quiet : s.keepq = []
  path : (s.watch k).path = []

/-- The watch after a trigger whose operation ended at once: its result and status stand for the marker (R61). -/
def endsNow (m : Bool) (w : Watch) (u : FUnit) (v : Word) (st : Nat) : Watch :=
  let b := w.finishWord 4 .seq (!m)
  { b with ord := w.ord + 1, img := { b.img with results := w.img.results ++ [⟨w.ord, u, v, st, 0, w.pc⟩] } }

/-- The watch after a trigger whose operation faulted: the fault stands for the marker (R376). -/
def faultsNow (m : Bool) (w : Watch) (c : Nat) (v : Word) : Watch :=
  let b := w.finishWord 4 .seq (!m)
  { b with ord := w.ord + 1, img := { b.img with faults := w.img.faults ++ [⟨w.ord, c, w.pc, v⟩] } }

/-- The watch after a trigger that its marker waits for, by ticket (R61). -/
def waitsFor (m : Bool) (w : Watch) (t : Nat) (u : FUnit) : Watch :=
  let b := w.finishWord 4 .seq (!m)
  { b with ord := w.ord + 1, img := { b.img with waits := w.img.waits ++ [(t, some u)] } }

/-- The watch after a trigger that waited and was served in its own slot: the ticket has come and gone. -/
def servedNow (m : Bool) (w : Watch) (t : Nat) (u : FUnit) (v : Word) (st : Nat := 0) : Watch :=
  let b := w.finishWord 4 .seq (!m)
  { b with
    ord := w.ord + 1
    img := { b.img with waits := w.img.waits.filter (·.1 ≠ t), results := w.img.results ++ [⟨w.ord, u, v, st, 0, 0⟩] } }

end Sys2Proof.Claims

/-- Triggers of `mx` (R217, R236): the operands join the queue of the watch's rod, and the marker waits; an `aread` of eight registers
from 0 to 8 leaves the eight v registers to be written at its region's marker. Nothing else changes. -/
def Sys2Proof.Claims.MacroTriggers : Prop :=
  ∀ s k (g : Guard), Performs s k g .mx → ∀ (o : MxOp) (a : Src) (m : Bool),
    let r := (ready s k).touchSrc k a
    let w := r.watch k
    let A := w.latch .mxA
    let d := ((ready s k).read k a).toScalar
    let v := waitsFor m w r.ticket .mx
    exec (.ofUnit (.mx o) a g false m) s = .next ((passed { r with ticket := r.ticket + 1 } k m { v with img := { v.img with
      regs := w.img.regs ++ if o = .aread ∧ A.toNat ≤ 8 then (List.range 8).map fun i =>
        ⟨w.ord, .v (Fin.ofNat 16 (A.toNat + i)), 0, 32, false, 0, 1, BitVec.allOnes 32, w.pc, 0⟩ else [] } }).onRod (rodOf (k / 4)) fun q =>
          { q with waiting := q.waiting ++ [⟨k / 4, k % 4, r.ticket, w.ord, w.pc, o, A, w.latch .mxB, w.latch .mxC, d⟩] })

/-- The outputs of a row on which one core's slices act, in order: the accumulator takes each slice of R222 in turn, its exact sum, its scales,
the NaN mark (R222, R223). -/
def sliced (acc : Nat) (l : List (List Byte × List Byte × Nat × Nat)) : Nat :=
  l.foldl (fun acc e => macStep acc (dotInt e.1 e.2.1) (e.1.any f8Nan || e.2.1.any f8Nan) e.2.2.1 e.2.2.2) acc

/-- What a rod operation does to the machine, its reports and the cycles that it takes at least, its cores in rod order (R231 to R237): `hs` are
the triggers with the tensors that they name. -/
def rodWork (s : State) (rod : Nat) (u : MxTrig) (hs : List (MxTrig × Header)) : (List RodOut × State) × Nat :=
  let each := fun (f : State → MxTrig × Header → RodOut × State) =>
    hs.foldl (fun acc e => (acc.1 ++ [(f acc.2 e).1], (f acc.2 e).2)) (([], s) : List RodOut × State)
  let longest := fun (f : MxTrig × Header → Nat) => (hs.map f).foldl max 0
  let fetch := fun (bytes : Nat) => 64 + (bytes + 63) / 64
  let scales := fun (h : Header) (n : Nat) => if h.scalelay = 0 then 0 else 4 * n
  match u.op with
  | .mmul => (each fun s e => s.mmulCore rod e.1 (bits u.b 4 0) (bits u.b 10 5),
      8 + 4 * bits u.b 10 5 / tileFill ((s.coreAt u.core).mac.tile (u.d.toNat % 16)).fmt)
  | .rowld => (each fun s e => s.rowldCore rod e.1 e.2 (bits u.d 4 0) (bits u.d 10 5), longest fun e => fetch (128 + scales e.2 1))
  | .wld => (s.wldAll hs, longest fun e =>
      fetch (8192 + (if e.2.fill = 1 then 0 else 1024 * e.2.fill) + scales e.2 e.2.fill))
  | .mvset => (s.mvsetAll hs (bits u.d 3 0) (bits u.d 8 4) (bits u.d 12 9),
      fetch (bits u.d 8 4 * 1024 * bits u.d 12 9 + scales ((hs.head?.map Prod.snd).getD 0) (bits u.d 8 4 * 8 * bits u.d 12 9)))
  | .mmv => (each fun s e => s.mmvCore e.1 e.2 (bits e.1.d 3 0) (bits e.1.d 8 4), longest fun e => 16 + e.1.c.toNat * 1024 * bits e.1.d 8 4 / 32)
  | .aread => (each fun s e => s.mxLocal e.1, 4)
  | .aclr | .mchk => (each fun s e => s.mxLocal e.1, 2)

/-- The rod's barrier and the end of its operation (R217 to R220, R237). While a core of the rod has no trigger in the queue nothing happens.
Once all have, no read of theirs has to wait and the stores that their cores issued before are at their homes, their oldest leave it
together. The first check of R218 that fails ends the operation in every core with its status: MISMATCH, or BAD beside the fault of
cause 0x0F in the cores whose tensor is not bound, BAD, FORMAT, BAD. Otherwise it is performed, and can end its cycles after the two of
the barrier. An operation ends once its cycles have passed, and a report without a fault stands for its watch's marker, one with a fault
leaves it there (R219, R226, R227). -/
def Sys2Proof.Claims.RodOperations : Prop :=
  (∀ s : State, (∃ c ∈ rodCores s.opnd.a, ∀ u ∈ (s.rodAt s.opnd.a).waiting, u.core ≠ c) → exec .rodOpStart s = .next s) ∧
  (∀ (s : State) u us, s.rodNext s.opnd.a = some (u :: us) →
    let ts := u :: us
    let r := s.beforeReads ts
    let q := r.onRod s.opnd.a fun q => { q with waiting := ts.foldl (fun l x => l.erase x) q.waiting }
    let ends := fun (t : State) (n : Nat) (outs : List RodOut) =>
      Host.Outcome.next (φ := Fault) (ρ := Refusal)
        (t.onRod s.opnd.a fun q => { q with running := q.running ++ [⟨r.cycles + 2 + n, outs⟩] })
    let all := fun (st : Nat) => ends q 0 (ts.map fun x => ⟨x, BitVec.ofNat 64 st, st, none, []⟩)
    let named := fun (x : MxTrig) => if namesTensor x.op then q.tensor? (x.core * 4 + x.wid) x.a else some 0
    let agree := ∀ x ∈ us, x.op = u.op ∧ x.wide = u.wide
    r.storesAhead ts = false →
    (¬agree → exec .rodOpStart s = all 6) ∧
    (agree → (∃ x ∈ ts, named x = none) → exec .rodOpStart s = ends q 0 (ts.map fun x =>
      if named x = none then ⟨x, 0, 0, some (0xF, x.a), []⟩ else ⟨x, 3, 3, none, []⟩)) ∧
    (∀ hs : List (MxTrig × Header), agree → ts.map (fun x => (x, named x)) = hs.map (fun e => (e.1, some e.2)) →
      let bad := ∃ e ∈ hs, e.1.malformed e.2 = true
      let wrong := ∃ e ∈ hs, e.1.misfit e.2 (q.coreAt e.1.core).mac = true
      let mixed := u.op = .mmul ∧ ∃ x ∈ us, ((q.coreAt x.core).mac.tile (x.d.toNat % 16)).fmt ≠ ((q.coreAt u.core).mac.tile (u.d.toNat % 16)).fmt
      let f := tileFill ((q.coreAt u.core).mac.tile (u.d.toNat % 16)).fmt
      let odd := u.op = .mmul ∧ (bits u.b 4 0 % f ≠ 0 ∨ bits u.b 10 5 % f ≠ 0)
      (bad → exec .rodOpStart s = all 3) ∧
      (¬bad → (wrong ∨ mixed) → exec .rodOpStart s = all 7) ∧
      (¬bad → ¬wrong → ¬mixed → odd → exec .rodOpStart s = all 3) ∧
      (¬bad → ¬wrong → ¬mixed → ¬odd → let w := rodWork q s.opnd.a u hs
        (∀ o ∈ w.1.1, ∀ v, o.fault ≠ some (waitCause, v)) → exec .rodOpStart s = ends w.1.2 w.2 w.1.1))) ∧
  (∀ (s : State) u us, s.rodNext s.opnd.a = some (u :: us) → (∀ x ∈ u :: us, x.op = .aclr ∧ x.d.toNat < 2 ^ 32) →
    ∃ t, exec .rodOpStart s = .next t ∧ t.mem = s.mem ∧
      (t.rodAt s.opnd.a).running = (s.rodAt s.opnd.a).running ++ [⟨s.cycles + 4, (u :: us).map fun x => ⟨x, 0, 0, none, []⟩⟩] ∧
      ∀ x ∈ u :: us, ∀ row col, col < 64 → (t.coreAt x.core).mac.accAt row col =
        if x.d.getLsbD row then 0 else (s.coreAt x.core).mac.accAt row col) ∧
  (∀ (s : State) q, (s.rodAt s.opnd.a).running[s.opnd.b]? = some q → s.cycles < q.ends → exec .rodOpEnd s = .next s) ∧
  (∀ (s : State) q, (s.rodAt s.opnd.a).running[s.opnd.b]? = some q → q.ends ≤ s.cycles → exec .rodOpEnd s =
    .next ((s.onRod s.opnd.a fun q => { q with running := q.running.eraseIdx s.opnd.b }).each q.outs State.rodReport)) ∧
  (∀ (s : State) (x : RodOut), let k := x.trig.core * 4 + x.trig.wid
    (s.watch k).img.holds x.trig.ticket = true →
    (∀ c v, x.fault = some (c, v) → s.rodReport x = (stirred s k).onWatch k fun w => { w with
      img := { w.img with
        regs := x.rows w.img.regs
        waits := w.img.waits.filter (·.1 ≠ x.trig.ticket)
        faults := w.img.faults ++ [⟨x.trig.ord, c, x.trig.pc, v⟩] } }) ∧
    (x.fault = none → s.rodReport x = (stirred s k).onWatch k fun w => { w with
      img := { w.img with
        regs := x.rows w.img.regs
        waits := w.img.waits.filter (·.1 ≠ x.trig.ticket)
        results := w.img.results ++ [⟨x.trig.ord, .mx, x.val, x.st, 0, x.trig.pc⟩] } })) ∧
  (∀ (x : RodOut) (l : List PLoad), (∀ y ∈ l, y.ord ≠ x.trig.ord → y ∈ x.rows l) ∧
    ∀ y ∈ l, y.ord = x.trig.ord → ∀ r v, x.regs = [(r, v)] → y.reg = .v (Fin.ofNat 16 r) → { y with raw := v, need := 0 } ∈ x.rows l)

/-- The products of `mmul` and `mmv` in one core whose macro shows no error (R216, R222, R223, R233, R235). `mmul`: of every row of the
operation, one in f by the slot's fill factor, each of the 64 accumulators takes the f slices in order, its row-buffer rows by the slot's
columns, and no other accumulator changes. `mmv`: of a weight row within the tensor, once its pieces have been fetched, each of the eight
batches takes the slices in order, the row's pieces by the slots' vectors; beyond the tensor nothing changes. -/
def Sys2Proof.Claims.MacroProducts : Prop :=
  (∀ (s : State) (rod : Nat) (x : MxTrig) (row0 cnt : Nat),
    let slot := x.d.toNat % 16
    let m := (s.coreAt x.core).mac
    let f := tileFill (m.tile slot).fmt
    m.errs = [] → m.bad = [] → cnt % f = 0 →
    let t := (s.mmulCore rod x row0 cnt).2
    (s.mmulCore rod x row0 cnt).1 = ⟨x, 0, 0, none, []⟩ ∧ t.mem = s.mem ∧ t.rodAt rod = s.rodAt rod ∧ (∀ k, t.watch k = s.watch k) ∧
    (t.coreAt x.core).mac.tiles = m.tiles ∧ ∀ row col, col < 64 → (t.coreAt x.core).mac.accAt row col =
      if row0 ≤ row ∧ row < row0 + cnt ∧ (row - row0) % f = 0 then
        sliced (m.accAt row col) ((List.range f).map fun i =>
          ((List.range 128).map fun j => (s.rodAt rod).rows.get 0 ((row + i) * 128 + j),
            (List.range 128).map fun j => (m.tile slot).w.get 0 ((128 * i + j) * 64 + col),
            (s.rodAt rod).scales.get one32 (row + i), (m.tile slot).scales.get one32 i))
      else m.accAt row col) ∧
  (∀ (s : State) (h : Header) (x : MxTrig) (s0 ns r : Nat),
    let n := x.b.toNat + r
    let K := ((s.mac x.core).tile s0).kbase
    (h.rows ≤ n → State.mmvRow h x s0 ns (s, false, none, false) r = (s, false, none, false)) ∧
    (n < h.rows → ∀ l q,
      gather (fun s i => s.piece x.core (x.core * 4 + x.wid) h 4 n (K + 128 * i) 128 (K + 128 * i)) s (List.range (8 * ns)) = (.ok l, q) →
      let m := q.mac x.core
      m.errs = [] → ∃ t, State.mmvRow h x s0 ns (s, false, none, false) r = (t, false, none, false) ∧ t.mem = q.mem ∧
        (t.mac x.core).tiles = m.tiles ∧ ∀ row col, col < 64 → (t.mac x.core).accAt row col =
          if col = r % 64 ∧ r / 64 ≤ row ∧ (row - r / 64) / 4 < 8 ∧ (row - r / 64) % 4 = 0 then
            let b := (row - r / 64) / 4
            sliced (m.accAt row col) (l.zipIdx.map fun e =>
              (e.1.1, (List.range 128).map fun j => (m.tile (s0 + e.2 / 8)).w.get 0 (b * 1024 + 128 * (e.2 % 8) + j),
                (m.tile (s0 + e.2 / 8)).scales.get one32 (b * 8 + e.2 % 8), e.1.2))
          else m.accAt row col))

/-- The check of a row and slice in a macro (R224, R225, R236): the checksum holds where no error shows; one error on one path is mended where
the slot has a spare for it, which it takes for good, and is the macro-check fault where it has none or the second evaluation shows it
alike; the counters of `mchk` count the checks, the mismatches, the retries that mended and the faults. -/
def Sys2Proof.Claims.MacroChecks : Prop :=
  ∀ (m : Mac) (slot : Nat) (P : List Int),
    let bumps := fun (l : List Nat) (v : Mac) => v.counts = l.foldl (fun l i => l.setIfInBounds i ((l[i]?).getD 0 + 1)) m.counts
    ((∀ e ∈ m.errs, e.slot ≠ slot) → ∃ v, m.verify slot P P.sum = (.ok (P, false), v) ∧ v.tiles = m.tiles ∧ v.acc = m.acc ∧ bumps [0] v) ∧
    (∀ e, m.errs = [e] → e.slot = slot → e.path < P.length → e.first ≠ 0 →
      (e.second ≠ e.first → (m.tile slot).remap.length < 2 → ∃ v, m.verify slot P P.sum = (.ok (P, true), v) ∧ v.errs = [] ∧ v.acc = m.acc ∧
        v.tile slot = { m.tile slot with remap := (m.tile slot).remap ++ [e.path] } ∧ bumps [0, 1, 2] v) ∧
      (e.second ≠ e.first → 2 ≤ (m.tile slot).remap.length → ∃ v, m.verify slot P P.sum = (.error 1, v) ∧ v.tiles = m.tiles ∧ v.acc = m.acc ∧
        bumps [0, 1, 3] v) ∧
      (e.second = e.first → ∃ v, m.verify slot P P.sum = (.error 0, v) ∧ v.tiles = m.tiles ∧ v.acc = m.acc ∧ bumps [0, 1, 3] v))

/-- What `rowld`, `wld` and `mvset` fetch and write, core by core (R227, R231, R232, R234). `rowld`: the core at position p below the count
fetches a row of 128 values with its scale into the buffer's row row0 + p, and zeros with scale 1.0 stand there where its fetch faults.
`wld` of a dense tensor fetches the 64 columns of 128 weights with the scale of the first; a malformed mask in any core is FORMAT in all,
and stores nothing; else each core's slot holds what it fetched, in the tensor's format, and is EMPTY where its fetch faulted. `mvset`: the
core at position 0 fetches, and the named slots of every core hold the vectors and their scales, or are EMPTY where the fetch faulted. A
piece whose scale was lost is the fault of cause 0x0D. -/
def Sys2Proof.Claims.MacroLoads : Prop :=
  (∀ (s : State) (c w : Nat) (h : Header) (op8 n k len kl : Nat), (s.mac c).seq ∈ (s.mac c).lost →
    ∃ t, s.piece c w h op8 n k len kl =
      (.error (0xD, BitVec.ofNat 64 ((s.mac c).seq % 2 ^ 16 + ((s.mac c).seq + 1) % 2 ^ 16 * 2 ^ 16 + op8 % 256 * 2 ^ 32)), t) ∧
      t.mem = s.mem ∧ (t.mac c).seq = ((s.mac c).seq + 1) % 2 ^ 16) ∧
  (∀ (s : State) (rod : Nat) (x : MxTrig) (h : Header) (row0 cnt : Nat),
    let p := posOf x.core
    let key := x.core * 4 + x.wid
    let fetch := s.piece x.core key h 1 (x.b.toNat + p) x.c.toNat 128 x.c.toNat
    let puts := fun (t q : State) (l : List Byte) (sc : Nat) => t.mem = q.mem ∧
      (∀ k, k < 128 → (t.rodAt rod).rows.get 0 ((row0 + p) * 128 + k) = l.getD k 0) ∧ (t.rodAt rod).scales.get one32 (row0 + p) = sc ∧
      ∀ row k, row ≠ row0 + p → k < 128 → (t.rodAt rod).rows.get 0 (row * 128 + k) = (q.rodAt rod).rows.get 0 (row * 128 + k) ∧
        (t.rodAt rod).scales.get one32 row = (q.rodAt rod).scales.get one32 row
    (cnt ≤ p → s.rowldCore rod x h row0 cnt = (⟨x, 0, 0, none, []⟩, s)) ∧
    (p < cnt → ∀ l sc q, fetch = (.ok (l, sc), q) →
      (s.rowldCore rod x h row0 cnt).1 = ⟨x, 0, 0, none, []⟩ ∧ puts (s.rowldCore rod x h row0 cnt).2 q l sc) ∧
    (p < cnt → ∀ e q, fetch = (.error e, q) → (s.rowldCore rod x h row0 cnt).1 = ⟨x, 0, 0, some e, []⟩ ∧
      puts (s.rowldCore rod x h row0 cnt).2 q (List.replicate 128 0) one32)) ∧
  (∀ (s : State) (x : MxTrig) (h : Header) got q, h.fill = 1 →
    gather (fun s j => s.piece x.core (x.core * 4 + x.wid) h 2 (x.c.toNat + j) x.b.toNat 128 x.b.toNat) s (List.range 64) = (.ok got, q) →
    ∃ w, s.wldFetch x h = (.ok (w, [], ((got.head?).map Prod.snd).toList, false), q) ∧ ∀ j k, j < 64 → k < 128 →
      (tblOf 0 w).get 0 (k * 64 + j) = ((got[j]?).getD ([], 0)).1.getD k 0) ∧
  (∀ (s : State) (hs : List (MxTrig × Header)) got q,
    gather (fun s (e : MxTrig × Header) => s.wldFetch e.1 e.2) s hs = (.ok got, q) →
    ((∃ g ∈ got, g.2.2.2 = true) → s.wldAll hs = (hs.map fun e => ⟨e.1, 7, 7, none, []⟩, q)) ∧
    ((∀ g ∈ got, g.2.2.2 = false) → (hs.map (·.1.core)).Nodup → ∃ t, s.wldAll hs = (hs.map fun e => ⟨e.1, 0, 0, none, []⟩, t) ∧ t.mem = q.mem ∧
      ∀ e g, (e, g) ∈ hs.zip got → ∀ i, i < 16 → (t.mac e.1.core).tile i = if i = e.1.d.toNat % 16 then
          { Tile.fresh with
            fmt := if e.2.fmt = 4 then .sp48 else if e.2.fmt = 5 then .sp28 else .dense
            w := tblOf 0 g.1
            masks := tblOf 0 g.2.1
            scales := tblOf one32 (g.2.2.1.zipIdx.map fun v => (v.2, v.1))
            remap := ((q.mac e.1.core).tile i).remap }
        else (q.mac e.1.core).tile i)) ∧
  (∀ (s : State) (x : MxTrig) (h : Header) e q, s.wldFetch x h = (.error e, q) → ∃ t,
    s.wldAll [(x, h)] = ([⟨x, 0, 0, some e, []⟩], t) ∧ t.mem = q.mem ∧ ((t.mac x.core).tile (x.d.toNat % 16)).fmt = .empty) ∧
  (∀ (s : State) (x : MxTrig) (h : Header) (hs : List (MxTrig × Header)) (s0 ns nb : Nat),
    let key := x.core * 4 + x.wid
    let fetch := fun (s : State) (i : Nat × Nat × Nat) =>
      let k := x.c.toNat + 1024 * i.1 + 128 * i.2.2
      if nb ≤ i.2.1 then (.ok (List.replicate 128 0, one32), s) else s.piece x.core key h 3 (x.b.toNat + i.2.1) k 128 k
    let items := (List.range ns).flatMap fun i => (List.range 8).flatMap fun b => (List.range 8).map fun j => (i, b, j)
    let r := { s with ticket := s.ticket + 1 }
    (∀ e q, gather fetch r items = (.error e, q) → ∃ t, s.mvsetAll ((x, h) :: hs) s0 ns nb =
        (⟨x, 0, 0, some e, []⟩ :: hs.map fun e => ⟨e.1, 0, 0, none, []⟩, t) ∧ t.mem = q.mem ∧
      ∀ e ∈ (x, h) :: hs, ∀ i, i < ns → ((t.mac e.1.core).tile (s0 + i)).fmt = .empty) ∧
    (∀ got q, gather fetch r items = (.ok got, q) → ∃ t, s.mvsetAll ((x, h) :: hs) s0 ns nb =
        (((x, h) :: hs).map fun e => ⟨e.1, 0, 0, none, []⟩, t) ∧ t.mem = q.mem ∧
      ∀ e ∈ (x, h) :: hs, ∀ i b j k, i < ns → b < 8 → j < 8 → k < 128 →
        let v := (got[i * 64 + b * 8 + j]?).getD ([], 0)
        let z := (t.mac e.1.core).tile (s0 + i)
        z.fmt = .vec ∧ z.kbase = x.c.toNat + 1024 * i ∧ z.setId = s.ticket ∧
          z.w.get 0 (b * 1024 + 128 * j + k) = v.1.getD k 0 ∧ z.scales.get one32 (b * 8 + j) = v.2))

/-- `aread`, `aclr` and `mchk` in one core (R226, R236): a row of accumulators on its way to eight v registers, or the fault of cause 0x18 where
it has an uncorrectable error; the rows of a mask, and no others, cleared with their errors; a counter, or a slot's remapped paths. -/
def Sys2Proof.Claims.MacroLocal : Prop :=
  ∀ (s : State) (x : MxTrig),
    let m := (s.coreAt x.core).mac
    let d := x.d.toNat
    (x.op = .aread → (∀ b ∈ m.bad, b ≠ 16 + d) → s.mxLocal x = (⟨x, 0, 0, none, (List.range 8).map fun i =>
      (x.a.toNat + i, join 32 ((List.range 8).map fun e => m.accAt d (8 * i + e)))⟩, s)) ∧
    (x.op = .aread → 16 + d ∈ m.bad → ∃ v t, s.mxLocal x = (⟨x, 0, 0, some (0x18, v), []⟩, t) ∧ t.mem = s.mem) ∧
    (x.op = .aclr → ∃ t, s.mxLocal x = (⟨x, 0, 0, none, []⟩, t) ∧ t.mem = s.mem ∧ (∀ k, t.watch k = s.watch k) ∧
      (t.coreAt x.core).mac.tiles = m.tiles ∧ (∀ b, (b < 16 ∨ d.testBit (b - 16) = false) → (b ∈ (t.coreAt x.core).mac.bad ↔ b ∈ m.bad)) ∧
      ∀ row col, col < 64 → (t.coreAt x.core).mac.accAt row col = if d.testBit row then 0 else m.accAt row col) ∧
    (x.op = .mchk → d < 5 → s.mxLocal x = (⟨x, BitVec.ofNat 64 ((m.counts[d]?).getD 0), 0, none, []⟩, s)) ∧
    (x.op = .mchk → 16 ≤ d → d < 32 → ∃ v : Word, s.mxLocal x = (⟨x, v, 0, none, []⟩, s) ∧
      let l := (m.tile (d - 16)).remap
      bits v 1 0 = l.length % 4 ∧ bits v 13 8 = ((l[0]?).getD 63) % 64 ∧ bits v 21 16 = ((l[1]?).getD 63) % 64)

/-- `ldt` and `stt` (R174, R258, R295): an id that is not bound is the fault of cause 0x0F; an index outside the tensor is BAD; else `ldt` ends
with the element widened exactly, and `stt` stores the element's bits, narrowed, with flags that go to `fst` at the marker; where the load
or the store faults, the fault is left for the marker. To a KEEP page the store takes its dots as it is triggered, and a watch that cannot
enrol, or whose counter is at its limit, takes the trap of cause 0x0B in the word's own slot (R295, R299, R308). A store of an element replaces its bits and no other. -/
def Sys2Proof.Claims.ElementTriggers : Prop :=
  (∀ s k (g : Guard), Performs s k g .ls → ∀ (a : Src) (m : Bool),
    let r := (ready s k).touchSrc k a
    let w := r.watch k
    let d := ((ready s k).read k a).toScalar
    let b := w.latch .lsB
    let ix := [bits d 31 0, bits b 31 0, bits b 47 32, bits b 63 48]
    let ins := fun (h : Header) => bits d 63 32 = 0 ∧
      ∀ j, j < 4 → if j < h.ndims then ix.getD j 0 < h.dim j else ix.getD j 0 = 0
    (r.tensor? k (w.latch .lsA) = none → ∀ i, i = .lsLdt a g m ∨ i = .lsStt a g m →
      exec i s = .next (passed r k m (faultsNow m w 0xF (w.latch .lsA)))) ∧
    (∀ h, r.tensor? k (w.latch .lsA) = some h → ¬ins h → ∀ i, i = .lsLdt a g m ∨ i = .lsStt a g m →
      exec i s = .next (passed r k m (endsNow m w .ls 0 3))) ∧
    (∀ h, r.tensor? k (w.latch .lsA) = some h → ins h →
      let p := h.bit ix
      let got := r.unitLoad k (p / 8) ((p % 8 + h.width + 7) / 8) (h.fmt = 3)
      (∀ l q, got = .ok (l, q) → exec (.lsLdt a g m) s =
        .next (passed q k m (endsNow m { q.watch k with pc := w.pc } .ls (widen h.ffmt (takeBits p h.width l)) 0))) ∧
      (∀ c v, got = .error (c, v) → c ≠ waitCause → exec (.lsLdt a g m) s = .next (passed r k m (faultsNow m w c v))) ∧
      let e := h.narrow w.mode (w.latch .lsC)
      let f := bitStore p h.width e.1 (h.fmt = 3)
      let keeps := r.trigRegions k (.ls .stt) d (some h)
      (r.writerAll k keeps = none → exec (.lsStt a g m) s = .next ((ready s k).trap1 k 0xB (BitVec.ofNat 64 (p / 8)) w.pc w.pc false)) ∧
      (∀ q dots z, (r.writerAll k keeps).bind (fun u => u.stampAll k [] keeps) = some (dots, q) →
        let put := (q.takeOrd k).2.unitStore k w.ord f.1 (p / 8) f.2 dots
        (put = .ok z → exec (.lsStt a g m) s = .next (passed z k m
          (let b := { z.watch k with pc := w.pc }.finishWord 4 .seq (!m)
           { b with img := { b.img with results := (z.watch k).img.results ++ [⟨w.ord, .ls, 0, 0, e.2.bits, w.pc⟩] } }))) ∧
        (∀ c v, put = .error (c, v) → c ≠ waitCause → exec (.lsStt a g m) s = .next (passed r k m (faultsNow m w c v)))))) ∧
  (∀ (p n v : Nat) (loose : Bool) (l : List Byte), l.length = (p % 8 + n + 7) / 8 →
    let f := bitStore p n v loose
    let new := mergeAll ((List.range l.length).map (f.1.mask l.length)) l f.2
    new.length = l.length ∧ takeBits p n new = v % 2 ^ n ∧
    ∀ i, i < 8 * l.length → (i < p % 8 ∨ p % 8 + n ≤ i) → (leNat new).testBit i = (leNat l).testBit i)

/-- `pin`, `unpin` and `pfr` (R255, R256, R259, R260). Pins: an address in a window is BAD; one that does not translate is the fault of cause 5; a pin of a line
that the board and the line's slice hold pins it for the watch within its quota, a line that the board does not hold whole is brought into a
way of it first (R259), QUOTA above it, FULL where no way can be had; `unpin` gives a pin back, and is BAD where the watch holds
none. The result is the number of lines that the watch has pinned. `pfr`: an empty range, one longer than 2^32 bytes, or a token cell
that is misaligned or in a window is BAD, one that does not translate the fault of cause 5, one on a page that is neither PLAIN nor KEEP
is BAD; of 16 prefetches under way on the board the next is FULL; else the prefetch is under way. -/
def Sys2Proof.Claims.PinTriggers : Prop :=
  ∀ s k (g : Guard), Performs s k g .ls → ∀ (a : Src) (m : Bool),
    let r := (ready s k).touchSrc k a
    let w := r.watch k
    let d := ((ready s k).read k a).toScalar
    let n := fun (l : List (Nat × Nat)) => BitVec.ofNat 64 l.length
    let bd := boardOf (k / 4)
    (inWindow d.toNat = true → ∀ i, i = .lsPin a g m ∨ i = .lsUnpin a g m →
      exec i s = .next (passed r k m (endsNow m w .ls (n w.pins) 3))) ∧
    (inWindow d.toNat = false → r.translate (k / 4) w.part d.toNat = none → ∀ i, i = .lsPin a g m ∨ i = .lsUnpin a g m →
      exec i s = .next (passed r k m (faultsNow m w 5 d))) ∧
    (∀ e size, inWindow d.toNat = false → r.translate (k / 4) w.part d.toNat = some (e, size) →
      let line := r.paOf w.part e size d.toNat false / 64
      let marks := fun (v : Board) (f : List Nat → List Nat) =>
        { v with ways := v.ways.map fun x => if x.1 = line then (x.1, { x.2 with pins := f x.2.pins }) else x }
      ((bd, line) ∈ w.pins → cacheable e = true → exec (.lsPin a g m) s = .next (passed r k m (endsNow m w .ls (n w.pins) 0))) ∧
      ((bd, line) ∈ w.pins → exec (.lsUnpin a g m) s = .next (passed (r.onBoard bd fun v => marks v fun l => l.erase k) k m
        { endsNow m w .ls (n (w.pins.erase (bd, line))) 0 with pins := w.pins.erase (bd, line) })) ∧
      ((bd, line) ∉ w.pins → exec (.lsUnpin a g m) s = .next (passed r k m (endsNow m w .ls (n w.pins) 3))) ∧
      ((bd, line) ∉ w.pins → cacheable e = true → w.quota ≤ w.pins.length → exec (.lsPin a g m) s =
        .next (passed (r.onBoard bd fun v => { v with pinfail := (v.pinfail + 1) % 2 ^ 32 }) k m (endsNow m w .ls (n w.pins) 11))) ∧
      ((bd, line) ∉ w.pins → cacheable e = true → w.pins.length < w.quota → (r.boardAt bd).way? line = none →
        (r.boardAt bd).victimBank line = none → exec (.lsPin a g m) s =
        .next (passed (r.onBoard bd fun v => { v with pinfail := (v.pinfail + 1) % 2 ^ 32 }) k m (endsNow m w .ls (n w.pins) 2))) ∧
      (∀ x, (bd, line) ∉ w.pins → cacheable e = true → w.pins.length < w.quota → r.inMiss line = false →
        let q := r.needLine line false
        q.fills e (line * 64) = true → (q.boardAt bd).way? line = some x → x.valid = BitVec.allOnes 16 →
        exec (.lsPin a g m) s = .next (passed (q.onBoard bd fun v =>
            marks { v with ways := v.ways.set line { x with used := r.cycles } } fun l => l ++ [k]) k m
          { endsNow m w .ls (n (w.pins ++ [(bd, line)])) 0 with pins := w.pins ++ [(bd, line)] })) ∧
      (∀ b ps, (bd, line) ∉ w.pins → cacheable e = true → w.pins.length < w.quota → r.inMiss line = false →
        ((r.boardAt bd).way? line ≠ none ∨ (r.boardAt bd).victimBank line ≠ none) →
        let q := r.needLine line false
        q.fills e (line * 64) = true →
        (((q.boardAt bd).way? line = none ∧ ps = [] ∧ (q.boardAt bd).victimBank line = some b) ∨
          ∃ x, (q.boardAt bd).way? line = some x ∧ x.valid ≠ BitVec.allOnes 16 ∧ b = x.bank ∧ ps = x.pins) →
        ((q.fillWay bd line).boardAt bd).way? line =
          some ⟨b, q.lineFor bd line, r.cycles, ps, BitVec.allOnes 16, q.dirtyAt bd line⟩ ∧
        exec (.lsPin a g m) s = .next (passed ((q.fillWay bd line).onBoard bd fun v => marks v fun l => l ++ [k]) k m
          { endsNow m w .ls (n (w.pins ++ [(bd, line)])) 0 with pins := w.pins ++ [(bd, line)] })) ∧
      (cacheable e = false → exec (.lsPin a g m) s = .next (passed r k m (endsNow m w .ls (n w.pins) 3)))) ∧
    (let n := (w.latch .lsB).toNat
     let bad := n = 0 ∨ 2 ^ 32 < n ∨ d.toNat % 8 ≠ 0 ∨ inWindow d.toNat = true
     let busy := 16 ≤ (r.prefetches.filter fun p => boardOf (p.core / 4) = boardOf (k / 4)).length
     (bad → exec (.lsPfr a g m) s = .next (passed r k m (endsNow m w .ls 0 3))) ∧
     (¬bad → r.translate (k / 4) w.part d.toNat = none → exec (.lsPfr a g m) s = .next (passed r k m (faultsNow m w 5 d))) ∧
     (∀ e size, ¬bad → r.translate (k / 4) w.part d.toNat = some (e, size) →
      (2 ≤ pteType e → exec (.lsPfr a g m) s = .next (passed r k m (endsNow m w .ls 0 3))) ∧
      (pteType e < 2 → busy → exec (.lsPfr a g m) s = .next (passed r k m (endsNow m w .ls 0 2))) ∧
      (pteType e < 2 → ¬busy → exec (.lsPfr a g m) s = .next (passed { r with
        ticket := r.ticket + 1
        prefetches := r.prefetches ++ [⟨r.ticket, w.latch .lsA, n, d, w.part, k⟩] } k m (endsNow m w .ls 0 0)))))

/-- `push`, `pop` and `bmode` (R251 to R253, R261 to R263). A `push` to a bank that is no FIFO is BAD; with its tail slot FREE and no
reservation waiting it is served with the slot's address, the slot RESERVED and the tail advanced; with the tail slot not FREE it waits
behind those that wait. A `pop` of another board's bank, or one with nothing to release, is BAD; one that releases frees the watch's oldest slot; one that takes a COMPLETE head slot is served with its address, the slot
TAKEN by the watch. A `bmode` that may not be made is BAD with the bank's mode; else the change is on its way to the bank. -/
def Obligations.FifoTriggers : Prop :=
  ∀ s k (g : Guard), Performs s k g .ls → ∀ (a : Src) (m : Bool),
    let r := (ready s k).touchSrc k a
    let w := r.watch k
    let d := ((ready s k).read k a).toScalar
    let A := w.latch .lsA
    (bankOf (k / 4) d = none → ∀ i, i = .lsPush a g m ∨ i = .lsPop a g m ∨ i = .lsBmode a g m →
      exec i s = .next (passed r k m (endsNow m w .ls 0 3))) ∧
    (∀ b n base, bankOf (k / 4) d = some (b, n, base) → k < 16384 →
      let q := (r.boardAt b).bank n
      let held := { r with ticket := r.ticket + 1 }
      let far := base < 0xFE00000000000000
      let at' := fun (i : Nat) => BitVec.ofNat 64 (base + n * 0x8000 + i * q.slotSize)
      (far ∧ r.reaches w.part b = false → exec (.lsPush a g m) s =
        .next ((ready s k).trap1 k 6 d w.pc w.pc false)) ∧
      (¬(far ∧ r.reaches w.part b = false) →
        (q.mode ≠ 2 → exec (.lsPush a g m) s = .next (passed r k m (endsNow m w .ls 0 3))) ∧
        (q.mode = 2 → q.pushes = [] → q.slot q.tail = .free → exec (.lsPush a g m) s =
          .next (passed (stirred (held.onBank b n fun v => { v with
              pushes := [], tail := (v.tail + 1) % v.slotCount, slots := v.slots.put .free v.tail (.reserved 0) }) k) k m
            (servedNow m w r.ticket .ls (at' q.tail)))) ∧
        (q.mode = 2 → q.slot q.tail ≠ .free → (∀ x ∈ q.pushes, x.watch < 16384) → exec (.lsPush a g m) s =
          .next (passed (held.onBank b n fun v => { v with pushes := v.pushes ++ [⟨k, r.ticket, w.ord, base⟩] }) k m
            (waitsFor m w r.ticket .ls)))) ∧
      ((far ∨ q.mode ≠ 2 ∨ A = 0 ∨ 3 < A.toNat ∨ (A.toNat % 2 = 1 ∧ ∀ x ∈ w.taken, ¬(x.1 = b ∧ x.2.1 = n))) →
        exec (.lsPop a g m) s = .next (passed r k m (endsNow m w .ls 0 3))) ∧
      (∀ r' w', (A.toNat % 2 = 0 ∧ r' = r ∧ w' = w ∨ A.toNat % 2 = 1 ∧ ∃ x,
          w.taken.find? (fun x => x.1 = b && x.2.1 = n) = some x ∧ w' = { w with taken := w.taken.erase x } ∧
          r' = r.onBank b n fun v => { v with slots := v.slots.put .free x.2.2 .free }) →
        let q' := (r'.boardAt b).bank n
        let held' := { r' with ticket := r'.ticket + 1 }
        ¬far → q.mode = 2 →
        (A = 1 → exec (.lsPop a g m) s = .next (passed r' k m (endsNow m w' .ls 0 0))) ∧
        (A = 2 ∨ A = 3 → q.takes = [] → q'.slot q.head = .complete → exec (.lsPop a g m) s =
          .next (passed (stirred (held'.onBank b n fun v => { v with
              takes := [], head := (v.head + 1) % v.slotCount, slots := v.slots.put .free v.head (.taken k w.ord) }) k) k m
            { servedNow m w' r.ticket .ls (at' q.head) with taken := w'.taken ++ [(b, n, q.head)] })) ∧
        (A = 2 ∨ A = 3 → q'.slot q.head ≠ .complete → exec (.lsPop a g m) s =
          .next (passed (held'.onBank b n fun v => { v with takes := v.takes ++ [⟨k, r.ticket, w.ord, base⟩] }) k m
            (waitsFor m w' r.ticket .ls)))) ∧
      (let bad := A &&& ~~~0x73 ≠ 0 ∨ bits A 1 0 = 3 ∨ (bits A 1 0 ≠ 2 ∧ bits A 6 4 ≠ 0) ∨ q.locked = true ∨ q.mode = 3
       (far → exec (.lsBmode a g m) s = .next (passed r k m (endsNow m w .ls 0 3))) ∧
       (¬far → bad → exec (.lsBmode a g m) s = .next (passed r k m (endsNow m w .ls (BitVec.ofNat 64 (q.mode + q.z * 16)) 3))) ∧
       (¬far → ¬bad → exec (.lsBmode a g m) s = .next (passed (held.onBank b n fun v => { v with
          changes := v.changes ++ [⟨bits A 1 0, bits A 6 4, k, r.ticket, w.ord⟩] }) k m (waitsFor m w r.ticket .ls)))))

/-- The eight `mx` triggers, and how rod operations start, what they do to the tile slots, the row buffer, the accumulators and the checks of
the macros, and how they end (R217 to R237). -/
def Obligations.MacroOperations : Prop := MacroTriggers ∧ RodOperations ∧ MacroProducts ∧ MacroChecks ∧ MacroLoads ∧ MacroLocal

/-- `ldt`, `stt`, `pin`, `unpin` and `pfr` (R258 to R260). -/
def Obligations.ElementsAndPins : Prop := ElementTriggers ∧ PinTriggers

/-! ### Atomics, reconciles and writer slots -/

namespace Sys2Proof.Claims
open Sys2Proof.Machine

/-- The size codes that an operation of `at` takes (R311). -/
def atSized (o : AtOp) (n : Nat) : Prop :=
  match o with
  | .afadd | .ldsib => n = 2
  | .recon => 2 ≤ n ∧ n ≤ 6
  | .snap => n = 6
  | .wslot | .wdrop => n = 0
  | _ => n ≤ 3

/-- The memory type of a place, and the keeping region of a KEEP page (R266, R365). -/
def placeType : Place → Nat
  | .mem _ e => pteType e
  | _ => 0

/-- What an operation asks of its place and its operand `b`, size code `n`; otherwise BAD (R317, R319 to R321). -/
def atFits (o : AtOp) (n : Nat) (b : Word) (ty : Nat) : Prop :=
  match o with
  | .recon => ty = 1 ∧ reconBad b n = false
  | .ldsib => b.toNat < 4
  | .snap => ty ≠ 3 ∧ ty ≠ 4 ∧ b.toNat % 64 = 0 ∧ inWindow b.toNat = true
  | .wslot | .wdrop => ty = 1
  | _ => True

/-- The new value of `n` bytes that hold `old`, under the operands b and c (R312). -/
def AtTable (o : AtOp) (n : Nat) (old : BitVec (8 * n)) (b c : Word) (new : BitVec (8 * n)) : Prop :=
  let x : BitVec (8 * n) := b.setWidth (8 * n)
  match o with
  | .aadd => new = old + x
  | .aand => new = old &&& x
  | .aor => new = old ||| x
  | .axor => new = old ^^^ x
  | .amin => new.toInt = min old.toInt x.toInt
  | .amax => new.toInt = max old.toInt x.toInt
  | .aminn => new.toNat = min old.toNat x.toNat
  | .amaxn => new.toNat = max old.toNat x.toNat
  | .axch => new = x
  | .acas => new = if old = c.setWidth (8 * n) then x else old
  | .afadd => n = 4 → new = BitVec.ofNat (8 * n) (addElem .w32 23 .rne old.toNat x.toNat)
  | _ => True

/-- The watch after its ticket has ended with a result (R61). -/
def resolved (w : Watch) (t : Nat) (r : ParkRes) : Watch :=
  { w with img := { w.img with waits := w.img.waits.filter (·.1 ≠ t), results := w.img.results ++ [r] } }

/-- The watch after its ticket has ended with a fault (R376). -/
def faulted (w : Watch) (t : Nat) (d : Deferred) : Watch :=
  { w with img := { w.img with waits := w.img.waits.filter (·.1 ≠ t), faults := w.img.faults ++ [d] } }

end Sys2Proof.Claims

/-- The watch after a trigger that its marker waits for, where the watch was `w` as its request left. -/
def Sys2Proof.Claims.asked (m : Bool) (w : Watch) (t : Nat) (u : FUnit) : Watch :=
  let b := w.finishWord 4 .seq (!m)
  { b with img := { b.img with waits := w.img.waits ++ [(t, some u)] } }

/-- Triggers of `at` but `wslot` and `wdrop` (R303, R311, R312, R317 to R320): a malformed datum is BAD; a misaligned address the trap of
cause 4; an address whose access is refused that trap; operands that the operation does not take BAD; a KEEP page needs, but for a read
of siblings or a snap, an enrolment below its counter's limit, else the trap of cause 0x0B; and the request goes to the home, the core's
earlier stores to the bytes before it. -/
def Sys2Proof.Claims.AtomicTriggers : Prop :=
  ∀ s k (g : Guard), Performs s k g .at → ∀ (o : AtOp) (a : Src) (m : Bool), o ≠ .wslot → o ≠ .wdrop →
    let r := (ready s k).touchSrc k a
    let w := r.watch k
    let d := ((ready s k).read k a).toScalar
    let A := w.latch .atA
    let B := w.latch .atB
    let n := bits d 2 0
    let i : Instr := .ofUnit (.at o) a g false m
    let ok := bits d 63 3 = 0 ∧ atSized o n
    let trap := fun (c : Nat) (v : Word) =>
      Host.Outcome.next (φ := Fault) (ρ := Refusal) ((ready s k).trap1 k c v w.pc w.pc false)
    let place := r.resolve k (if atPlain o then .atomic else if o = .ldsib then .keep else .load) A.toNat
    (¬ok → exec i s = .next (passed r k m (endsNow m w .at 0 3))) ∧
    (ok → A.toNat % 2 ^ n ≠ 0 → exec i s = trap 4 A) ∧
    (∀ c, ok → A.toNat % 2 ^ n = 0 → place = .error c → exec i s = trap c A) ∧
    (∀ p, ok → A.toNat % 2 ^ n = 0 → place = .ok p → ¬atFits o n B (placeType p) →
      exec i s = .next (passed r k m (endsNow m w .at 0 3))) ∧
    (∀ p, ok → A.toNat % 2 ^ n = 0 → place = .ok p → atFits o n B (placeType p) →
      (∀ c, o = .snap → r.resolve k .store B.toNat = .error c → exec i s = trap c B) ∧
      ((o = .snap → ∃ q, r.resolve k .store B.toNat = .ok q) →
        (∀ pa e, p = .mem pa e → pteType e = 1 → (atPlain o = true ∨ o = .recon) → r.writerOf k (pteAux e) true = none →
          exec i s = trap 0xB A) ∧
        (∀ pa e q j, p = .mem pa e →
          (if pteType e = 1 ∧ (atPlain o = true ∨ o = .recon) then r.writerOf k (pteAux e) true = some (j, q) else q = r) →
          let z := (q.takeOrd k).2.drainOver (k / 4) pa (2 ^ n)
          (∀ l ∈ (z.coreAt (k / 4)).wcb, ¬(l.line * 64 < pa + 2 ^ n ∧ pa < l.line * 64 + 64)) ∧
          exec i s = .next (passed { z with
            ticket := z.ticket + 1
            atomq := z.atomq ++ [⟨z.ticket, k, w.ord, w.pc, o, A, pa, 2 ^ n, B, w.latch .atC, w.part,
              if pteType e = 1 then some (pteAux e) else none, if o = .recon then some ((q.watch k).enrol j).slot else none,
              false, false⟩] } k m (asked m (z.watch k) z.ticket .at))) ∧
        (∀ x, (∃ bd off, p = .bank bd off ∧ x = storeAddr bd off) ∨ (∃ c off, p = .slot c off ∧ x = storeAddr (boardOf c) off) →
          exec i s = .next (passed { r with
          ticket := r.ticket + 1
          atomq := r.atomq ++ [⟨r.ticket, k, w.ord, w.pc, o, A, x, 2 ^ n, B, w.latch .atC, w.part, none, none, true,
            false⟩] } k m (waitsFor m w r.ticket .at)))))

/-- `wslot` and `wdrop` (R294, R295, R321), a well-formed datum and a place that the watch may load: on a page that is not KEEP each is BAD;
`wslot` gives the slot, the region's compaction-due bit and the slot's counter, FULL where four enrolments are held, the fault of cause
0x0B where no slot is FREE; `wdrop` ends an enrolment and retires its slot, once the slot's stores and reconciles have been decided, NOSLOT
(15) without one. -/
def Sys2Proof.Claims.SlotTriggers : Prop :=
  ∀ s k (g : Guard), Performs s k g .at → ∀ (a : Src) (m : Bool) p,
    let r := (ready s k).touchSrc k a
    let w := r.watch k
    let A := w.latch .atA
    ((ready s k).read k a).toScalar = 0 → r.resolve k .load A.toNat = .ok p →
    (placeType p ≠ 1 → ∀ i, i = .atWslot a g m ∨ i = .atWdrop a g m → exec i s = .next (passed r k m (endsNow m w .at 0 3))) ∧
    (∀ pa e, p = .mem pa e → pteType e = 1 →
      (∀ j q, r.enrolIn k (pteAux e) = .ok (j, q) →
        let n := (q.watch k).enrol j
        let c := q.region w.part (pteAux e)
        exec (.atWslot a g m) s = .next (passed q k m { endsNow m w .at
          (packWord [(n.slot, 6), (0, 2), (if c.due then 1 else 0, 1), (0, 23), (c.counters.get 0 n.slot, 24)]) 0 with
            kenr := (q.watch k).kenr })) ∧
      (r.enrolIn k (pteAux e) = .error .full → exec (.atWslot a g m) s = .next (passed r k m (endsNow m w .at 0 2))) ∧
      (r.enrolIn k (pteAux e) = .error .noSlot → exec (.atWslot a g m) s = .next (passed r k m (faultsNow m w 0xB A))) ∧
      (w.enrolled (pteAux e) = none → exec (.atWdrop a g m) s = .next (passed r k m (endsNow m w .at 0 15))) ∧
      (∀ j, w.enrolled (pteAux e) = some j → exec (.atWdrop a g m) s =
        let left := if r.slotBusy w.part (pteAux e) (w.enrol j).slot then KSlot.leaving else .retired
        .next (passed (r.onRegion w.part (pteAux e) fun c => { c with slots := c.slots.put .free (w.enrol j).slot left }) k m
          { endsNow m w .at 0 0 with kenr := w.kenr.setIfInBounds j Enrol.fresh })))

/-- A request reaches its home and is performed there (R312, R356, R399): at a bank controller, no earlier access of its watch on its
way to one; or at a home behind no link that retrains, whose line is not in miss. -/
def Sys2Proof.Claims.Performed1 (s : State) (q : AtReq) : Prop :=
  q.atHome = false ∧ (s.watch q.watch).img.holds q.ticket = true ∧
    if q.board then ∀ x ∈ s.bankq, x.watch = q.watch → q.ticket ≤ x.ticket
    else s.behindRetrain q.pa = false ∧ (s.recordMiss (q.pa / 64) q.keep.isSome (.atomic q.ticket)).1 = false

/-- The value that a `recon` of operator `op` and lane type i32 or w32 gives a cell that held `l` (R317, R318): the sum, the least, the
greatest, the bitwise OR; for w32 the values combined in ascending dot order. -/
def Sys2Proof.Claims.LaneValue (op ty : Nat) (l : List CellVal) (x : BitVec 32) : Prop :=
  let inOrder := fun (f : Nat → Nat → Nat) => match (ascending l).map fun v => v.val.toNat with
    | [] => True
    | v :: t => x = BitVec.ofNat 32 (t.foldl f v)
  if ty = 2 then
    if op = 0 then inOrder (addElem .w32 23 .rne) else if op = 1 then inOrder fun a b => vaFloat .min .w32 23 .rne a 0 b
    else if op = 2 then inOrder fun a b => vaFloat .max .w32 23 .rne a 0 b else True
  else if op = 0 then x.toNat = (l.map fun v => v.val.toNat).sum % 2 ^ 32
  else if op = 1 then (∃ v ∈ l, v.val = x) ∧ ∀ v ∈ l, x.toInt ≤ v.val.toInt
  else if op = 2 then (∃ v ∈ l, v.val = x) ∧ ∀ v ∈ l, v.val.toInt ≤ x.toInt
  else ∀ i, i < 32 → x.getLsbD i = l.any fun v => v.val.getLsbD i

/-- The value that a `recon` of lane type i64 gives two cells that held the same dots (R317, R318): the sum modulo 2^64, the least or the
greatest of the values that their dots pair. -/
def Sys2Proof.Claims.PairValue (op : Nat) (lo hi : List CellVal) (x : BitVec 64) : Prop :=
  let l := ((ascending lo).zip (ascending hi)).map fun e => e.2.val ++ e.1.val
  if op = 0 then x.toNat = (l.map BitVec.toNat).sum % 2 ^ 64
  else if op = 1 then x ∈ l ∧ ∀ v ∈ l, x.toInt ≤ v.toInt
  else x ∈ l ∧ ∀ v ∈ l, v.toInt ≤ x.toInt

/-- The value that PICK or MARK gives a cell (R317, R318): its value of the dot chosen, or its highest. PICK chooses the highest dot that any
cell of the group holds; MARK the highest whose value in the group's first cell has bit 31 set, or, with none, that of PICK. -/
def Sys2Proof.Claims.ChosenValue (op : Nat) (cells : List (List CellVal)) (l : List CellVal) (x : BitVec 32) : Prop :=
  let first := ((cells.head?).getD []).filter fun v => v.val.getLsbD 31
  let from' := if op = 5 ∧ first ≠ [] then first else cells.flatten
  ∃ d ∈ from', (∀ v ∈ from', dotLt d v = false) ∧ x = match l.find? (sameDot d) with
    | some v => v.val
    | none => (topVal l).val

/-- `atomicApply` (R295, R312, R315, R317 to R320, R356, R400): the home performs one request whole; a line in miss records it. Behind a
link that is down it is BAD, over an uncorrectable error the fault of cause 0x18, the model's choice (log 35). An operation on one value
stores the new value of R312's table, returns the old one and changes no other byte; on a KEEP page each cell keeps its dot, with the mark
bit set, and with more than one value in a cell it is SIBS and changes nothing; a bank must be unlocked PAD. A reconcile leaves every cell of
its group with one value of the next dot of its writer slot, by its operator, ragged where the cells of an i64 lane hold different dots, joins
the dots that it met, and returns the greatest number of values; `ldsib` returns the value of its rank with its dot, NONE beyond the last; a snap
stands in its PAD bank. -/
def Obligations.AtomicApply : Prop :=
  (∀ (s : State) q, s.atomq[s.opnd.a]? = some q → q.atHome = false → q.board = false → s.behindRetrain q.pa = false →
    (s.recordMiss (q.pa / 64) q.keep.isSome (.atomic q.ticket)).1 = true → ∃ t, exec .atomicApply s = .next t ∧ t.mem = s.mem ∧
      t.cells = s.cells ∧ t.atomq = s.atomq.map fun x => if x.ticket = q.ticket then { x with atHome := true } else x) ∧
  ∀ (s : State) q, s.atomq[s.opnd.a]? = some q → Performed1 s q →
    let w := s.watch q.watch
    let ends := fun (t : State) (v : Word) (st : Nat) =>
      (t.watch q.watch).img.results = w.img.results ++ [⟨q.ord, .at, v, st, 0, q.pc⟩]
    let fails := fun (t : State) (c : Nat) (v : Word) => t.mem = s.mem ∧ t.cells = s.cells ∧
      (t.watch q.watch).img.faults = w.img.faults ++ [⟨q.ord, c, q.pc, v⟩]
    let old := s.homeNat q.pa q.size
    let cells := (cellsOf q.pa q.size).map s.cellVals
    let m := (cells.map List.length).foldl max 1
    let bank := (s.boardAt (q.pa / 2 ^ 24 % 1024)).bank (q.pa % 2 ^ 24 / 0x8000)
    ∃ t, exec .atomicApply s = .next t ∧ t.atomq = s.atomq.filter (·.ticket ≠ q.ticket) ∧
    (s.cutOff q.pa = true → ends t 0 3 ∧ t.mem = s.mem ∧ t.cells = s.cells) ∧
    (s.cutOff q.pa = false → s.poisoned q.pa q.size = true → fails t 0x18 q.va) ∧
    (s.poisoned q.pa q.size = false → atPlain q.op = true →
      (q.board = false → (∀ g, q.keep = some g → ∀ c ∈ cells, c.length ≤ 1) →
        (q.keep = none → ∀ j, j < q.size → s.pageHeld (q.pa + j) = false) → ∃ new, AtTable q.op q.size (BitVec.ofNat _ old) q.b q.c new ∧
        t.homeNat q.pa q.size = new.toNat ∧ ends t (BitVec.ofNat 64 old) 0 ∧
        (∀ x, (x < q.pa ∨ q.pa + q.size ≤ x) → t.home x = s.home x) ∧ (q.keep = none → t.cells = s.cells) ∧
        ∀ g, q.keep = some g → (∀ c, c ∉ cellsOf q.pa q.size → t.cells.get [] c = s.cells.get [] c) ∧
          ∀ c ∈ cellsOf q.pa q.size, ∀ v, s.cellVals c = [v] →
            t.cellVals c = [{ v with val := BitVec.ofNat 32 (t.homeNat c 4), mark := true }]) ∧
      (∀ g, q.board = false → q.keep = some g → (∃ c ∈ cells, 1 < c.length) → ends t 0 14 ∧ t.mem = s.mem ∧ t.cells = s.cells) ∧
      (q.board = true →
        (bank.locked = true ∨ bank.mode = 3 → fails t 6 q.va) ∧
        (bank.locked = false → bank.mode ≠ 3 → bank.mode ≠ 1 → fails t 0x10 q.va) ∧
        (bank.locked = false → bank.mode = 1 → ∃ new, AtTable q.op q.size (BitVec.ofNat _ old) q.b q.c new ∧
          t.mem = (s.putNat q.pa q.size new.toNat).mem ∧ ends t (BitVec.ofNat 64 old) 0))) ∧
    (∀ g, s.poisoned q.pa q.size = false → q.op = .recon → q.board = false → q.keep = some g →
      (bits q.b 7 4 = 1 → cells.length % 2 = 0) →
      (m = 1 → ends t 1 0 ∧ t.mem = s.mem ∧ t.cells = s.cells) ∧
      (m ≠ 1 → ends t (BitVec.ofNat 64 m) 0 ∧
        ∀ c ∈ cellsOf q.pa q.size, ∃ x, t.cellVals c = [x] ∧ x.slot = q.slot.getD 0 ∧ x.mark = false ∧
          x.cnt = (match (w.enrolled g).filter fun j => (w.enrol j).slot = q.slot.getD 0 with
            | some j => (w.enrol j).clock.get 0 (q.slot.getD 0)
            | none => (s.region q.part g).counters.get 0 (q.slot.getD 0)) + 1 ∧
          let op := bits q.b 3 0
          let ty := bits q.b 7 4
          (4 ≤ op → ChosenValue op cells (s.cellVals c) x.val ∧ x.ragged = false) ∧
          (op < 4 → ty ≠ 1 → LaneValue op ty (s.cellVals c) x.val ∧ x.ragged = false)) ∧
      (m ≠ 1 → bits q.b 3 0 < 3 → bits q.b 7 4 = 1 →
        let lanes := (List.range (cells.length / 2)).map fun i => (q.pa + 8 * i, q.pa + 8 * i + 4)
        let apart := lanes.any fun e => dotSet (s.cellVals e.1) ≠ dotSet (s.cellVals e.2)
        q.pa % 8 = 0 → ∀ e ∈ lanes, ∃ lo hi, t.cellVals e.1 = [lo] ∧ t.cellVals e.2 = [hi] ∧ lo.ragged = apart ∧ hi.ragged = apart ∧
          (dotSet (s.cellVals e.1) = dotSet (s.cellVals e.2) →
            PairValue (bits q.b 3 0) (s.cellVals e.1) (s.cellVals e.2) (hi.val ++ lo.val))) ∧
      (m ≠ 1 → ∀ j, w.enrolled g = some j → (w.enrol j).slot = q.slot.getD 0 → ∀ v ∈ cells.flatten,
        v.cnt ≤ ((t.watch q.watch).enrol j).clock.get 0 v.slot)) ∧
    (s.poisoned q.pa q.size = false → q.op = .ldsib → q.board = false → t.mem = s.mem ∧ t.cells = s.cells ∧
      let vals := (ascending (s.cellVals q.pa)).reverse
      (q.keep = none → if q.b = 0 then ends t (BitVec.ofNat 64 (s.homeNat q.pa 4)) 0 else ends t 0 16) ∧
      ∀ g, q.keep = some g →
        (vals.length ≤ q.b.toNat → ends t 0 16) ∧
        (∀ v, vals[q.b.toNat]? = some v → ends t (BitVec.ofNat 64 (v.val.toNat + 2 ^ 32 * v.dotWord)) 0)) ∧
    (∀ bd off l, s.poisoned q.pa q.size = false → q.op = .snap → s.resolve q.watch .store q.b.toNat = .ok (.bank bd off) →
      ((s.boardAt bd).bank (off / 0x8000)).mode = 1 → ((s.boardAt bd).bank (off / 0x8000)).locked = false →
      (if q.board = true ∧ q.pa % 2 ^ 24 < 0x80000 then s.bankLoad (q.pa / 2 ^ 24 % 1024) (q.pa % 2 ^ 24) 64 = .ok l
        else l = s.homeBytes q.pa 64) →
      t.mem = (s.putBytes (((List.range 64).map fun i => storeAddr bd (off + i)).zip l)).mem ∧
      ends t (BitVec.ofNat 64 (if q.keep.isSome then ((cellsOf q.pa 64).map fun a => (s.cellVals a).length).foldl max 1 else 1)) 0)

/-- The triggers of `at` (R311 to R321). A `snap` whose destination is refused traps in its own slot, the model's choice (log 37). -/
def Obligations.AtTriggers : Prop := AtomicTriggers ∧ SlotTriggers

/-! ### Messages, launches, engines, the tensor table, CSRs by number -/

namespace Sys2Proof.Claims
open Sys2Proof.Machine

/-- A core sends its next message (R25, R124, R126): the sequence number and the count of messages advance, the launch of the sender's
lineage counts it, and the marker waits for the ticket. -/
def sends (r : State) (k : Nat) (m : Bool) (add : State → State) : State :=
  let w := r.watch k
  let u := { r with ticket := r.ticket + 1 }.onCore (k / 4) fun c =>
    { c with seq := (c.seq + 1) % 4096, sent := (c.sent + 1) % 2 ^ 32 }
  passed (add (u.countUp w.part w.launch)) k m (waitsFor m w r.ticket .ms)

/-- The message that `sends` puts on its way, with eight words. -/
def outgoing (r : State) (k : Nat) (words : Vector Word 8) : Msg :=
  let w := r.watch k
  ⟨r.ticket, words, w.part, w.launch, match r.part? w.part with
    | some p => (p.launchAt w.launch).gen
    | none => 0, k, w.ord, boardOf (k / 4), r.cycles⟩

/-- Word `i` of a list of bytes. -/
def wordAt (l : List Byte) (i : Nat) : Word := BitVec.ofNat 64 (leNat ((l.drop (8 * i)).take 8))

/-- A unit reads `n` bytes at an address for the watch, whose state the read leaves alone. -/
def Reads (r : State) (k va n : Nat) (l : List Byte) (q : State) (loose : Bool := false) : Prop :=
  r.unitLoad k va n loose = .ok (l, q) ∧ q.watch k = r.watch k

end Sys2Proof.Claims

/-- `send`, `callat`, `reply`, `sendc` and `dep` (R124, R127, R128, R134 to R136): a destination outside the partition, a reserved bit, a
length that the operation does not take, a slot or a half that the object's type does not have, a must-be-0 bit of the object id (log 62), or a
misaligned source, that of a retire too, is BAD; else,
where the core's router has a place (R388), the message is on its way with the words of its kind, `x1` to `x4` as they are at the trigger,
and a deposit with its residual class. -/
def Obligations.MessageTriggers : Prop :=
  ∀ s k (g : Guard), Performs s k g .ms → ∀ (a : Src) (m : Bool),
    let r := (ready s k).touchSrc k a
    let w := r.watch k
    let d := ((ready s k).read k a).toScalar
    let A := w.latch .msA
    let B := w.latch .msB
    let C := w.latch .msC
    let x := fun (n : Nat) => (s.watch k).endPass.xRead n
    let seq := ((r.coreAt (k / 4)).seq + 1) % 4096
    let len := bits A 18 16
    let sane := A &&& ~~~0x73FFF = 0 ∧ r.holdsCore w.part (bits A 11 0) = true
    let head := fun (kind : Nat) => msgHeader seq len 0 0 0 0 0 (bits A 13 12) kind (k / 4) (bits A 11 0)
    let posts := fun (q : State) (l : Vector Word 8) => Host.Outcome.next (φ := Fault) (ρ := Refusal)
      (sends q k m fun u => { u with msgs := u.msgs ++ [outgoing q k l] })
    let bad := Host.Outcome.next (φ := Fault) (ρ := Refusal) (passed r k m (endsNow m w .ms 0 3))
    (¬(sane ∧ len = 0) → exec (.msSend a g m) s = bad ∧ exec (.msCallat a g m) s = bad ∧ exec (.msReply a g m) s = bad) ∧
    (sane → len = 0 → r.meshFull k = false →
      exec (.msSend a g m) s = posts r #v[head 0, B, x 1, x 2, x 3, x 4, C, d] ∧
      exec (.msCallat a g m) s = posts r #v[head 1, B, x 1, x 2, x 3, x 4, C, d] ∧
      exec (.msReply a g m) s = posts r #v[head 2, C, d, x 2, x 3, x 4, 0, 0]) ∧
    (¬(sane ∧ 1 ≤ len ∧ len ≤ 5 ∧ B.toNat % 8 = 0) → exec (.msSendc a g m) s = bad) ∧
    (∀ l q, sane → 1 ≤ len → len ≤ 5 → B.toNat % 8 = 0 → Reads r k B.toNat (8 * len) l q true → q.meshFull k = false →
      (q.coreAt (k / 4)).seq = (r.coreAt (k / 4)).seq →
      exec (.msSendc a g m) s = posts q #v[head 3, wordAt l 0, wordAt l 1, wordAt l 2, wordAt l 3, wordAt l 4, C, d]) ∧
    (r.typeOf w.part (oidType A) = none → exec (.msDep a g m) s = bad) ∧
    (∀ t, r.typeOf w.part (oidType A) = some t →
      let sl := bits B 5 0
      let kind := bits B 9 8
      let half := B.getLsbD 11
      let n := if t.size = 16 then 16 else 32
      let ok := B &&& ~~~0xF3F = 0 ∧ oidOk A = true ∧ sl < t.slots ∧ (half = true → t.size = 64) ∧
        r.holdsCore w.part (oidCore A) = true ∧ C.toNat % n = 0
      let word0 := msgHeader seq (if half then 1 else 0) (bits B 10 10) kind sl (oidType A) (resClass d t.resBase) 0 4 (k / 4) (oidCore A)
      let drops := fun (q : State) (l : List Byte) => Host.Outcome.next (φ := Fault) (ρ := Refusal) (sends q k m fun u =>
        { u with deposits := u.deposits ++
          [outgoing q k #v[word0, A, wordAt l 0, wordAt l 1, wordAt l 2, wordAt l 3, d, 0]] })
      (¬ok → exec (.msDep a g m) s = bad) ∧
      (ok → kind = 3 → r.meshFull k = false → exec (.msDep a g m) s = drops r []) ∧
      (∀ l q, ok → kind ≠ 3 → Reads r k C.toNat n l q → q.meshFull k = false → (q.coreAt (k / 4)).seq = (r.coreAt (k / 4)).seq →
        exec (.msDep a g m) s = drops q l))

/-- `launch` and `mcast` (R29, R141, R142, R145). `launch`: a misaligned or malformed descriptor is BAD, a full store FULL; else the lowest
free entry (log 9) holds the descriptor in the watch's graph, which counts it, started with its n indices to place, or, in a graph that is
cancelled, ends at once; and the result is its handle. `mcast`: malformed operands, a source outside the local PAD window or mask bits above 8
(log 62), or a place outside the partition, are BAD; else the bytes stand at the
offset in every place named. -/
def Obligations.LaunchTriggers : Prop :=
  ∀ s k (g : Guard), Performs s k g .ms → ∀ (a : Src) (m : Bool),
    let r := (ready s k).touchSrc k a
    let w := r.watch k
    let d := ((ready s k).read k a).toScalar
    let A := (w.latch .msA).toNat
    let n := (w.latch .msB).toNat
    let mask := w.latch .msC
    let places := ((List.range 9).filter mask.getLsbD).map fun i => if i = 8 then some (boardOf (k / 4)) else neighbour (boardOf (k / 4)) i
    let sane := A / 2 ^ 24 = 0xFE00000000 ∧ A % 2 ^ 24 + n ≤ 0x80000 ∧ A % 64 = 0 ∧ 64 ≤ n ∧ n ≤ 8192 ∧ n % 64 = 0 ∧
      d.toNat % 64 = 0 ∧ d.toNat + n ≤ 0x80000 ∧ bits mask 63 9 = 0 ∧ ∀ p ∈ places, ∃ b, p = some b ∧ r.reaches w.part b = true
    (d.toNat % 64 ≠ 0 → exec (.msLaunch a g m) s = .next (passed r k m (endsNow m w .ms 0 3))) ∧
    (∀ l q p, d.toNat % 64 = 0 → Reads r k d.toNat 64 l q → q.part? w.part = some p →
      let desc : Desc := Vector.ofFn fun i => wordAt l i.val
      (Desc.bad desc p = true → exec (.msLaunch a g m) s = .next (passed q k m (endsNow m w .ms 0 3))) ∧
      (Desc.bad desc p = false → (∀ e, e < 256 → (p.launchAt e).used = true) →
        exec (.msLaunch a g m) s = .next (passed q k m (endsNow m w .ms 0 2))) ∧
      (∀ e, Desc.bad desc p = false → e < 256 → (p.launchAt e).used = false → (∀ j, j < e → (p.launchAt j).used = true) →
        ∃ t p', exec (.msLaunch a g m) s = .next t ∧ t.part? w.part = some p' ∧
          (t.watch k).img.results.getLast? = some ⟨w.ord, .ms, handleOf e (p.launchAt e).gen, 0, 0, w.pc⟩ ∧
          ((p.graphAt w.gph.toNat).cancelled = true →
            (p'.launchAt e).used = false ∧ (p'.launchAt e).gen = ((p.launchAt e).gen + 1) % 2 ^ 16) ∧
          ((p.graphAt w.gph.toNat).cancelled = false → t.mem = q.mem ∧
            t.watch k = marked m w.pc (endsNow m w .ms (handleOf e (p.launchAt e).gen) 0) ∧
            (p'.launchAt e).used = true ∧ (p'.launchAt e).cancelled = false ∧ (p'.launchAt e).desc = desc ∧
            (p'.launchAt e).graph = w.gph.toNat ∧ (p'.launchAt e).started = true ∧
            (p'.launchAt e).counter = Desc.n desc ∧ (p'.launchAt e).toPlace = Desc.cursors desc p ∧
            (∀ j, j ≠ e → p'.launchAt j = p.launchAt j) ∧
            p'.graphAt w.gph.toNat = { p.graphAt w.gph.toNat with unfinished := (p.graphAt w.gph.toNat).unfinished + 1 }))) ∧
    (¬sane → exec (.msMcast a g m) s = .next (passed r k m (endsNow m w .ms 0 3))) ∧
    (∀ l q, sane → Reads r k A n l q → l.length = n →
      (∀ b, some b ∈ places → ((q.boardAt b).bank (d.toNat / 0x8000)).locked = false ∧ ((q.boardAt b).bank (d.toNat / 0x8000)).mode = 1) →
      ∃ t, exec (.msMcast a g m) s = .next t ∧ t.watch k = marked m w.pc (endsNow m w .ms 0 0) ∧
        (∀ b, some b ∈ places → ∀ j, j < n → t.home (storeAddr b (d.toNat + j)) = l.getD j 0) ∧
        ∀ x, (∀ b, some b ∈ places → ∀ j, j < n → x ≠ storeAddr b (d.toNat + j)) → t.home x = q.home x)

/-- `grp` and `coll` (R145, R341, R342). `grp`: a misaligned or malformed descriptor is BAD, a group whose collective is unfinished FULL;
else the group is defined, its chain's header initialised, and the result is its number. `coll`: no such group, or no member on this
board, is BAD (log 62), as is an entry that its capture refuses; 64 entries in use of the engine that would hold it (R348) are FULL; else the
entry is the member's next of the group's chain. The lines of the header and of the descriptor come to their slices first (R356). -/
def Sys2Proof.Claims.GroupTriggers : Prop :=
  ∀ s k (g : Guard), Performs s k g .ms → ∀ (a : Src) (m : Bool),
    let r := (ready s k).touchSrc k a
    let w := r.watch k
    let d := ((ready s k).read k a).toScalar
    let A := w.latch .msA
    let bd := boardOf (k / 4)
    (A.toNat % 64 ≠ 0 → exec (.msGrp a g m) s = .next (passed r k m (endsNow m w .ms 0 3))) ∧
    (∀ l q, A.toNat % 64 = 0 → Reads r k A.toNat 64 l q →
      (q.groupOf w.part (wordAt l) = none ∨ 16 ≤ d.toNat ∨ (wordAt l 7).toNat % 64 ≠ 0 →
        exec (.msGrp a g m) s = .next (passed q k m (endsNow m w .ms 0 3))) ∧
      (∀ form ms, q.groupOf w.part (wordAt l) = some (form, ms) → d.toNat < 16 → (wordAt l 7).toNat % 64 = 0 →
        (q.groupBusy w.part d.toNat = true → exec (.msGrp a g m) s = .next (passed q k m (endsNow m w .ms 0 2))) ∧
        (∀ z, q.groupBusy w.part d.toNat = false →
          q.engPut w.part bd false (wordAt l 7).toNat (leBytes 24 0 ++ leBytes 8 (2 ^ 16) ++ leBytes 32 0) = (0, z) →
          exec (.msGrp a g m) s = .next (passed (z.onPart w.part fun p =>
            { p with groups := Tbl.put none p.groups d.toNat (some ⟨wordAt l 7, form, ms⟩) }) k m (endsNow m (z.watch k) .ms d 0))))) ∧
    ((16 ≤ A.toNat ∨ ∀ p, r.part? w.part = some p → p.groups.get none A.toNat = none) →
      exec (.msColl a g m) s = .next (passed r k m (endsNow m w .ms 0 3))) ∧
    (∀ p gr, A.toNat < 16 → r.part? w.part = some p → p.groups.get none A.toNat = some gr →
      r.engWaits w.part bd gr.header.toNat = false → r.engWaits w.part bd d.toNat = false →
      let r1 := r.engReach w.part bd false gr.header.toNat 64
      let r2 := r1.engReach w.part bd false d.toNat 64
      (r1.rankIn gr bd = none → exec (.msColl a g m) s = .next (passed r1 k m (endsNow m (r1.watch k) .ms 0 3))) ∧
      (∀ rank hw, r1.rankIn gr bd = some rank → r1.engWords w.part bd gr.header.toNat = some hw →
        (r2.capture w.part (1024 + bd / 512) d rank = none →
          exec (.msColl a g m) s = .next (passed r2 k m (endsNow m (r2.watch k) .ms 0 3))) ∧
        (∀ e, r2.capture w.part (1024 + bd / 512) d rank = some e →
          let eng := r2.engineOf { r2.openChain w.part (1024 + bd / 512) gr.header hw with group := some A.toNat } e
          let used := (r2.chains.map fun c => (c.entries.filter fun e => r2.engineOf c e = eng).length).sum
          (64 ≤ used → exec (.msColl a g m) s = .next (passed r2 k m (endsNow m (r2.watch k) .ms 0 2))) ∧
          (used < 64 → ∃ t c, exec (.msColl a g m) s = .next t ∧
            (t.watch k).img.results.getLast? = some ⟨w.ord, .ms, 0, 0, 0, w.pc⟩ ∧
            c ∈ t.chains ∧ c.part = w.part ∧ c.header = gr.header ∧ c.group = some A.toNat ∧
            ∃ x ∈ c.entries, x.member = rank ∧ x.words = e.words ∧ x.st = e.st ∧
              (t.watch k).appended = w.appended ++ [(gr.header, x.seq)]))))

/-- `tail`, `seq`, `wseq`, `pub` and `halt` (R329, R339, R343 to R347), a header that no link holds. A misaligned header is BAD. `tail`
appends the captured entries, numbered on from the chain's, and returns the last number; HALTED while a chain that has been halted has
entries that have not ended (log 63); BAD where an entry is refused at its capture or the last is not reached; FULL where the engine's chains or
entries do not suffice. The lines that it reads come to their slices first (R356). `seq` returns `done` as an acquire reads it: the
home's, after the core's own stores to it; `wseq` has it once it has reached the number, and waits until then; `pub` is BAD without a
pair, INUSE with a flip armed, waits while night writes are open, and arms a flip at the time, or 200 ticks ahead; `halt` returns `done`
where the chain has no entry left, and else ends those that have not started and waits. -/
def Sys2Proof.Claims.ChainTriggers : Prop :=
  ∀ s k (g : Guard), Performs s k g .ce → ∀ (a : Src) (m : Bool),
    let r := (ready s k).touchSrc k a
    let w := r.watch k
    let d := ((ready s k).read k a).toScalar
    let A := w.latch .ceA
    let H := w.latch .ceB
    let bd := boardOf (k / 4)
    let pair := bits A 5 0
    let bad := Host.Outcome.next (φ := Fault) (ρ := Refusal) (passed r k m (endsNow m w .ce 0 3))
    let waits := fun (u : State) (o : CeOp) (h n : Word) => passed { u with
      ticket := u.ticket + 1, ceWaits := u.ceWaits ++ [⟨u.ticket, k, w.ord, w.pc, o, h, n⟩] } k m (waitsFor m w u.ticket .ce)
    let parked := { r with ticket := r.ticket + 1 }.onWatch k fun w =>
      { w with ord := w.ord + 1, img := w.img.await r.ticket (some .ce) }
    let ends := fun (z : State) (v : Word) =>
      let y := z.finish k r.ticket ⟨w.ord, .ce, v, 0, 0, 0⟩
      Host.Outcome.next (φ := Fault) (ρ := Refusal) (passed y k m ((y.watch k).finishWord 4 .seq (!m)))
    (∀ x ∈ s.ceWaits, x.ticket < s.ticket) → (∀ c ∈ s.chains, c.entries ≠ []) →
    (H.toNat % 64 ≠ 0 → exec (.ceTail a g m) s = bad) ∧
    (H.toNat % 64 = 0 → r.engWaits w.part bd H.toNat = false →
      let r1 := r.engReach w.part bd false H.toNat 64
      (r1.engWords w.part bd H.toNat = none → exec (.ceTail a g m) s = .next (passed r1 k m (endsNow m (r1.watch k) .ce 0 3))) ∧
      (∀ hw, r1.engWords w.part bd H.toNat = some hw →
        let eng := (hw 3).toNat
        (1024 ≤ eng ∨ r1.reaches w.part eng = false →
          exec (.ceTail a g m) s = .next (passed r1 k m (endsNow m (r1.watch k) .ce 0 3))) ∧
        (∀ z, eng < 1024 → r1.reaches w.part eng = true → r1.followNext w.part eng d 256 A = (.ok none, z) →
          exec (.ceTail a g m) s = .next (passed z k m (endsNow m (z.watch k) .ce 0 3))) ∧
        (∀ l z, eng < 1024 → r1.reaches w.part eng = true → r1.followNext w.part eng d 256 A = (.ok (some l), z) →
          (l.mapM (fun v => z.capture w.part eng v 0) = none →
            exec (.ceTail a g m) s = .next (passed z k m (endsNow m (z.watch k) .ce 0 3))) ∧
          (∀ es, l.mapM (fun v => z.capture w.part eng v 0) = some es →
            let c := z.openChain w.part eng H hw
            let own := z.chains.filter (·.eng = eng)
            let full := (c.entries = [] ∧ 16 ≤ own.length) ∨ 256 < (own.map fun c => c.entries.length).sum + es.length
            (c.halted = true → exec (.ceTail a g m) s = .next (passed z k m (endsNow m (z.watch k) .ce 0 17))) ∧
            (c.halted = false → full → exec (.ceTail a g m) s = .next (passed z k m (endsNow m (z.watch k) .ce 0 2))) ∧
            (c.halted = false → ¬full → ∃ t x, exec (.ceTail a g m) s = .next t ∧
              (t.watch k).img.results.getLast? = some ⟨w.ord, .ce, BitVec.ofNat 64 (c.tseq + es.length), 0, 0, w.pc⟩ ∧
              (t.watch k).appended = w.appended ++ [(H, c.tseq + es.length)] ∧ x ∈ t.chains ∧ x.part = c.part ∧
              x.header = c.header ∧ x.tseq = c.tseq + es.length ∧ x.entries = c.entries ++ numberFrom (c.tseq + 1) es))))) ∧
    (d.toNat % 64 ≠ 0 → exec (.ceSeq a g m) s = bad ∧ exec (.ceHalt a g m) s = bad) ∧
    (A.toNat % 64 ≠ 0 → exec (.ceWseq a g m) s = bad) ∧
    (∀ h pa e, h.toNat % 64 = 0 → r.resolveAll k .load h.toNat 8 = .ok [(.mem pa e, h.toNat, 0, 8)] → pteType e ≠ 1 →
      r.poisoned pa 8 = false → r.behindRetrain pa = false →
      let z := r.drainOver (k / 4) pa 8
      (z.sliced pa = false ∨ z.inMiss (pa / 64) = false) →
      ∃ t, r.readDone k h = .ok (BitVec.ofNat 64 (z.homeNat pa 8), t) ∧ t.mem = z.mem) ∧
    (∀ v z, d.toNat % 64 = 0 → r.readDone k d = .ok (v, z) →
      exec (.ceSeq a g m) s = .next (passed z k m (endsNow m (z.watch k) .ce v 0))) ∧
    (∀ v z v' z', A.toNat % 64 = 0 → r.readDone k A = .ok (v, z) → parked.readDone k A = .ok (v', z') →
      exec (.ceWseq a g m) s = if d.toNat ≤ v'.toNat then ends z' v' else .next (waits r .wseq A d)) ∧
    (d.toNat % 64 = 0 →
      let r1 := r.engReach w.part bd false d.toNat 64
      let parks := { r1 with ticket := r1.ticket + 1 }.onWatch k fun w =>
        { w with ord := w.ord + 1, img := w.img.await r1.ticket (some .ce) }
      (∀ x ∈ r1.ceWaits, x.ticket < r1.ticket) → (∀ c ∈ r1.chains, c.entries ≠ []) →
      ∀ hw, r1.engWords w.part bd d.toNat = some hw →
      ((hw 3).getLsbD 16 = true → exec (.ceHalt a g m) s = .next (passed r1 k m (endsNow m (r1.watch k) .ce 0 3))) ∧
      (∀ v z, (hw 3).getLsbD 16 = false → r1.chain? w.part d = none → parks.readDone k d = .ok (v, z) →
        let y := z.finish k r1.ticket ⟨w.ord, .ce, v, 0, 0, 0⟩
        exec (.ceHalt a g m) s = .next (passed y k m ((y.watch k).finishWord 4 .seq (!m)))) ∧
      (∀ c, (hw 3).getLsbD 16 = false → r1.chain? w.part d = some c → ∃ t, exec (.ceHalt a g m) s = .next t ∧ t.mem = r1.mem ∧
        t.ceWaits = r1.ceWaits ++ [⟨r1.ticket, k, w.ord, w.pc, .halt, d, 0⟩] ∧
        t.watch k = marked m w.pc (waitsFor m (r1.watch k) r1.ticket .ce) ∧
        ∀ x ∈ t.chains, x.part = w.part → x.header = d → ∀ y ∈ x.entries,
          ¬(y.st = .captured ∧ y.slot = none) ∧ ¬(y.st = .running ∧ y.kind = 10))) ∧
    (r.pair? w.part pair = none → exec (.cePub a g m) s = bad) ∧
    (∀ p, r.pair? w.part pair = some p →
      (p.flip.isSome = true → exec (.cePub a g m) s =
        .next (passed (stirred { r with ticket := r.ticket + 1 } k) k m (servedNow m w r.ticket .ce 0 9))) ∧
      (p.flip = none → r.nightBusy w.part p none = true → exec (.cePub a g m) s = .next (waits r .pub (A &&& 63) d)) ∧
      (p.flip = none → r.nightBusy w.part p none = false →
        let late := d.toNat < r.bell + 200
        let at' := if late then r.bell + 200 else d.toNat
        exec (.cePub a g m) s = .next (passed (stirred ({ r with ticket := r.ticket + 1 }.onPair w.part pair fun x =>
          { x with flip := some ⟨at', 0, 0, 0⟩ }) k) k m (servedNow m w r.ticket .ce (BitVec.ofNat 64 at') (if late then 18 else 0)))))

/-- Triggers of `tb` and `sy` (R243, R244, R378). `tb`: an id of 1,024 or more is BAD, one that is not bound UNBOUND, a misaligned address or a
malformed header BAD; `tbind` of an id in use is INUSE, of any id takes the lowest free one, FULL without one; `tfree` unbinds; `tget` stores
the 64 bytes of the entry, and to a KEEP page where its watch cannot enrol takes the trap of cause 0x0B in the word's own slot (R295); `tset` replaces base, scale or kv where the header stays well-formed. `sy`: a number that R379 does not assign
is BAD; `rd` gives what the CSR reads at the trigger; `wr` of a handler-only CSR in user mode is PRIV, and another takes effect at the marker. -/
def Obligations.TableTriggers : Prop :=
  (∀ s k (g : Guard), Performs s k g .tb → ∀ (a : Src) (m : Bool),
    let r := (ready s k).touchSrc k a
    let w := r.watch k
    let d := ((ready s k).read k a).toScalar
    let A := w.latch .tbA
    let B := w.latch .tbB
    let any := d = BitVec.allOnes 64
    let ends := fun (u : State) (v st : Nat) => Host.Outcome.next (φ := Fault) (ρ := Refusal)
      (passed u k m (endsNow m w .tb (BitVec.ofNat 64 v) st))
    (A.toNat % 64 ≠ 0 ∨ (¬any ∧ 1024 ≤ d.toNat) → exec (.tbTbind a g m) s = ends r 0 3) ∧
    (∀ l q, A.toNat % 64 = 0 → (any ∨ d.toNat < 1024) → Reads r k A.toNat 64 l q →
      let h : Header := BitVec.ofNat 512 (leNat l)
      (h.ok = false → exec (.tbTbind a g m) s = ends q 0 3) ∧
      (h.ok = true → ¬any → (q.tensor? k d).isSome = true → exec (.tbTbind a g m) s = ends q 0 9) ∧
      (h.ok = true → ¬any → q.tensor? k d = none → exec (.tbTbind a g m) s = ends (q.setTensor k d.toNat (some h)) d.toNat 0) ∧
      (h.ok = true → any → (∀ j, j < 1024 → (q.tensor? k (BitVec.ofNat 64 j)).isSome = true) →
        exec (.tbTbind a g m) s = ends q 0 2) ∧
      (∀ i, h.ok = true → any → i < 1024 → q.tensor? k (BitVec.ofNat 64 i) = none →
        (∀ j, j < i → (q.tensor? k (BitVec.ofNat 64 j)).isSome = true) →
        exec (.tbTbind a g m) s = ends (q.setTensor k i (some h)) i 0)) ∧
    (1024 ≤ d.toNat → exec (.tbTfree a g m) s = ends r 0 3 ∧ exec (.tbTget a g m) s = ends r 0 3 ∧
      exec (.tbTset a g m) s = ends r 0 3) ∧
    (d.toNat < 1024 → r.tensor? k d = none → exec (.tbTfree a g m) s = ends r 0 10 ∧ exec (.tbTget a g m) s = ends r 0 10 ∧
      (A.toNat ≤ 2 → (A = 2 → B.toNat ≤ 255) → exec (.tbTset a g m) s = ends r 0 10)) ∧
    (∀ h, d.toNat < 1024 → r.tensor? k d = some h →
      exec (.tbTfree a g m) s = ends (r.setTensor k d.toNat none) 0 0 ∧
      (A.toNat % 64 ≠ 0 → exec (.tbTget a g m) s = ends r 0 3) ∧
      (A.toNat % 64 = 0 → r.writerAll k (r.trigRegions k (.tb .tget) d (some h)) = none →
        exec (.tbTget a g m) s = .next ((ready s k).trap1 k 0xB A w.pc w.pc false)) ∧
      (∀ pa e, A.toNat % 64 = 0 → r.resolveAll k .store A.toNat 64 =
          .ok [(.mem pa e, A.toNat, 0, 32), (.mem (pa + 32) e, A.toNat + 32, 32, 32)] → pteType e ≠ 1 →
        r.cutOff pa = false → r.cutOff (pa + 32) = false → (∀ j, j < 64 → r.pageHeld (pa + j) = false) → ∃ t, exec (.tbTget a g m) s = .next t ∧ t.mem = s.mem ∧
          (∀ j, j < 64 → t.coreByte (k / 4) e (pa + j) = (leBytes 64 h.toNat).getD j 0) ∧
          (t.watch k).img.results = w.img.results ++ [⟨w.ord, .tb, 0, 0, 0, w.pc⟩] ∧
          (t.watch k).x = (w.finishWord 4 .seq (!m)).x ∧ (t.watch k).v = (w.finishWord 4 .seq (!m)).v) ∧
      ((2 < A.toNat ∨ (A = 2 ∧ 255 < B.toNat)) → exec (.tbTset a g m) s = ends r 0 3) ∧
      (A.toNat ≤ 2 → (A = 2 → B.toNat ≤ 255) →
        let h' := if A = 2 then h.setField 26 1 B.toNat else h.setField (if A = 0 then 8 else 16) 8 B.toNat
        exec (.tbTset a g m) s = if h'.ok then ends (r.setTensor k d.toNat (some h')) 0 0 else ends r 0 3))) ∧
  (∀ s k (g : Guard), Performs s k g .sy → ∀ (a : Src) (m : Bool),
    let r := (ready s k).touchSrc k a
    let w := r.watch k
    let d := ((ready s k).read k a).toScalar
    let only := d.toNat = 0x103 ∨ d.toNat = 0x106 ∨ d.toNat = 0x107
    (512 ≤ d.toNat ∨ r.csr? k d.toNat = none → ∀ i, i = .syRd a g m ∨ i = .syWr a g m →
      exec i s = .next (passed r k m (endsNow m w .sy 0 3))) ∧
    (∀ v, d.toNat < 512 → r.csr? k d.toNat = some v →
      exec (.syRd a g m) s = .next (passed r k m (endsNow m w .sy v 0)) ∧
      (only → w.hm = false → exec (.syWr a g m) s = .next (passed r k m (endsNow m w .sy 0 23))) ∧
      (¬only ∨ w.hm = true → exec (.syWr a g m) s = .next (passed r k m { endsNow m w .sy 0 0 with
        img := { (endsNow m w .sy 0 0).img with csrs := w.img.csrs ++ [(d.toNat, w.latch .syA)] } }))))

/-- `grp` and `coll` of `ms`, and the triggers of `ce` (R145, R343 to R347). -/
def Obligations.GroupsAndChains : Prop := GroupTriggers ∧ ChainTriggers

/-! ### Markers, results that land, tasks, gangs -/

namespace Sys2Proof.Claims
open Sys2Proof.Machine

/-- The watch that the operands of an event name: core `a`, wid `b`. -/
def subjectOf (s : State) : Nat := s.opnd.a * 4 + s.opnd.b % 4

/-- A watch whose marker may be released: parked, in no gang, its results all come, its partition running, its core not gated; no
other watch waits on an engine. -/
structure Released (s : State) (k : Nat) (a : After) : Prop where
  named : subjectOf s = k
  polls : s.ceWaits = []
  solo : (s.watch k).gang = none
  live : s.live (s.watch k).part = true
  awake : (s.coreAt (k / 4)).gated = false
  settled : (s.watch k).settled = true
  after : (s.watch k).after = a

/-- Nothing of the region traps: no trap enable is set, no fault is deferred, no load or `aread` binds an f register (R180, R376). -/
structure Calm (w : Watch) : Prop where
  enables : w.fst &&& 0x3F0000 = 0
  trap : w.fpTrap = none
  faults : w.img.faults = []
  loads : ∀ l ∈ w.loads, ∀ r d, l.reg ≠ .f r d
  regs : ∀ l ∈ w.img.regs, ∀ r d, l.reg ≠ .f r d

/-- No store is on its way, and no slice waits for a line. -/
structure Still (s : State) : Prop where
  stores : s.stores = []
  updates : s.updates = []
  slices : ∀ e ∈ s.slices, e.2.misses = [] ∧ e.2.queue = [] ∧ e.2.port = []
/-- Nothing is on its way in the device: this core has no store to drain, no bank, home or slice a request. -/
structure Quiet (s : State) (c : Nat) : Prop extends Still s where
  wcb : (s.coreAt c).wcb = []
  atomics : s.atomq = []
  keeps : s.keepq = []
  banks : s.bankq = []

/-- Every watch but those of a list is as it was, or has been chosen by its core's issue point (R119). -/
def OthersKept (s t : State) (ks : List Nat) : Prop :=
  ∀ j, j ∉ ks → t.watch j = s.watch j ∨ t.watch j = { s.watch j with st := .issuing }

/-- The watches of a core whose wait is over: the six cycles of their dispatch, or the count of their `pause`; each with its gang. -/
def Woken (s : State) (n : Nat) : List Nat := (((List.range 4).map (n * 4 + ·)).filter s.rested).flatMap s.members

/-- The watches of a core whose wait is over are READY together, and where the core issues nothing its issue point takes the first READY
watch, from the one behind the last in wid order; no other watch changes (R119, R148). -/
def Wakes (s t : State) (n : Nat) : Prop :=
  OthersKept s t (Woken s n) ∧
  (∀ j ∈ Woken s n, t.watch j = { s.watch j with st := .ready, readyAt := none } ∨
    t.watch j = { s.watch j with st := .issuing, readyAt := none }) ∧
  (∀ i, i < 4 → (s.coreAt n).issuing = none → (∀ j, j < 4 → (s.watch (n * 4 + j)).gang = none) →
    let turn := fun (j : Nat) => (j + 3 - (s.coreAt n).lastWid % 4) % 4
    let up := fun (j : Nat) => n * 4 + j ∈ Woken s n ∨ (s.watch (n * 4 + j)).st = .ready
    up i → (∀ j, j < 4 → up j → turn i ≤ turn j) → (t.watch (n * 4 + i)).st = .issuing ∧ (t.coreAt n).issuing = some i)

end Sys2Proof.Claims

/-- `markerRelease` and `pauseExpiry` (R60 to R63, R148, R381). The release of a calm region's marker: latches and timed ports are zero,
nothing is in flight, each parked unit's port has the result of its last trigger and `pst` the status of the last trigger of all, and the
watch is READY, or PAUSED for a pause's count. At a `tret` the interrupted image is back, what is due by its
slot landed, and issue goes on at `tnext` in user mode. A marker
whose results have not come is not released. A pause ends at its count and not before, with every watch of its core whose wait is over. -/
def Obligations.MarkerRelease : Prop :=
  (∀ s k, subjectOf s = k → s.ceWaits = [] → (s.watch k).gang = none → (s.watch k).settled = false → exec .markerRelease s = .next s) ∧
  (∀ s k, Released s k .marker → Calm (s.watch k) → (s.watch k).cancelled = false →
    let w := s.watch k
    ∃ t, exec .markerRelease s = .next t ∧ t.mem = s.mem ∧ OthersKept s t [k] ∧
      let v := t.watch k
      (if w.pauseCnt = 0 then v.st = .ready ∨ v.st = .issuing else v.st = .paused ∧ v.pauseEnd = s.cycles + w.pauseCnt) ∧
      v.pc = w.pc ∧ v.windows = w.windows ∧ v.g = w.g ∧
      v.img.latch = .replicate 28 0 ∧ v.img.vlatch = .replicate 4 0 ∧ v.img.tport = .replicate 5 0 ∧ v.img.vport = .replicate 3 0 ∧
      v.img.flights = [] ∧ v.img.results = [] ∧ v.img.waits = [] ∧ v.img.regs = [] ∧ v.loads = [] ∧
      (w.img.results = [] → v.img.pport = w.img.pport ∧ v.img.pst = w.img.pst) ∧
      ((w.img.results.map (·.ord)).Nodup → (∀ r ∈ w.img.results, 7 ≤ unitNo r.unit) → ∀ r ∈ w.img.results,
        ((∀ q ∈ w.img.results, q.ord ≤ r.ord) → v.img.pst = BitVec.ofNat 64 r.st) ∧
        ((∀ q ∈ w.img.results, q.unit = r.unit → q.ord ≤ r.ord) → v.img.pport[unitNo r.unit - 7]? = some r.val))) ∧
  (∀ s k, Released s k .tret → Calm (s.watch k) → (s.watch k).abn = false → (s.watch k).marker = false →
    (s.watch k).savedAfter = .marker → (s.watch k).faultsDue = false →
    let m := (s.watch k).saved.getD Image.fresh
    ∃ t, exec .markerRelease s = .next t ∧ t.mem = s.mem ∧ OthersKept s t [k] ∧
      let v := t.watch k
      (v.st = .ready ∨ v.st = .issuing) ∧ v.hm = false ∧ v.saved = none ∧ v.img.latch = m.latch ∧ v.img.pport = m.pport ∧
      v.img.loops = m.loops ∧ v.img.waits = m.waits ∧ v.img.slot = m.slot ∧ v.img.faults = m.faults ∧
      v.img.flights = m.flights.filter (fun f => !(f.due ≤ m.slot)) ∧ ((∀ f ∈ m.flights, m.slot < f.due) → v.img = m) ∧
      ((s.watch k).img.csrs = [] → v.pc = (s.watch k).tnext)) ∧
  (∀ s k, subjectOf s = k → (s.watch k).gang = none → (s.watch k).st = .paused →
    (s.cycles < (s.watch k).pauseEnd → exec .pauseExpiry s = .next s) ∧
    (s.live (s.watch k).part = true → (s.watch k).pauseEnd ≤ s.cycles → k ∈ Woken s (k / 4) ∧
      ∃ t, exec .pauseExpiry s = .next t ∧ Wakes s t (k / 4)))

/-- What lands between words (R58, R59, R62, R99, R113). `resultLanding`: results due by the slot stand in their ports, the others stay in
flight. `loadDeliver`: a load whose bytes have come is written to its register, extended as its word says, over an earlier load to it; a
v register takes the byte lanes that no later write has taken. `fetchFill`: the line that holds the next word, or the one after, is in the
fetch buffer with its bytes, in place of the oldest of four (logs 9, 48), but for a task's own slot. A neighbour read in flight holds the
results of its slot. `loopPassEnd`: the pass that the
body's last word closed ends: the count goes down and the body repeats, in its core's loop buffer, which a displaced body enters again
(log 60), or the level ends. -/
def Obligations.Landings : Prop :=
  (∀ s k r, subjectOf s = k → (s.watch k).gang = none → (s.watch k).nbr = some r → r.done = false → exec .resultLanding s = .next s) ∧
  (∀ s k f, subjectOf s = k → (s.watch k).gang = none → (s.watch k).st = .issuing → (s.watch k).fpTrap = none →
    (∀ r, (s.watch k).nbr = some r → r.done = true) →
    let w := s.watch k
    w.img.flights = [f] → f.xd = none → f.q = none → f.fl = 0 →
    (f.due ≤ w.img.slot → ∃ t, exec .resultLanding s = .next t ∧ t.mem = s.mem ∧ (t.watch k).x = w.x ∧ (t.watch k).fst = w.fst ∧
      (t.watch k).img.flights = [] ∧
      (unitNo f.unit < 5 → (t.watch k).img.tport = w.img.tport.setIfInBounds (unitNo f.unit) f.val) ∧
      (f.unit = .va → (t.watch k).img.vport = w.img.vport.setIfInBounds 0 f.vec)) ∧
    (w.img.slot < f.due → ∃ t, exec .resultLanding s = .next t ∧ (t.watch k).img.flights = [f] ∧
      (t.watch k).img.tport = w.img.tport ∧ (t.watch k).img.vport = w.img.vport)) ∧
  (∀ s k l, subjectOf s = k → (s.watch k).loads[s.opnd.c]? = some l →
    let w := s.watch k
    (l.need ≠ 0 → exec .loadDeliver s = .next s) ∧
    (∀ r, l.need = 0 → l.reg = .x r → r ≠ 0 → (∀ q ∈ w.loads, q = l ∨ l.ord ≤ q.ord) → w.img.flights = [] →
      exec .loadDeliver s = .next (s.onWatch k fun w => { w with
        loads := w.loads.erase l
        x := w.x.setIfInBounds r.val (if l.signed then sextN (l.raw.setWidth 64) (8 * l.size) else zextN (l.raw.setWidth 64) (8 * l.size)) })) ∧
    (∀ r, l.need = 0 → l.reg = .v r → (∀ q ∈ w.loads, q = l ∨ l.ord ≤ q.ord) →
      exec .loadDeliver s = .next (s.onWatch k fun w => { w with
        loads := w.loads.erase l, v := w.v.setIfInBounds r.val (blend l.lanes (w.vRead r.val) l.raw) }))) ∧
  (∀ s k, subjectOf s = k →
    let va := (s.watch k).pc.toNat + 64 * (s.opnd.c % 2)
    (∀ h, s.loopHalf k va = some h → exec .fetchFill s = .next s) ∧
    (∀ l, s.buffered k va = some l → exec .fetchFill s = .next s) ∧
    (∀ c, s.buffered k va = none → s.fetchLine k va = .error c → exec .fetchFill s = .next s) ∧
    (∀ l z, s.loopHalf k va = none → s.buffered k va = none → s.fetchLine k va = .ok (l, z) →
      exec .fetchFill s = .next (if inWindow va then z else z.onCore (k / 4) fun c =>
        { c with fetch := (c.fetch ++ [(⟨va / 64, l⟩ : FetchLine)]).drop (c.fetch.length - 3) }))) ∧
  (∀ s k p l t, subjectOf s = k → (s.watch k).gang = none → (s.watch k).passDue = some p → (s.watch k).img.loops = l :: t →
    (∀ x ∈ t, x.last ≠ p) →
    (l.last ≠ p → exec .loopPassEnd s = .next (s.onWatch k fun w => { w with passDue := none })) ∧
    (l.last = p → l.count = 1 → exec .loopPassEnd s = .next (s.onWatch k fun w =>
      { w with passDue := none, img := { w.img with loops := t } })) ∧
    (l.last = p → l.count ≠ 1 → exec .loopPassEnd s = .next (
      let z := s.onWatch k fun w =>
        { w with passDue := none, pc := l.first, img := { w.img with loops := { l with count := l.count - 1 } :: t } }
      if l.first = (s.watch k).pc then z else z.refill k)))

/-- How a task comes to a watch (R20, R23, R40, R119, R120, R122). `indexPlacement`: the next cursor of a launch takes the lowest free slot (log 9) of
its core, unless a message for the core waits in the overflow area (R130). `taskDispatch`: the selected entry goes to the FREE watch of lowest wid, with its arguments in x1 to x4, a task's slot in `mp`,
52 beads, `fst` 0, a fresh image and its lineage; the watch is READY six cycles on (`watchReady`), and not before, with every watch of its core
whose wait is over. The entry
selected is first by class, as its wait has raised it, then by age, then by slot; `agingStep` writes that class: one more for every 4,096
ticks waited. -/
def Obligations.Dispatch : Prop :=
  (∀ (s : State) q e i, s.part? s.opnd.a = some q → s.opnd.c ≠ 1 →
    let v := q.launchAt s.opnd.b
    let d : Desc := v.desc
    s.live s.opnd.a = true → v.toPlace.find? (fun e => (s.slotFor e.1).isSome) = some e → s.slotFor e.1 = some i →
    (∀ m ∈ (s.boardAt (boardOf e.1)).overflow, m.dcore ≠ e.1) ∧ (s.coreAt e.1).freeSlot = some i ∧
    ∃ t q' c, exec .indexPlacement s = .next t ∧ t.mem = s.mem ∧ (t.coreAt e.1).slot i = .cursor c e.2.1 e.2.2.1 e.2.2.2 ∧
      c.handler = d.handler ∧ c.args = #v[d.word 1, d.word 2, d.word 3, d.word 4] ∧ c.cls = bits (d.word 5) 35 34 ∧
      c.part = s.opnd.a ∧ c.launch = s.opnd.b ∧
      t.part? s.opnd.a = some q' ∧ (q'.launchAt s.opnd.b).toPlace = v.toPlace.erase e ∧
      (q'.launchAt s.opnd.b).counter = v.counter ∧ ∀ j, t.watch j = s.watch j) ∧
  (∀ (s : State) wid i u, wid < 4 →
    let n := s.opnd.a
    let c := s.coreAt n
    let k := n * 4 + wid
    (c.watch wid).st = .free → (c.watch wid).readyAt = none → (∀ j, j < wid → (c.watch j).st ≠ .free ∨ (c.watch j).readyAt ≠ none) →
    s.chosen n = some (i, u) → (∃ u0, c.slot i = .queued u0) → u.kind ≠ .wake → s.live u.part = true → c.gated = false →
    ∃ t, exec .taskDispatch s = .next t ∧ t.mem = s.mem ∧ (∀ j, j ≠ k → t.watch j = s.watch j) ∧
      (t.coreAt n).slot i = .running u ∧
      let w := t.watch k
      (∀ j, j < 4 → w.xRead (j + 1) = Vector.at0 u.args j) ∧ w.pc = u.handler ∧ w.part = u.part ∧ w.launch = u.launch ∧
      w.lnch = handleOf u.launch u.gen ∧ w.slotNo = i ∧ w.bc = 52 ∧ w.fst = 0 ∧ w.st = .free ∧ w.readyAt = some (s.cycles + 6) ∧
      w.mp = (if u.kind = .index ∨ u.kind = .notify then 0 else slotVa n i) ∧ w.hm = false ∧ w.gang = none ∧
      w.img.latch = .replicate 28 0 ∧ w.img.tport = .replicate 5 0 ∧ w.img.loops = [] ∧ w.windows = [⟨4, .replicate 16 none, false⟩]) ∧
  (∀ s k, subjectOf s = k → ∀ t, (s.watch k).readyAt = some t →
    (s.cycles < t → exec .watchReady s = .next s) ∧
    (t ≤ s.cycles → s.live (s.watch k).part = true → (s.watch k).gang = none → k ∈ Woken s (k / 4) ∧
      ∃ t, exec .watchReady s = .next t ∧ Wakes s t (k / 4))) ∧
  (∀ (s : State) n i u e t, s.chosen n = some (i, u) → e ∈ (s.coreAt n).slots → s.eligible n e.2 = some t →
    let c := max t.cls (min 3 (t.cls + ((s.bell - t.sinceB) / 4096 - t.steps)))
    c < u.cls ∨ (c = u.cls ∧ (u.sinceC < t.sinceC ∨ (u.sinceC = t.sinceC ∧ i ≤ e.1)))) ∧
  (∀ (s : State) u, (s.coreAt s.opnd.a).slot s.opnd.b = .queued u → exec .agingStep s = .next (s.onCore s.opnd.a fun c =>
    let n := (s.bell - u.sinceB) / 4096
    c.setSlot s.opnd.b (.queued { u with steps := max u.steps n, cls := max u.cls (min 3 (u.cls + (n - u.steps))) })))

/-- `watchFree` (R21, R25, R146, R147, R382, R424), the watch calm and in no gang: after `done` its slot is FREE, its watch FREE,
and its launch counts one less; after `reque` its slot holds the task again with the arguments kept and the launch counts on;
after `idle` the task is abandoned as at `done`, once what it issued, in the handler and before, has been carried out, and not before. What
the task stored has been performed when its launch counts it: first the watch's stores are, and while one of its core's is still on its way
nothing more happens (log 65). -/
def Obligations.TaskEnd : Prop :=
  ∀ (s : State) (k : Nat) (a : After), Released s k a →
    (a = .idle → Calm (s.watch k) → Quiet s (k / 4) → (((s.watch k).saved.map (·.waits)).getD [] ≠ [] ∨ (s.watch k).path ≠ []) →
      ∀ u q, (s.coreAt (k / 4)).slot (s.watch k).slotNo = .running u → s.part? (s.watch k).part = some q →
        ∃ t, exec .watchFree s = .next t ∧ OthersKept s t [k] ∧ (t.watch k).st = .parked ∧
          (t.watch k).after = .idle ∧ (t.watch k).saved = (s.watch k).saved ∧
          (t.coreAt (k / 4)).slot (s.watch k).slotNo = .running u ∧ t.part? (s.watch k).part = some q) ∧
    let z := if a = .idle then s else s.settleWatch k
    let w := z.watch k
    let c := z.coreAt (k / 4)
    ((a = .done ∨ a = .reque) → z.storesGone k = false → exec .watchFree s = .next z) ∧
    ∀ q u, Calm w → w.gang = none → z.part? w.part = some q → c.slot w.slotNo = .running u → u.part = w.part → u.launch = w.launch →
      w.claim = 0 → w.pins = [] → w.taken = [] →
      ((a = .done ∧ z.storesGone k = true) ∨
        (a = .idle ∧ Quiet s (k / 4) ∧ w.path = [] ∧ (w.saved.map (·.waits)).getD [] = [] ∧ w.appended = []) ∨
        (a = .reque ∧ z.storesGone k = true ∧ w.cancelled = false ∧ w.abn = false ∧
          z.noticed u.part (k / 4) u.launch u.gen = false)) →
      ∃ t q', exec .watchFree s = .next t ∧ OthersKept z t [k] ∧ (t.watch k).st = .free ∧ (t.watch k).readyAt = none ∧
        (t.watch k).windows = [⟨4, .replicate 16 none, false⟩] ∧ (t.watch k).img = Image.fresh ∧ (t.watch k).hm = false ∧
        t.part? w.part = some q' ∧
        (a ≠ .reque → (t.coreAt (k / 4)).slot w.slotNo = .free ∧ (q'.launchAt w.launch).counter = (q.launchAt w.launch).counter - 1) ∧
        (a = .reque → (q'.launchAt w.launch).counter = (q.launchAt w.launch).counter ∧
          ∃ v, (t.coreAt (k / 4)).slot w.slotNo = .queued v ∧ v.args = w.rargs ∧ v.handler = u.handler ∧ v.cls = u.cls0 ∧
            v.part = u.part ∧ v.launch = u.launch)

/-- Gangs and neighbour reads (R194, R195, R199, R210). `gangForm`: when every core of the claimed span holds a calm `gfollow` watch and the
claim is the first of each, those watches are the gang, in rising position, issuing at the leader's place. `markerRelease` at the `gend` of
a calm gang dissolves it: the leader goes on behind it, a follower behind its `gfollow`. `nbrServed`: the watch asked, READY or ISSUING
and lending the register within `nbt` cycles of the trigger, answers with it and all ones; `nbrTimeout`: after them, or in the last of
them where it does not lend, the answer is zero and zero. -/
def Obligations.Gangs : Prop :=
  (∀ (s : State) k ks, subjectOf s = k →
    let w := s.watch k
    let span := (List.range w.claim).map fun i => rodCore (rodOf (k / 4)) (posOf (k / 4) + i)
    w.settled = true → w.after = .glead → w.gang = none → (w.cancelled = false ∨ w.hm = true) → s.live w.part = true → posOf (k / 4) + w.claim ≤ 32 →
    (∀ c ∈ span, (s.coreAt c).claims.head? = some k ∧ (s.coreAt c).gated = false ∧ ∀ i, i < 4 → (s.watch (c * 4 + i)).gang = none) →
    span.mapM (s.recruit k) = some ks → (∀ j ∈ ks, Calm (s.watch j) ∧ (s.watch j).pauseCnt = 0) →
    ∃ t, exec .gangForm s = .next t ∧ t.mem = s.mem ∧ OthersKept s t ks ∧ ∀ i j, ks[i]? = some j →
      (t.watch j).gang = some k ∧ (t.watch j).gp = i ∧ (t.watch j).gs = ks.length ∧ (t.watch j).pc = w.pc ∧
      ((t.watch j).st = .ready ∨ (t.watch j).st = .issuing) ∧ (t.watch j).img.loops = w.img.loops) ∧
  (∀ (s : State) k ks, subjectOf s = k → s.ceWaits = [] → s.members k = ks → ks.head? = some k → ks.Nodup →
    s.live (s.watch k).part = true → (s.watch k).after = .gend →
    (∀ j ∈ ks, (s.watch j).settled = true ∧ Calm (s.watch j) ∧ (s.watch j).gang = some k ∧ (s.watch j).pauseCnt = 0 ∧
      (s.watch j).cancelled = false ∧ (s.coreAt (j / 4)).gated = false) →
    ∃ t, exec .markerRelease s = .next t ∧ t.mem = s.mem ∧ OthersKept s t ks ∧ ∀ j ∈ ks,
      (t.watch j).gang = none ∧ (t.watch j).gs = 1 ∧ (t.watch j).gp = 0 ∧
      ((t.watch j).st = .ready ∨ (t.watch j).st = .issuing) ∧
      (t.watch j).pc = (if j = k then (s.watch j).pc else (s.watch j).fpc) ∧
      (t.watch j).img.loops = (if j = k then (s.watch j).img.loops else (s.watch j).floops)) ∧
  (∀ (s : State) k r l (f : Flight), subjectOf s = k → (s.watch k).nbr = some r → r.done = false → s.live (s.watch k).part = true →
    (s.watch k).img.flights = l ++ [f] → f.unit = .vx →
    let other := s.watch (r.core * 4 + r.wid)
    let answered := fun (v q : Vec) => s.onWatch k fun (w : Watch) => { w with
      nbr := some { r with done := true }, img := { w.img with flights := l ++ [{ f with vec := v, q := some q }] } }
    let last := r.since + (s.watch k).nbt.toNat
    ((other.st = .ready ∨ other.st = .issuing) → other.nlend.getLsbD r.vreg = true → s.cycles ≤ last →
      exec .nbrServed s = .next (answered (other.vRead r.vreg) (BitVec.allOnes 256))) ∧
    (other.st = .parked ∨ other.nlend.getLsbD r.vreg = false ∨ last < s.cycles → exec .nbrServed s = .next s) ∧
    (last < s.cycles ∨ (last = s.cycles ∧ (other.st = .parked ∨ other.nlend.getLsbD r.vreg = false)) →
      exec .nbrTimeout s = .next (answered 0 0)) ∧
    (s.cycles < last → exec .nbrTimeout s = .next s))

/-! ### Messages on arrival, memory on its way, banks, keeping memory -/

namespace Sys2Proof.Claims
open Sys2Proof.Machine

/-- A message that has come to its core's router, the first of its pair among messages and deposits, of a running partition, that no
cancel notice has reached at its core (R32, R41). -/
structure Arrives (s : State) (l : List Msg) (m : Msg) : Prop where
  place : l[s.opnd.a]? = some m
  router : m.router = boardOf m.dcore ∧ m.since ≤ s.cycles
  first : ∀ x ∈ s.msgs ++ s.deposits, x.score = m.score → x.dcore = m.dcore → m.ticket ≤ x.ticket
  live : s.live m.part = true
  wanted : s.noticed m.part m.dcore m.launch m.gen = false

/-- The sender's watch after the status of its message has come (R126). -/
def answered (s : State) (m : Msg) (st : Nat) : Watch :=
  resolved (s.watch m.watch) m.ticket ⟨m.ord, .ms, BitVec.ofNat 64 m.seq, st, 0, 0⟩

/-- A message stands in a slot of its core, queued with the entry of its kind (R120 to R122). -/
def InSlot (s t : State) (m : Msg) (i : Nat) : Prop :=
  (t.coreAt m.dcore).slot i = .queued (s.entryOf m i) ∧
    (m.kind ≠ 5 → ∀ j, j < 8 → t.homeWord (slotPa m.dcore i + 8 * j) = m.word j)

/-- A line that needs no fill: its slice holds it and it is not in miss, or no slice is its home (R350, R353, R356). -/
def Ready (s : State) (line : Nat) : Prop :=
  s.sliced (line * 64) = false ∨ (s.inMiss line = false ∧ (s.tag? line).isSome = true)

/-- A watch whose region no longer waits for a ticket. -/
def unasked (w : Watch) (t : Nat) : Watch := { w with img := { w.img with waits := w.img.waits.filter (·.1 ≠ t) } }

/-- A deposit is the next thing to reach its object's home, of a running partition none of whose windows is due; its sender waits for it. -/
structure Reaches (s : State) (m : Msg) : Prop where
  place : s.deposits[s.opnd.a]? = some m
  kind : m.kind = 4
  router : m.router = boardOf m.dcore ∧ m.since ≤ s.cycles
  first : ∀ x ∈ s.msgs ++ s.deposits, x.score = m.score → x.dcore = m.dcore → m.ticket ≤ x.ticket
  live : s.live m.part = true
  window : s.windowDue m.part = false
  sender : (s.watch m.watch).img.holds m.ticket = true
/-- The home applies it: no hold stands on its object, and the record takes its slot (R134, R135). -/
structure Applies (s : State) (m : Msg) (u : TypeEnt) : Prop extends Reaches s m where
  free : s.holding m.part (m.word 1) = false
  type : s.typeOf m.part m.type = some u
  record : s.recordOk (m.word 1) u = true
  open' : (s.record (m.word 1) 0).getLsbD (16 + m.slot) = false
  slot : m.slot < u.slots
  half : m.aux % 2 = 1 → u.size = 64
/-- The new value of a lane that a deposit of a kind makes of the old one and its own, with damping `k` (R135). -/
def Deposited (kind k old own new : Nat) : Prop :=
  let f := fun (o : VaOp) (a b : Nat) => vaFloat o .w32 23 .rne a 0 b
  match kind with
  | 0 => new = own
  | 1 => new = f .add old (f .mul (f .sub own old) ((127 - k) * 2 ^ 23))
  | 2 => new = f .add old own
  | _ => True
/-- A deposit asks for a wake, and no cancel notice of its lineage has reached its host core (R33, R123, R135). -/
def Awakes (s : State) (m : Msg) : Prop := m.wake = true ∧ s.noticed m.part (oidCore (m.word 1)) m.launch m.gen = false
/-- The wake entry of a deposit, as it waits (R123, R124). -/
def WakeEntry (m x : Msg) : Prop :=
  x.kind = 5 ∧ x.word 1 = m.word 1 ∧ x.pcls = m.rcls ∧ x.rcls = 0 ∧ x.type = m.type ∧ x.dcore = m.dcore ∧ x.part = m.part ∧
    x.launch = m.launch ∧ x.gen = m.gen

end Sys2Proof.Claims

/-- `messageAccept`, `overflowTimeout`, `overflowDrain` and `wakeRetry` (R10 to R12, R32, R41, R120, R130, R131, R388), once the messages
on the mesh have gone on as far as their routers have places, one hop each whose time has come (log 29). With nothing for its core in the overflow
area, a message takes the lowest free slot (log 9) and its sender has OK; without one it waits in its router, after 1,024 cycles takes a
place in the overflow area, and without room there is REFUSED and no longer counted. Behind others in the overflow area it joins them, or is
REFUSED. A freed slot takes the oldest overflow message of its
core, while its partition runs. A wake entry is offered again every 1,024 cycles, and never
refused. -/
def Obligations.Arrivals : Prop :=
  (∀ (s : State), ∃ l d, s.mesh = { s with msgs := l, deposits := d } ∧
    let place := fun (x : Msg) => { x with router := 0, since := 0 }
    l.map place = s.msgs.map place ∧ d.map place = s.deposits.map place ∧
    (s.msgs.length ≤ s.opnd.a → exec .messageAccept s = .next s.mesh)) ∧
  (∀ (z : State) m, let s := z.mesh; Arrives s s.msgs m → m.kind < 4 → (s.watch m.watch).img.holds m.ticket = true →
    let c := m.dcore
    let b := s.boardAt (boardOf c)
    let behind := ∃ x ∈ b.overflow, x.dcore = c
    let refused := fun (t : State) => t.msgs = s.msgs.erase m ∧ t.watch m.watch = answered s m 1 ∧ t.mem = s.mem ∧
      (∀ p, s.part? m.part = some p → ∃ q, t.part? m.part = some q ∧
        (q.launchAt m.launch).counter = (p.launchAt m.launch).counter - 1)
    let spilled := fun (t : State) => t.msgs = s.msgs.erase m ∧ t.watch m.watch = answered s m 0 ∧ t.mem = s.mem ∧
      (t.boardAt (boardOf c)).overflow = b.overflow ++ [m]
    let late := m.since + 1024 ≤ s.cycles
    (∀ i, ¬behind → (s.coreAt c).freeSlot = some i →
      ∃ t, exec .messageAccept z = .next t ∧ t.msgs = s.msgs.erase m ∧ t.watch m.watch = answered s m 0 ∧ InSlot s t m i ∧
        (t.coreAt c).rcvd = ((s.coreAt c).rcvd + 1) % 2 ^ 32) ∧
    (¬behind → (s.coreAt c).freeSlot = none → exec .messageAccept z = .next s ∧
      (late → s.overflowRoom m = true → ∃ t, exec .overflowTimeout z = .next t ∧ spilled t) ∧
      (late → s.overflowRoom m = false → ∃ t, exec .overflowTimeout z = .next t ∧ refused t)) ∧
    (behind → s.overflowRoom m = true → ∃ t, exec .messageAccept z = .next t ∧ spilled t) ∧
    (behind → s.overflowRoom m = false → ∃ t, exec .messageAccept z = .next t ∧ refused t) ∧
    (¬late → exec .overflowTimeout z = .next s)) ∧
  (∀ (s : State) m i, (s.boardAt (boardOf s.opnd.a)).overflow.find? (·.dcore = s.opnd.a) = some m →
    (s.coreAt s.opnd.a).freeSlot = some i → (s.live m.part = false → exec .overflowDrain s = .next s) ∧
    (s.live m.part = true → ∃ t, exec .overflowDrain s = .next t ∧
      (t.boardAt (boardOf s.opnd.a)).overflow = (s.boardAt (boardOf s.opnd.a)).overflow.erase m ∧ InSlot s t m i ∧
      ∀ j, t.watch j = s.watch j)) ∧
  (∀ (s : State) m, s.wakes[s.opnd.a]? = some m → s.live m.part = true →
    let b := s.boardAt (boardOf m.dcore)
    (s.cycles < m.since + 1024 → exec .wakeRetry s = .next s) ∧
    (m.since + 1024 ≤ s.cycles →
      (∀ i, (∀ x ∈ b.overflow, x.dcore ≠ m.dcore) → (s.coreAt m.dcore).freeSlot = some i → ∃ t, exec .wakeRetry s = .next t ∧
        t.wakes = s.wakes.erase m ∧ InSlot s t m i) ∧
      ((s.coreAt m.dcore).freeSlot = none → s.overflowRoom m = false → ∃ t, exec .wakeRetry s = .next t ∧
        t.wakes = s.wakes.map (fun x => if x = m then { m with since := s.cycles } else x) ∧ t.msgs = s.msgs)))

/-- `depositApply` (R33, R134, R135, R340), every deposit that no window end holds back. To a type that is not installed it is DROPPED (log 62). To
a slot that is retired, or a record outside unlocked PAD banks, it is dropped. Else a REPLACE stands in the slot or its half; each lane of a damped
one moves by its share towards the deposit's, each of an add takes the sum, in binary32; a retiring one zeroes and marks its slot; every deposit
sets the slot's dirty bit, counts one and keeps the greatest residual, and its type's convergence register counts it. Its launch
counts one less, unless a new wake entry counts on in its place. Under a hold of its object it waits with every SNAP that holds it, with its
sender answered, while the home has fewer than 1,024 such. Its core counts each as received (R384). -/
def Sys2Proof.Claims.PlainDeposits : Prop :=
  ∀ (z : State) m, let s := z.mesh
    let o := m.word 1
    let counted := fun (t : State) => (t.coreAt m.dcore).rcvd = ((s.coreAt m.dcore).rcvd + 1) % 2 ^ 32
    let done := fun (st : Nat) => resolved (s.watch m.watch) m.ticket ⟨m.ord, .ms, 0, st, 0, 0⟩
    (s.deposits[s.opnd.a]? = some m → s.windowDue m.part = true → exec .depositApply z = .next s) ∧
    (Reaches s m → s.holding m.part o = true →
      let kept := ((s.snaps.flatMap (·.deferred)).eraseDups.filter fun x => oidBoard (x.word 1) = oidBoard o).length
      (1024 ≤ kept → exec .depositApply z = .next s) ∧
      (kept < 1024 → ∃ t, exec .depositApply z = .next t ∧
        t.mem = s.mem ∧ t.deposits = s.deposits.erase m ∧ counted t ∧ t.watch m.watch = done 0 ∧
        t.snaps = s.snaps.map fun n =>
          if (n.held = true ∨ n.t ≤ s.bell) ∧ n.part = m.part ∧ o ∈ n.ids then { n with deferred := n.deferred ++ [m] } else n)) ∧
    (Reaches s m → s.holding m.part o = false → s.typeOf m.part m.type = none → ∃ t, exec .depositApply z = .next t ∧ t.mem = s.mem ∧
      t.deposits = s.deposits.erase m ∧ counted t ∧ t.watch m.watch = done 4) ∧
    (∀ u, Reaches s m → s.holding m.part o = false → s.typeOf m.part m.type = some u →
      (s.recordOk o u = false ∨ (s.record o 0).getLsbD (16 + m.slot) = true) → Still s → ∃ t, exec .depositApply z = .next t ∧
        t.deposits = s.deposits.erase m ∧ counted t ∧ t.watch m.watch = done 4) ∧
    (∀ u, Applies s m u →
      let at' := storeAddr (oidBoard o) (oidOff o + 64 + m.slot * u.size)
      let r := m.word 6 &&& 0x7FFFFFFFFFFFFFFF
      let lanes := if u.size = 16 then 4 else 8
      let lane := fun (j : Nat) => at' + (if m.aux % 2 = 1 then 32 else 0) + 4 * j
      let fresh := Awakes s m ∧ (s.record o 0).getLsbD 0 = false
      ∃ t, exec .depositApply z = .next t ∧ t.deposits = s.deposits.erase m ∧ counted t ∧ t.watch m.watch = done 0 ∧
        t.record o 1 = s.record o 1 ||| BitVec.ofNat 64 (2 ^ m.slot) ∧ t.record o 3 = s.record o 3 + 1 ∧
        t.record o 2 = (if ((s.record o 2) &&& 0x7FFFFFFFFFFFFFFF).toNat < r.toNat then r else s.record o 2) ∧
        (∀ i, i < 64 → (t.record o 0).getLsbD i =
          ((s.record o 0).getLsbD i || decide (m.dkind = 3 ∧ i = 16 + m.slot) || (decide (i = 0) && m.wake &&
            !s.noticed m.part (oidCore o) m.launch m.gen))) ∧
        (m.dkind ≠ 3 → ∀ j, j < lanes →
          Deposited m.dkind u.damp (s.homeNat (lane j) 4) ((m.word (2 + j / 2)).toNat / 2 ^ (32 * (j % 2)) % 2 ^ 32) (t.homeNat (lane j) 4)) ∧
        (m.dkind = 3 → ∀ j, j < u.size → t.home (at' + j) = 0) ∧
        (let c := (s.boardAt (oidBoard o)).conv.get ⟨0, 0⟩ (m.part * 8 + u.cvr)
         u.feeds = true → (t.boardAt (oidBoard o)).conv.get ⟨0, 0⟩ (m.part * 8 + u.cvr) =
           ⟨c.count + 1, if c.maxres.toNat < r.toNat then r else c.maxres⟩) ∧
        (∀ p, s.part? m.part = some p → ∃ q, t.part? m.part = some q ∧
          (fresh → (q.launchAt m.launch).counter = (p.launchAt m.launch).counter) ∧
          (¬fresh → (q.launchAt m.launch).counter = (p.launchAt m.launch).counter - 1)))

/-- `depositApply` of a deposit that wakes (R33, R120, R123, R124, R130, R131, R135): where the object's pending bit is clear it is set, and
its host core queues a wake entry, whose class is the deposit's residual class, in the lowest free slot (log 9); where the core has
messages in the overflow area or no free slot, the entry joins the overflow area at once (log 62), and without room it is kept
to be offered again. Where the bit is set, the class of the entry that stands queued, in a slot, the overflow area or at the home, becomes the
greater of its own and the deposit's. A deposit of a lineage whose cancel notice has come wakes nothing. -/
def Sys2Proof.Claims.WakeDeposits : Prop :=
  ∀ (z : State) m u, let s := z.mesh
    Applies s m u →
    let o := m.word 1
    let n := oidCore o
    let b := oidBoard o
    let pending := (s.record o 0).getLsbD 0
    let kept := fun (t : State) => (t.coreAt n).slots = (s.coreAt n).slots ∧ t.wakes = s.wakes ∧ (t.boardAt b).overflow = (s.boardAt b).overflow
    (¬Awakes s m → m.dcore = n → ∃ t, exec .depositApply z = .next t ∧ kept t) ∧
    (Awakes s m → pending = false → m.dcore = n →
      let behind := ∃ x ∈ (s.boardAt b).overflow, x.dcore = n
      (∀ i, ¬behind → (s.coreAt n).freeSlot = some i → ∃ t v, exec .depositApply z = .next t ∧ (t.record o 0).getLsbD 0 = true ∧
        (t.coreAt n).slot i = .queued v ∧ v.kind = .wake ∧ v.oid = o ∧ v.cls = m.rcls ∧ v.part = m.part ∧ v.launch = m.launch ∧
        v.gen = m.gen ∧ v.handler = u.handler &&& 0x00FFFFFFFFFFFFFF ∧ v.sinceC = s.cycles ∧ ∀ j, j ≠ i → (t.coreAt n).slot j = (s.coreAt n).slot j) ∧
      ((behind ∨ (s.coreAt n).freeSlot = none) → s.overflowRoom m = true → ∃ t x, exec .depositApply z = .next t ∧
        (t.record o 0).getLsbD 0 = true ∧ (t.boardAt b).overflow = (s.boardAt b).overflow ++ [x] ∧ WakeEntry m x) ∧
      ((behind ∨ (s.coreAt n).freeSlot = none) → s.overflowRoom m = false → ∃ t x, exec .depositApply z = .next t ∧
        (t.record o 0).getLsbD 0 = true ∧ t.wakes = s.wakes ++ [x] ∧ WakeEntry m x ∧ x.since = s.cycles)) ∧
    (Awakes s m → pending = true → ∃ t, exec .depositApply z = .next t ∧ (t.record o 0).getLsbD 0 = true ∧
      (∀ i v, (s.coreAt n).slot i = .queued v → (t.coreAt n).slot i =
        .queued (if v.kind = .wake ∧ v.oid = o then { v with cls := max v.cls m.rcls } else v)) ∧
      (∀ l l' : List Msg, (l = s.wakes ∧ l' = t.wakes) ∨ (l = (s.boardAt b).overflow ∧ l' = (t.boardAt b).overflow) → l'.length = l.length ∧
        ∀ (i : Nat) (x : Msg), l[i]? = some x → ∃ y : Msg, l'[i]? = some y ∧ y.kind = x.kind ∧ y.word 1 = x.word 1 ∧ y.dcore = x.dcore ∧
          (x.kind = 5 → x.word 1 = o → y.pcls = max x.pcls m.rcls) ∧ (¬(x.kind = 5 ∧ x.word 1 = o) → y = x)))

/-- `depositApply`, of deposits that keep the record and of those that wake. -/
def Obligations.Deposits : Prop := PlainDeposits ∧ WakeDeposits

/-- Stores on their way (R269 to R273, R275, R277, R356, R366, R397). `wcbDrain`: a line leaves the core's buffer, sector by sector,
that of a HOST-U page by eight bytes, and unapplied, or is discarded where it lies behind a link that is down (R400). `storeApply`: behind an unapplied store of its board to a byte of
it a store waits; its line in miss, it is recorded there; else its bytes, and no others, change at the home, but for what is read-only of a
notify page (R143). `updateApply`: a board's copy of a line takes the words forwarded to it, but for bytes over which its own core's
unapplied store stands. `storeAck`: a store applied at the home and at every sharer goes, and the region that waits for it goes on.
`missFill`: the line is in miss no more, and no request for it is queued. `tlbWalk`: the board's and the core's buffers translate the address
as the walk does. -/
def Obligations.StoresOnTheWay : Prop :=
  (∀ (s : State) l, (s.coreAt s.opnd.a).wcb.find? (·.line = s.opnd.b) = some l →
    let bytes := l.bytes.filterMap fun e => e.2.map fun b => (e.1, b)
    ∃ t, exec .wcbDrain s = .next t ∧ t.mem = s.mem ∧ (∀ k, t.watch k = s.watch k) ∧
      (t.coreAt s.opnd.a).wcb = (s.coreAt s.opnd.a).wcb.filter (·.line ≠ s.opnd.b) ∧
      t.stores.take s.stores.length = s.stores ∧
      let left := t.stores.drop s.stores.length
      let n := match s.paKind (s.opnd.b * 64) with
        | .host => if l.hostC then 32 else 8
        | _ => 32
      left.map (·.bytes) = (if s.cutOff (s.opnd.b * 64) then [] else sectors n bytes) ∧
      (∀ f ∈ left, f.core = s.opnd.a ∧ f.applied = false ∧ f.atHome = false ∧ f.waits = none ∧ f.nt = false ∧ f.since = s.cycles ∧
        f.hostC = l.hostC) ∧
      ∀ b ∈ sectors n bytes, ∀ x ∈ b, ∀ y ∈ b, x.1 / n = y.1 / n) ∧
  (∀ (s : State) f, s.stores[s.opnd.a]? = some f →
    let line := ((f.bytes.head?).map Prod.fst).getD 0 / 64
    ((∃ g ∈ s.stores.take s.opnd.a, boardOf g.core = boardOf f.core ∧ g.applied = false ∧ ∃ x ∈ g.bytes, ∃ y ∈ f.bytes, x.1 = y.1) →
      exec .storeApply s = .next s) ∧
    ((∀ g ∈ s.stores.take s.opnd.a, boardOf g.core = boardOf f.core → g.applied = false → ∀ x ∈ g.bytes, ∀ y ∈ f.bytes, x.1 ≠ y.1) →
      f.applied = false → (∀ g ∈ s.stores, g.ticket = f.ticket → g = f) → f.atHome = false →
      (s.linkHeld f = true → exec .storeApply s = .next s) ∧
      (s.linkHeld f = false → (s.recordMiss line false (.store f.ticket)).1 = true → ∃ t, exec .storeApply s = .next t ∧ t.mem = s.mem ∧
        t.stores = s.stores.map fun g => if g = f then { g with atHome := true } else g) ∧
      (s.linkHeld f = false → Ready s line → (f.bytes.map Prod.fst).Nodup → ∃ t, exec .storeApply s = .next t ∧
        (f.nt = false ∨ f.waits = none → ∀ k, t.watch k = s.watch k) ∧
        (∀ e ∈ f.bytes, t.home e.1 = if s.pageHeld e.1 then s.home e.1 else e.2) ∧
        (∀ x, (∀ e ∈ f.bytes, e.1 ≠ x) → t.home x = s.home x) ∧ (f.hostC = true → line ∈ t.hostOwned) ∧
        ∃ g ∈ t.stores, g.ticket = f.ticket ∧ g.applied = true)) ∧
    (∃ t, exec .storeAck s = .next t ∧ t.mem = s.mem ∧
      (f.applied = false ∨ f.sharers ≠ [] → t = s) ∧
      (f.applied = true → f.sharers = [] → t.stores = s.stores.erase f ∧ (∀ k, f.waits ≠ some k → t.watch k = s.watch k) ∧
        ∀ k, f.waits = some k → (s.watch k).img.holds f.ticket = true → t.watch k = unasked (s.watch k) f.ticket))) ∧
  (∀ (s : State) u, s.updates[s.opnd.a]? = some u →
    (∀ v ∈ s.updates.take s.opnd.a, v.board = u.board → ∀ x ∈ v.bytes, ∀ y ∈ u.bytes, x.1 ≠ y.1) →
    (u.bytes.map Prod.fst).Nodup →
    let own := fun (a : Nat) => ∃ f ∈ s.stores, boardOf f.core = u.board ∧ f.applied = false ∧ ∃ x ∈ f.bytes, x.1 = a
    ∃ t, exec .updateApply s = .next t ∧ t.mem = s.mem ∧ (∀ k, t.watch k = s.watch k) ∧ t.updates = s.updates.erase u ∧
      ∀ line x, (s.boardAt u.board).way? line = some x → ∃ y, (t.boardAt u.board).way? line = some y ∧ y.pins = x.pins ∧
        ∀ i, i < 64 → (∀ b, (line * 64 + i, b) ∈ u.bytes → ¬own (line * 64 + i) → lineByte y.data i = b) ∧
          ((own (line * 64 + i) ∨ ∀ b, (line * 64 + i, b) ∉ u.bytes) → lineByte y.data i = lineByte x.data i)) ∧
  (∀ (s : State), ∃ t, exec .missFill s = .next t ∧
    (t.sliceAt s.opnd.a).misses = (s.sliceAt s.opnd.a).misses.filter (fun m => m.line ≠ s.opnd.b) ∧
    ((∃ m ∈ (s.sliceAt s.opnd.a).misses, m.line = s.opnd.b) →
      ∀ e ∈ (t.sliceAt s.opnd.a).queue ++ (t.sliceAt s.opnd.a).port, e.1 ≠ s.opnd.b)) ∧
  (∀ (s : State) p q e size, s.partOf s.opnd.a = some p → s.part? p = some q → s.opnd.v.toNat < 2 ^ 56 → 0 < size →
    s.walk s.opnd.v.toNat 4 q.root = some (e, size) →
    ∃ t u, exec .tlbWalk s = .next t ∧ t.mem = s.mem ∧ (∀ k, t.watch k = s.watch k) ∧
      u.pte = e ∧ u.size = size ∧ u.part = p ∧ u.page = s.opnd.v.toNat / size ∧
      u ∈ (t.coreAt s.opnd.a).utlb ∧ u ∈ (t.boardAt (boardOf s.opnd.a)).tlb)

/-- Bank controllers and prefetches (R246, R250 to R253, R256). `bankAccess`: a watch's accesses are served in order; a load of an unlocked PAD or
FIFO bank gives its bytes, or the fault of cause 0x18 over an uncorrectable error, of a WAY bank the fault of cause 0x10, of a locked or KEEP bank that of cause 6; a store to an unlocked PAD bank
stands; an access whose earlier piece has left a fault leaves no other. `fifoReserve` and `fifoTake`: the oldest that waits is served once the tail slot is FREE, the head slot COMPLETE. `modeChange`: a change
answers with the mode before; a FIFO that is not empty answers NOTEMPTY and stays;
a WAY bank waits until the board's stores to its lines have reached their homes. `prefetchDone`: the token is 1 where every line came. -/
def Sys2Proof.Claims.BankServes : Prop :=
  (∀ (s : State) q, s.bankq[s.opnd.a]? = some q →
    let bank := (s.boardAt q.board).bank (q.off / 0x8000)
    let gone := { s with bankq := s.bankq.filter (·.ticket ≠ q.ticket) }
    let fails := fun (c : Nat) (keep : PLoad → Bool) => (stirred gone q.watch).onWatch q.watch fun w =>
      { (if s.failed q.watch q.ord then unasked w q.ticket else faulted w q.ticket ⟨q.ord, c, q.pc, q.va⟩) with loads := w.loads.filter keep }
    ((∃ x ∈ s.bankq.take s.opnd.a, x.watch = q.watch) → exec .bankAccess s = .next s) ∧
    ((∀ x ∈ s.bankq.take s.opnd.a, x.watch ≠ q.watch) → (s.watch q.watch).img.holds q.ticket = true →
      (q.acc = .load →
        (bank.locked = true ∨ bank.mode = 3 → exec .bankAccess s = .next (fails 6 (·.ord ≠ q.ord))) ∧
        (bank.locked = false → bank.mode = 0 → exec .bankAccess s = .next (fails 0x10 (·.ord ≠ q.ord))) ∧
        (bank.locked = false → bank.mode = 1 ∨ bank.mode = 2 → s.errorIn (storeAddr q.board q.off) q.len = true →
          exec .bankAccess s = .next (fails 0x18 (·.ord ≠ q.ord))) ∧
        (bank.locked = false → bank.mode = 1 ∨ bank.mode = 2 → s.errorIn (storeAddr q.board q.off) q.len = false → ∃ t, exec .bankAccess s = .next t ∧ t.mem = s.mem ∧
          t.bankq = gone.bankq ∧ (∀ l, (s.watch q.watch).loads = [l] → l.ord = q.ord → l.need = 1 → l.raw = 0 → q.lo = 0 →
            l.off = 0 → l.size = q.len → q.len ≤ 32 → (t.watch q.watch).loads =
              [{ l with need := 0, raw := vecOf (s.homeBytes (storeAddr q.board q.off) q.len) }]))) ∧
      (∀ bytes masks, q.acc = .store bytes masks →
        let l := mergeAll masks (s.homeBytes (storeAddr q.board q.off) bytes.length) bytes
        (bank.locked = true ∨ bank.mode = 3 → exec .bankAccess s = .next (fails 6 fun _ => true)) ∧
        (bank.locked = false → bank.mode = 0 → exec .bankAccess s = .next (fails 0x10 fun _ => true)) ∧
        (bank.locked = false → bank.mode = 1 → exec .bankAccess s = .next
          (((stirred gone q.watch).putBytes (((List.range l.length).map fun i => storeAddr q.board (q.off + i)).zip l)).onWatch q.watch fun w =>
            unasked w q.ticket))))) ∧
  (∀ (s : State) w l, s.opnd.b < 16 →
    let k := (s.boardAt s.opnd.a).bank s.opnd.b
    (k.pushes = w :: l → (∀ x ∈ k.pushes, x.watch < 16384) → (s.watch w.watch).img.holds w.ticket = true → k.mode = 2 →
      (k.slot k.tail = .free → ∃ t, exec .fifoReserve s = .next t ∧ t.mem = s.mem ∧
        (t.boardAt s.opnd.a).bank s.opnd.b = { k with
          pushes := l, tail := (k.tail + 1) % k.slotCount, slots := k.slots.put .free k.tail (.reserved 0) } ∧
        t.watch w.watch = resolved (s.watch w.watch) w.ticket
          ⟨w.ord, .ls, BitVec.ofNat 64 (w.base + s.opnd.b * 0x8000 + k.tail * k.slotSize), 0, 0, 0⟩) ∧
      (k.slot k.tail ≠ .free → ∃ t, exec .fifoReserve s = .next t ∧ (t.boardAt s.opnd.a).bank s.opnd.b = k)) ∧
    (k.takes = w :: l → k.mode = 2 → (s.watch w.watch).img.holds w.ticket = true →
      (k.slot k.head = .complete → ∃ t, exec .fifoTake s = .next t ∧ t.mem = s.mem ∧
        (t.boardAt s.opnd.a).bank s.opnd.b = { k with
          takes := l, head := (k.head + 1) % k.slotCount, slots := k.slots.put .free k.head (.taken w.watch w.ord) } ∧
        t.watch w.watch = { resolved (s.watch w.watch) w.ticket
            ⟨w.ord, .ls, BitVec.ofNat 64 (w.base + s.opnd.b * 0x8000 + k.head * k.slotSize), 0, 0, 0⟩ with
          taken := (s.watch w.watch).taken ++ [(s.opnd.a, s.opnd.b, k.head)] }) ∧
      (k.slot k.head ≠ .complete → exec .fifoTake s = .next s))) ∧
  (∀ (s : State) q l, s.opnd.b < 16 →
    let k := (s.boardAt s.opnd.a).bank s.opnd.b
    k.changes = q :: l → k.pushes = [] → k.takes = [] → (s.watch q.watch).img.holds q.ticket = true →
    let written := s.stores = [] ∧ s.updates = [] ∧ ∀ i, i < 4 → (s.coreAt (4 * s.opnd.a + i)).wcb = []
    let ends := fun (t : State) (st : Nat) => t.watch q.watch =
      resolved (s.watch q.watch) q.ticket ⟨q.ord, .ls, BitVec.ofNat 64 (k.mode + k.z * 16), st, 0, 0⟩
    (k.mode = 2 → k.slots ≠ [] → ∃ t, exec .modeChange s = .next t ∧ t.mem = s.mem ∧ ends t 12 ∧
      (t.boardAt s.opnd.a).bank s.opnd.b = { k with changes := l }) ∧
    ((k.mode = 1 ∧ q.mode ≠ 1) ∨ (k.mode = 2 ∧ k.slots = []) → ∃ t, exec .modeChange s = .next t ∧ t.mem = s.mem ∧ ends t 0 ∧
      (t.boardAt s.opnd.a).bank s.opnd.b = { k with
        changes := l, mode := q.mode, z := if q.mode = 2 then q.z else 0, slots := [], head := 0, tail := 0 }) ∧
    (k.mode = 0 → q.mode ≠ 0 → (∃ f ∈ s.stores, boardOf f.core = s.opnd.a ∧ f.applied = false ∧ s.linkHeld f = true ∧
      ∃ x ∈ f.bytes, ∃ e ∈ (s.boardAt s.opnd.a).ways, e.2.bank = s.opnd.b ∧ e.1 = x.1 / 64) →
      ∃ t, exec .modeChange s = .next t ∧ (t.boardAt s.opnd.a).bank s.opnd.b = k) ∧
    (k.mode = 0 → q.mode ≠ 0 → written → (∃ e ∈ (s.boardAt s.opnd.a).ways, e.2.bank = s.opnd.b ∧ e.2.pins ≠ []) →
      ∃ t, exec .modeChange s = .next t ∧ t.mem = s.mem ∧ ends t 9 ∧
        ((t.boardAt s.opnd.a).bank s.opnd.b).mode = 0) ∧
    (k.mode = 0 → q.mode ≠ 0 → written → (∀ e ∈ (s.boardAt s.opnd.a).ways, e.2.bank = s.opnd.b → e.2.pins = []) →
      ∃ t, exec .modeChange s = .next t ∧ ends t 0 ∧ ((t.boardAt s.opnd.a).bank s.opnd.b).mode = q.mode ∧
        (∀ e ∈ (t.boardAt s.opnd.a).ways, e.2.bank ≠ s.opnd.b) ∧
        ∀ a, ¬(storeAddr s.opnd.a (s.opnd.b * 0x8000) ≤ a ∧ a < storeAddr s.opnd.a (s.opnd.b * 0x8000) + 0x8000) →
          t.home a = s.home a)) ∧
  (∀ (s : State) q p e size, s.prefetches[s.opnd.a]? = some q → s.part? q.part = some p →
    s.translate (q.core / 4) q.part (q.start.toNat / 64 * 64) = some (e, size) → inWindow (q.start.toNat / 64 * 64) = false →
    pteType e ≠ 1 → pteType e ≠ 4 → s.badPa e (s.paOf q.part e size (q.start.toNat / 64 * 64) false) = false → q.start.toNat % 64 + q.len ≤ 64 → 0 < q.len →
    ∀ c z, q.cell.toNat < 2 ^ 56 → s.walk q.cell.toNat 4 p.root = some (c, z) → pteType c ≠ 1 →
    let a := s.paOf q.part c z q.cell.toNat false
    s.badPa c a = false → s.cutOff a = false → s.behindRetrain a = false → Still s → (∀ i, i < 8 → s.pageHeld (a + i) = false) → ∃ t, exec .prefetchDone s = .next t ∧ t.prefetches = s.prefetches.erase q ∧ t.homeWord a = s.homeWord a + 1 ∧
      ∀ x, (x < a ∨ a + 8 ≤ x) → t.home x = s.home x)

/-- `bankAccess` of a store to an unlocked FIFO bank (R246, R252, R272). Where every byte falls in a RESERVED slot and no slot's count would pass the
slot's size, the bytes stand, each slot's count takes the number of its bytes, and one whose count is its size is COMPLETE. Else the
store is refused whole, with the fault of cause 0x10 at the marker. -/
def Sys2Proof.Claims.FifoStores : Prop :=
  ∀ (s : State) q bytes masks, s.bankq[s.opnd.a]? = some q → q.acc = .store bytes masks →
    (∀ x ∈ s.bankq.take s.opnd.a, x.watch ≠ q.watch) → (s.watch q.watch).img.holds q.ticket = true →
    let n := q.off / 0x8000
    let bank := (s.boardAt q.board).bank n
    bank.locked = false → bank.mode = 2 → n < 16 →
    let l := mergeAll masks (s.homeBytes (storeAddr q.board q.off) bytes.length) bytes
    let inSlot := fun (i : Nat) => ((List.range l.length).filter fun j => (q.off % 0x8000 + j) / bank.slotSize = i).length
    let fits := ∀ i, 0 < inSlot i → ∃ c, bank.slot i = .reserved c ∧ c + inSlot i ≤ bank.slotSize
    (fits → ∃ t, exec .bankAccess s = .next t ∧
      (∀ j, j < l.length → t.home (storeAddr q.board (q.off + j)) = l.getD j 0) ∧
      (∀ x, (∀ j, j < l.length → x ≠ storeAddr q.board (q.off + j)) → t.home x = s.home x) ∧
      (let after := (t.boardAt q.board).bank n
       after.mode = 2 ∧ after.locked = false ∧ after.z = bank.z ∧ after.head = bank.head ∧ after.tail = bank.tail ∧
       ∀ i, (inSlot i = 0 → after.slot i = bank.slot i) ∧
        ∀ c, bank.slot i = .reserved c → 0 < inSlot i →
          after.slot i = if c + inSlot i = bank.slotSize then .complete else .reserved (c + inSlot i)) ∧
      t.watch q.watch = unasked (s.watch q.watch) q.ticket) ∧
    (¬fits → ∃ t, exec .bankAccess s = .next t ∧ t.mem = s.mem ∧ (t.boardAt q.board).bank n = bank ∧
      t.watch q.watch = if s.failed q.watch q.ord then unasked (s.watch q.watch) q.ticket
        else faulted (s.watch q.watch) q.ticket ⟨q.ord, 0x10, q.pc, q.va⟩)

/-- Bank controllers: accesses, stores into reserved slots, waiters, mode changes. -/
def Obligations.BankEvents : Prop := BankServes ∧ FifoStores

/-- Stamped stores at their home (R296, R297, R299 to R301, R307, R310), a store of one whole cell. `keepStoreDecide`: without the writer's
clock the home asks for it, and waits; with it, the values that the clock covers, but for marked ones, give way to the new one with the
store's dot, and loads of the cell see the highest dot; four values that would have to stand refuse it until a retry; the clock it used is the home's most
recently used. `clockPush`: the home caches the clock, in place of the least recently used where it holds as many as it can. `keepRetry`: the store is tried again at its time and not before. -/
def Obligations.KeepingStores : Prop :=
  ∀ (s : State) q pa (b0 b1 b2 b3 : Byte), s.keepq[s.opnd.a]? = some q →
    q.bytes = [(pa, b0), (pa + 1, b1), (pa + 2, b2), (pa + 3, b3)] → pa % 4 = 0 → (∀ x ∈ s.keepq, x.ticket = q.ticket → x = q) →
    q.masks = List.replicate 4 0xFF → q.attach = false → q.atHome = false → (s.watch q.watch).img.holds q.ticket = true →
    let mine := fun (x : CachedClock) => x.home = s.keepHome pa ∧ x.part = q.part ∧ x.region = q.region ∧ x.slot = q.slot ∧ x.gen = q.gen
    let clear := ∀ x ∈ s.keepq, x.watch = q.watch → x.ticket < q.ticket → ∀ b ∈ x.bytes, b.1 < pa ∨ pa + 4 ≤ b.1
    let same := fun (t : State) => t.mem = s.mem ∧ t.cells = s.cells ∧ ∀ k, t.watch k = s.watch k
    let vals := s.cellVals pa
    let new : CellVal := ⟨b3 ++ b2 ++ b1 ++ b0, q.slot, q.cnt, false, false, none⟩
    let stays := fun (c : Tbl Nat) => vals.filter fun v => v.mark = true ∨ c.get 0 v.slot < v.cnt
    let change := fun (f : KeepReq → KeepReq) => { s with keepq := s.keepq.map fun x => if x.ticket = q.ticket then f x else x }
    let home := s.keepHome pa
    let roomy := s.poolUse home + 4 ≤ poolSize home
    (q.wantPush = true ∨ 0 < q.due → exec .keepStoreDecide s = .next s) ∧
    (q.wantPush = false → q.due = 0 → clear → (s.recordMiss (pa / 64) true (.keep q.ticket)).1 = true →
      ∃ t, exec .keepStoreDecide s = .next t ∧ same t ∧ t.keepq = (change fun x => { x with atHome := true }).keepq) ∧
    (q.wantPush = false → q.due = 0 → clear → Ready s (pa / 64) → s.homeClock home q = none → q.pushed = false →
      exec .keepStoreDecide s = .next (change fun x => { x with wantPush := true })) ∧
    (∀ c, q.wantPush = false → q.due = 0 → clear → Ready s (pa / 64) → s.homeClock home q = some c →
      ((stays c).length ≤ 3 → roomy → ∃ t, exec .keepStoreDecide s = .next t ∧
        t.cellVals pa = stays c ++ [new] ∧ t.keepq = s.keepq.filter (·.ticket ≠ q.ticket) ∧
        t.homeNat pa 4 = (topVal (stays c ++ [new])).val.toNat ∧
        (∀ x, (x < pa ∨ pa + 4 ≤ x) → t.home x = s.home x) ∧
        (∃ x, t.clocks.getLast? = some x ∧ mine x) ∧ t.watch q.watch = unasked (s.watch q.watch) q.ticket) ∧
      (3 < (stays c).length → ∃ t, exec .keepStoreDecide s = .next t ∧ same t ∧
        t.keepq = (change fun x => { x with tries := 0, due := s.cycles + 128 }).keepq)) ∧
    (q.wantPush = false → exec .clockPush s = .next s) ∧
    (q.wantPush = true → (s.clocks.filter fun c => c.home = home).length < cacheSize home →
      exec .clockPush s = .next { change (fun x => { x with pushed := true, wantPush := false }) with
        clocks := s.clocks ++ [⟨home, q.part, q.region, q.slot, q.gen, q.clock⟩] }) ∧
    (∀ x l, q.wantPush = true → s.clocks.filter (fun c => c.home = home) = x :: l → cacheSize home ≤ (x :: l).length →
      ∃ t, exec .clockPush s = .next t ∧ t.clocks = s.clocks.erase x ++ [⟨home, q.part, q.region, q.slot, q.gen, q.clock⟩]) ∧
    (s.cycles < q.due ∨ q.due = 0 → exec .keepRetry s = .next s) ∧
    (∀ c, 0 < q.due → q.due ≤ s.cycles → Ready s (pa / 64) → s.homeClock home q = some c → 3 < (stays c).length → q.tries < 7 →
      ∃ t, exec .keepRetry s = .next t ∧ same t ∧
        t.keepq = (change fun x => { x with tries := q.tries + 1, due := s.cycles + 64 * 2 ^ (q.tries + 2) }).keepq) ∧
    (∀ c, 0 < q.due → q.due ≤ s.cycles → Ready s (pa / 64) → s.homeClock home q = some c → 3 < (stays c).length → 7 ≤ q.tries →
      ∃ t, exec .keepRetry s = .next t ∧ t.mem = s.mem ∧ t.cells = s.cells ∧ t.keepq = s.keepq.filter (·.ticket ≠ q.ticket) ∧
        t.watch q.watch = faulted (s.watch q.watch) q.ticket ⟨q.ord, 0xA, q.pc, q.va⟩)

/-! ### Entries of chains, collectives -/

namespace Sys2Proof.Claims
open Sys2Proof.Machine

/-- The entry that an event names, of a chain of the device; no chain is held without entries. -/
structure Named (s : State) (c : Chain) (e : ChEntry) : Prop where
  chain : s.chainAt s.opnd.a = some c
  entry : c.entries[s.opnd.b]? = some e
  held : ∀ x ∈ s.chains, x.entries ≠ []

/-- The chains once the entries of one number and member of a chain have changed. -/
def entryAs (s : State) (c : Chain) (e : ChEntry) (f : ChEntry → ChEntry) : List Chain :=
  s.chains.map fun x => if x.part = c.part ∧ x.header = c.header then
    { x with entries := x.entries.map fun y => if y.seq = e.seq ∧ y.member = e.member then f y else y } else x

/-- An entry whose work is done, with its code, result and flags (R329). -/
def workedAs (code : Nat) (res : Word) (fl : BitVec 6) (e : ChEntry) : ChEntry :=
  { e with st := .worked, code := code, result := res, flags := fl }

/-- An entry ends its work, and no watch changes. -/
def Ends (s : State) (c : Chain) (e : ChEntry) (i : Instr) (code : Nat) (res : Word) (fl : BitVec 6) (P : State → Prop) : Prop :=
  ∃ t, exec i s = .next t ∧ t.chains = entryAs s c e (workedAs code res fl) ∧ (∀ k, t.watch k = s.watch k) ∧ P t

/-- The `n` bytes at a virtual address, as the engine of board `b` reads them: one piece of memory at `pa`, not poisoned, behind no link
that retrains, no line of it in miss (R330, R356, R399). -/
def ReadsAt (s : State) (p b : Nat) (va n pa : Nat) : Prop :=
  va < 2 ^ 64 ∧ n ≤ 0x8000 - va % 0x8000 ∧ s.poisoned pa n = false ∧ s.behindRetrain pa = false ∧
    (∀ l, l * 64 < pa + n → pa < l * 64 + 64 → s.inMiss l = false) ∧ ∃ e, s.engPlace p b false va = .ok (.mem pa e)

/-- No bound notify page has its header in a range (R143). -/
def NoPage (s : State) (pa n : Nat) : Prop :=
  ∀ x ∈ s.parts, ∀ q, x.2 = some q → ∀ g ∈ q.pages, ¬(g.2.pa < pa + n ∧ pa < g.2.pa + 24)

/-- The same for a write (R330, R338): a PLAIN or HOST-C page, or a pair's side under the night bit, of the device itself; no other store
is on its way. -/
def WritesAt (s : State) (p b : Nat) (night : Bool) (va n pa : Nat) : Prop :=
  Still s ∧ NoPage s pa n ∧ va < 2 ^ 64 ∧ n ≤ 0x8000 - va % 0x8000 ∧ s.linksOf pa = [] ∧ ∃ e, s.engPlace p b night va = .ok (.mem pa e) ∧
    (pteType e = 0 ∨ pteType e = 3 ∨
      (pteType e = 2 ∧ pteAux e / 2 ^ 11 = 1 ∧ (s.pair? p (pteAux e % 64)).isSome = true ∧ night = true))

/-- Memory outside a range is as it was. -/
def KeepsBut (s t : State) (pa n : Nat) : Prop := ∀ x, (x < pa ∨ pa + n ≤ x) → t.home x = s.home x

/-- One element of a tensor moves to one element of another (R333): read, converted in a mode, written, both of whole bytes in one piece. -/
def MovesElement (s : State) (c : Chain) (e : ChEntry) (i : Instr) (a : Header) (ix : List Nat) (b : Header) (jx : List Nat) :
    Prop :=
  let n := b.width / 8
  ∀ pa qa, a.bit ix % 8 = 0 → a.width % 8 = 0 → b.bit jx % 8 = 0 → b.width % 8 = 0 →
    ReadsAt s c.part c.eng (a.bit ix / 8) (a.width / 8) pa → WritesAt s c.part c.eng e.night (b.bit jx / 8) n qa →
    let v := b.narrow e.mode (widen a.ffmt (leNat (s.homeBytes pa (a.width / 8))))
    Ends s c e i 0 0 v.2.bits fun t => t.homeBytes qa n = leBytes n v.1 ∧ KeepsBut s t qa n

end Sys2Proof.Claims

/-- Data entries of a board's engine that may start (R329, R332 to R335). FILL and COPY, each range one piece of memory: the
destination takes the pattern, or the bytes that stood at the source, where the two places are apart, and nothing else of memory changes; a source that is refused ends
the entry with its code and address, one behind a link that retrains leaves it waiting (R399). PREFETCH changes no byte. An entry for a FIFO bank whose length is not the slot's ends with FIFO.
GATHER, SCATTER, SELGATHER and CONVERT end; with a tensor in a FIFO bank with the code 20; one element moves as it is read, widened, narrowed in
the entry's mode and written; an index of −1 writes +0, or nothing for SCATTER; any other outside its tensor ends the entry with BAD. -/
def Obligations.DataEntries : Prop :=
  ∀ (s : State) c e, Named s c e → c.eng < 1024 → s.mayStart c e = true →
    let src := (e.word 2).toNat
    let dst := (e.word 3).toNat
    let n := e.len
    (s.fifoTarget c e = none → e.slot = none → ∀ pa, WritesAt s c.part c.eng e.night dst n pa →
      (e.kind = 5 → Ends s c e .entryFill 0 0 0 fun t => KeepsBut s t pa n ∧
        ∀ j, j < n → t.home (pa + j) = (e.word 2 >>> (8 * (j % 8))).setWidth 8) ∧
      (e.kind = 1 → ∀ qa, ReadsAt s c.part c.eng src n qa → ¬(qa < pa + n ∧ pa < qa + n) →
        Ends s c e .entryCopy 0 0 0 fun t => KeepsBut s t pa n ∧ ∀ j, j < n → t.home (pa + j) = s.home (qa + j))) ∧
    (e.kind = 1 → s.fifoTarget c e = none → e.slot = none → ∀ x, s.engRead c.part c.eng false src n = .error x →
      (x.1 ≠ waitCode → Still s → Ends s c e .entryCopy x.1 x.2 0 fun t => t.mem = s.mem) ∧ (x.1 = waitCode → exec .entryCopy s = .next s)) ∧
    (∀ b m base, s.fifoTarget c e = some (b, m, base) → e.slot = none → n ≠ ((s.boardAt b).bank m).slotSize →
      (e.kind = 5 → Ends s c e .entryFill 22 0 0 fun t => t.mem = s.mem) ∧
      (e.kind = 1 → Ends s c e .entryCopy 22 0 0 fun t => t.mem = s.mem)) ∧
    (e.kind = 11 → Still s → Ends s c e .entryPrefetch 0 0 0 fun t => t.mem = s.mem) ∧
    (∀ k i, ((k = 2 ∧ i = Instr.entryGather) ∨ (k = 3 ∧ i = .entrySelgather) ∨ (k = 4 ∧ i = .entryScatter) ∨
        (k = 6 ∧ i = .entryConvert)) → e.kind = k →
      (Still s → (∀ l, (s.linkAt l).retrain = none) → ∃ code res fl, Ends s c e i code res fl fun _ => True) ∧
      ∀ a b, e.src = some a → e.dst = some b →
        (s.inFifo c b = true → Ends s c e i 20 (BitVec.ofNat 64 b.base) 0 fun t => t.mem = s.mem) ∧
        (s.inFifo c a = false → s.inFifo c b = false → Still s →
          (k = 6 → (∀ d, d < 4 → b.dim d = 1) → MovesElement s c e i a [0, 0, 0, 0] b [0, 0, 0, 0]) ∧
          ∀ j, k ≠ 6 → n = 1 → (k = 3 → bits (e.word 4) 47 32 = 1) → b.dim b.kdim = 1 → (s.indexAt c e 0).1 = .ok j →
            let from' := if k = 4 then b else a
            (0 ≤ j → j < from'.rows → 0 < (if k = 4 then a else b).rows →
              MovesElement s c e i a (a.index 0 (if k = 4 then 0 else j.toNat)) b (b.index 0 (if k = 4 then j.toNat else 0))) ∧
            (j = -1 → k = 4 → Ends s c e i 0 0 0 fun t => t.mem = s.mem) ∧
            (j = -1 → k ≠ 4 → 0 < b.rows → ∀ qa, b.bit (b.index 0 0) % 8 = 0 → b.width % 8 = 0 →
              WritesAt s c.part c.eng e.night (b.bit (b.index 0 0) / 8) (b.width / 8) qa →
              Ends s c e i 0 0 0 fun t => t.homeBytes qa (b.width / 8) = leBytes (b.width / 8) 0 ∧ KeepsBut s t qa (b.width / 8)) ∧
            ((j < -1 ∨ (from'.rows : Int) ≤ j) → Ends s c e i 3 0 0 fun t => t.mem = s.mem)))

/-- FENCE, WAIT, PUBLISH and SNAP (R336, R339, R340). FENCE ends once no earlier entry of its chain is open; WAIT once the cell it
names, read at its home, is at least its value, and till then waits. PUBLISH arms the flip of its pair at the later of its time and 200
ticks ahead, once no flip of it is armed and no night write to it open; a pair that does not exist is BAD. SNAP checks its list and
arms its hold. -/
def Obligations.OrderingEntries : Prop :=
  ∀ (s : State) c e, Named s c e →
    let ready := if c.group.isSome = true then e.st = .running else s.mayStart c e = true
    let T := max (e.word 5).toNat (s.bell + 200)
    let running := fun (x : ChEntry) => { x with st := .running, t := T, late := decide ((e.word 5).toNat < s.bell + 200) }
    (e.kind = 9 → ready → ((∀ x ∈ c.entries, e.seq ≤ x.seq) → Ends s c e .entryFence 0 0 0 fun t => t.mem = s.mem) ∧
      ((∃ x ∈ c.entries, x.seq < e.seq) → exec .entryFence s = .next s)) ∧
    (e.kind = 10 → ready → ∀ pa, ReadsAt s c.part c.eng (e.word 2).toNat 8 pa →
      ((e.word 3).toNat ≤ (s.homeWord pa).toNat → Ends s c e .entryWait 0 0 0 fun t => t.mem = s.mem) ∧
      ((s.homeWord pa).toNat < (e.word 3).toNat → exec .entryWait s = .next s)) ∧
    (e.kind = 8 → s.mayStart c e = true →
      (s.pair? c.part (e.word 2).toNat = none → Ends s c e .entryPublish 3 0 0 fun t => t.mem = s.mem) ∧
      (∀ r, s.pair? c.part (e.word 2).toNat = some r →
        (r.flip.isSome = true ∨ s.nightBusy c.part r (some (c.header, e.seq)) = true → exec .entryPublish s = .next s) ∧
        (r.flip = none → s.nightBusy c.part r (some (c.header, e.seq)) = false → ∃ t, exec .entryPublish s = .next t ∧
          t.mem = s.mem ∧ t.chains = entryAs s c e running ∧
          t.pair? c.part (e.word 2).toNat = some { r with flip := some ⟨T, c.eng, c.header, e.seq⟩ }))) ∧
    (e.kind = 7 → s.mayStart c e = true → Still s →
      (∀ x, (s.snapIds c e).1 = .error x → (x.1 ≠ waitCode → Ends s c e .entrySnap x.1 x.2 0 fun t => t.mem = s.mem) ∧
        (x.1 = waitCode → exec .entrySnap s = .next s)) ∧
      (∀ ids, (s.snapIds c e).1 = .ok ids → ∃ t, exec .entrySnap s = .next t ∧ t.mem = s.mem ∧ t.chains = entryAs s c e running ∧
        t.snaps = s.snaps ++ [⟨c.part, c.eng, c.header, e.seq, ids, e.word 3, bits (e.word 4) 47 32, T, false, []⟩]))

namespace Sys2Proof.Claims
open Sys2Proof.Machine

/-- States that differ from `s` in the bytes of some ranges alone, and in what no translation reads; no other store is on its way. -/
def SameBut (s u : State) (inside : Nat → Prop) : Prop :=
  Still u ∧ (∀ x, ¬inside x → u.home x = s.home x) ∧ u.parts = s.parts ∧ u.bell = s.bell ∧
    ∀ b, (u.boardAt b).tlb = (s.boardAt b).tlb ∧ (u.boardAt b).banks = (s.boardAt b).banks

/-- A collective of a group of boards runs (R342): each rank's destination, in one piece, apart from the others' and holding no page table, takes what the ranks'
sources give it; nothing else of memory changes, and every rank's entry is done. -/
def Collects (i : Instr) (kind : Nat) (blocks : Nat → Nat) (f : ChEntry → Nat → List (List Byte) → List Byte) : Prop :=
  ∀ (s : State) c g es, s.chainAt s.opnd.a = some c → s.collSet c s.opnd.b = some (g, es) → (∀ x ∈ s.chains, x.entries ≠ []) →
    g.form ≠ 2 → Still s →
    ((∃ e ∈ es, e.kind ≠ kind ∨ e.st ≠ .running) → exec i s = .next s) ∧
    ((∀ e ∈ es, e.kind = kind ∧ e.st = .running) → (∀ x ∈ es, ∀ y ∈ es, x.len = y.len) → ∀ (data : List (List Byte)) (pa : Nat → Nat),
      let l := es.zipIdx
      let got := fun (x : ChEntry × Nat) => f x.1 x.2 data
      let inside := fun (a : Nat) => ∃ x ∈ l, pa x.2 ≤ a ∧ a < pa x.2 + (got x).length
      data.length = es.length →
      (∀ x ∈ l, data[x.2]? = (s.engRead c.part (g.board x.2) false (x.1.word 2).toNat (blocks es.length * x.1.len)).toOption) →
      (∀ u, SameBut s u inside → ∀ x ∈ l, got x ≠ [] →
        WritesAt u c.part (g.board x.2) x.1.night (x.1.word 3).toNat (got x).length (pa x.2)) →
      (∀ x ∈ l, ∀ y ∈ l, x.2 ≠ y.2 → pa x.2 + (got x).length ≤ pa y.2 ∨ pa y.2 + (got y).length ≤ pa x.2) →
      ∃ t, exec i s = .next t ∧ (∀ k, t.watch k = s.watch k) ∧
        (∀ x ∈ l, t.homeBytes (pa x.2) (got x).length = got x) ∧ (∀ a, ¬inside a → t.home a = s.home a) ∧
        t.chains = s.chains.map fun x => if x.part = c.part ∧ x.header = c.header then
          { x with entries := x.entries.map fun y => if ∃ e ∈ es, y.seq = e.seq ∧ y.member = e.member then workedAs 0 0 0 y else y }
          else x)

/-- A collective of a group of packages runs (R342): the destination of this package's rank takes what its own source and bytes of the
peers give it; nothing else of memory changes, and its entry is done. -/
def CollectsPeers (i : Instr) (kind : Nat) (blocks : Nat → Nat) (f : ChEntry → Nat → List (List Byte) → List Byte) : Prop :=
  ∀ (s : State) c g e own pa, s.chainAt s.opnd.a = some c → s.collSet c s.opnd.b = some (g, [e]) → (∀ x ∈ s.chains, x.entries ≠ []) →
    g.form = 2 → e.kind = kind → e.st = .running →
    let n := blocks g.members.length * e.len
    let size := (f e e.member (List.replicate g.members.length (List.replicate n 0))).length
    s.engRead c.part 1024 false (e.word 2).toNat n = .ok own → WritesAt s c.part 1024 e.night (e.word 3).toNat size pa →
    ∃ t data, exec i s = .next t ∧ (∀ k, t.watch k = s.watch k) ∧ data.length = g.members.length ∧ (∀ l ∈ data, l.length = n) ∧
      data[e.member]? = some own ∧ t.homeBytes pa size = f e e.member data ∧ KeepsBut s t pa size ∧
      t.chains = entryAs s c e (workedAs 0 0 0)

/-- A collective kind, in groups of boards and of packages. -/
def CollectsAll (i : Instr) (kind : Nat) (blocks : Nat → Nat) (f : ChEntry → Nat → List (List Byte) → List Byte) : Prop :=
  Collects i kind blocks f ∧ CollectsPeers i kind blocks f

end Sys2Proof.Claims

/-- Collectives and the end of an entry (R326, R329, R341, R342). `collectiveStart`: once every member's entry of one number may start, they run,
or end MISMATCH where their kinds, types, operations or lengths differ (those of a peer package, as the event says: log 40). ALLGATHER, REDSCAT and ALLTOALL give each rank the blocks, their
combination in ascending rank, or the exchanged blocks; BARRIER moves nothing. `entryEnd`: the first entry, done, is written back with its
result and status word, the header's `done` counts it, and `errs` counts the entries that failed and names the latest of them (R325); an entry that is not done,
or whose words lie behind a link that retrains, ends nothing. -/
def Obligations.Collectives : Prop :=
  (∀ (s : State) c g es, s.chainAt s.opnd.a = some c → s.collSet c s.opnd.b = some (g, es) → (∀ x ∈ s.chains, x.entries ≠ []) →
    let same := ¬(g.form = 2 ∧ s.opnd.c = 1) ∧ ∀ x ∈ es, ∀ y ∈ es, x.kind = y.kind ∧ x.ty = y.ty ∧ x.op = y.op ∧ x.len = y.len
    let after := fun (f : ChEntry → ChEntry) => s.chains.map fun x => if x.part = c.part ∧ x.header = c.header then
      { x with entries := x.entries.map fun y => if y.seq = s.opnd.b then f y else y } else x
    ((∃ e ∈ es, s.mayStart c e = false) → exec .collectiveStart s = .next s) ∧
    ((∀ e ∈ es, s.mayStart c e = true) → ∃ t, exec .collectiveStart s = .next t ∧ t.mem = s.mem ∧ (∀ k, t.watch k = s.watch k) ∧
      (same → t.chains = after fun y => { y with st := .running }) ∧
      (¬same → t.chains = after fun y => { y with st := .worked, code := 6 }))) ∧
  CollectsAll .allgather 0x10 (fun _ => 1) (fun _ _ data => data.flatten) ∧
  CollectsAll .redscat 0x11 id (fun e r data => combine e.op e.ty (data.map (block e.len r))) ∧
  CollectsAll .alltoall 0x12 id (fun e r data => (data.map (block e.len r)).flatten) ∧
  CollectsAll .entryBarrier 0x13 (fun _ => 0) (fun _ _ _ => []) ∧
  (∀ (s : State) c e rest, s.chainAt s.opnd.a = some c → c.group = none → c.entries = e :: rest → e.seq = c.done + 1 →
    (∀ x ∈ rest, x.seq ≠ e.seq) →
    let waits := s.engWaits c.part c.eng c.header.toNat = true ∨ s.engWaits c.part c.eng e.addr.toNat = true
    (e.st ≠ .worked ∨ waits → exec .entryEnd s = .next s) ∧
    (e.st = .worked → ¬waits → Still s → s.ceWaits = [] → e.code < 256 → e.seq < 2 ^ 32 → ∀ p1 p2 p3 p4,
      let inside := fun (a : Nat) => ∃ p ∈ [p1, p2, p3, p4], p ≤ a ∧ a < p + 8
      (∀ u, SameBut s u inside →
        WritesAt u c.part c.eng false (e.addr.toNat + 48) 8 p1 ∧ WritesAt u c.part c.eng false (e.addr.toNat + 56) 8 p2 ∧
        WritesAt u c.part c.eng false (c.header.toNat + 16) 8 p3 ∧ WritesAt u c.part c.eng false c.header.toNat 8 p4) →
      [p1, p2, p3, p4].Pairwise (fun p q => p + 8 ≤ q ∨ q + 8 ≤ p) →
      let errs := errsAfter c.errs e
      ∃ t, exec .entryEnd s = .next t ∧ (∀ k, t.watch k = s.watch k) ∧ t.homeWord p1 = e.result ∧
        t.homeWord p2 = BitVec.ofNat 64 (e.flags.toNat + (if e.late then 2 ^ 6 else 0) + e.code * 2 ^ 16 + e.seq * 2 ^ 32) ∧
        t.homeWord p3 = errs ∧ (e.code = 0 → errs = c.errs) ∧ t.homeWord p4 = BitVec.ofNat 64 e.seq ∧
        (∀ a, ¬inside a → t.home a = s.home a) ∧
        (∀ x ∈ rest, (x.idle = true → e.code = 0) → ∀ y ∈ t.chains, y.part = c.part → y.header = c.header →
          y.done = e.seq ∧ y.errs = errs ∧ x ∈ y.entries)))

/-! ### Timed events, work that goes on -/

namespace Sys2Proof.Claims
open Sys2Proof.Machine

/-- Firmware answers a command at once: it runs, its completion ring is enabled and has room, nothing waits for it, the host's links are
up, no other write is on its way, and no notify page stands where the completion goes (R399, R404, R406). -/
structure RingRoom (s : State) (n : Nat) : Prop extends Still s where
  runs : s.fw.fwst = 1
  links : ∀ l, l < 4 → (s.linkAt l).up = true ∧ (s.linkAt l).retrain = none
  clear : NoPage s (hostAddr (bits s.fw.cpb 63 12 * 2 ^ 12 + 32 * (((s.fw.fcomp + 1) % 2 ^ 32 + 2 ^ 32 - 1) % n))) 32
  size : ringSize s.fw.cpb = some n
  idle : s.fw.waiting = []
  room : (s.fw.fcomp + 2 ^ 32 - s.fw.cph) % 2 ^ 32 < n

/-- The sequence number of the next completion, and the host address of its entry (R404). -/
def nextSeq (s : State) : Nat := (s.fw.fcomp + 1) % 2 ^ 32
def nextEntry (s : State) (n : Nat) : Nat :=
  hostAddr (bits s.fw.cpb 63 12 * 2 ^ 12 + 32 * ((nextSeq s + 2 ^ 32 - 1) % n))

/-- The completion of a command with a status and two results stands in the ring, and the host has an interrupt (R404). -/
def Answered (s t : State) (n cmd st : Nat) (r2 r3 : Word) : Prop :=
  t.fw.fcomp = nextSeq s ∧ t.fw.waiting = [] ∧ t.fw.msix = s.fw.msix + 1 ∧
    t.homeWord (nextEntry s n) = BitVec.ofNat 64 (st + nextSeq s * 2 ^ 32) ∧
    t.homeWord (nextEntry s n + 8) = BitVec.ofNat 64 (cmd % 2 ^ 32 * 2 ^ 32) ∧
    t.homeWord (nextEntry s n + 16) = r2 ∧ t.homeWord (nextEntry s n + 24) = r3

/-- A partition of a state becomes another, and no other partition changes. -/
def PartAs (s t : State) (p : Nat) (q : Part) : Prop := t.part? p = some q ∧ ∀ j, j ≠ p → t.part? j = s.part? j

end Sys2Proof.Claims

/-- What a bell time makes due (R339, R340, R362, R363). `dawnSwap`: at its time, and not before, the two sides of a pair exchange and the
entry that armed the flip is done, with the time as result; a load of the pair that has been issued keeps the bytes that the day side held
(log 65). `snapHold`: a hold begins at its time, whether its partition runs or not. `snapRelease`: not while a wake task of the set
runs; then a record is copied as it stands, and its entry is done, with MEMERR over an uncorrectable error (R331). `splitSwitch`: at its time the two domains and the moved granules are in
force and no slice holds a line of them. `remapReplay`: a request that was answered REMAP, a load, a store or an atomic, is performed, in the order of its requester
and line. -/
def Obligations.TimedEvents : Prop :=
  (∀ (s : State) r f, s.pair? s.opnd.a s.opnd.b = some r → r.flip = some f →
    (s.bell < f.t → exec .dawnSwap s = .next s) ∧
    (f.t ≤ s.bell → ∃ t, exec .dawnSwap s = .next t ∧ t.mem = s.mem ∧
      (∀ k, (s.watch k).path = [] → t.watch k = s.watch k) ∧ (∀ k, (t.watch k).img = (s.watch k).img ∧ (t.watch k).pc = (s.watch k).pc) ∧
      (let side := fun (q : LoadReq) => (List.range q.len).map fun j => (q.addr + j, s.home (q.addr + j))
       t.linkLoads = s.linkLoads.map fun q => if q.old = [] ∧ (s.watch q.watch).part = s.opnd.a ∧ pteType q.pte = 2 ∧
         pteAux q.pte / 2 ^ 11 = 1 ∧ pteAux q.pte % 64 = s.opnd.b then { q with old := side q } else q) ∧
      t.pair? s.opnd.a s.opnd.b = some { r with day := r.night, night := r.day, flip := none } ∧
      ((∀ x ∈ s.chains, x.entries ≠ []) → t.chains = if f.seq = 0 then s.chains else s.chains.map fun x =>
        if x.part = s.opnd.a ∧ x.header = f.chain then { x with entries := x.entries.map fun y =>
          if y.seq = f.seq ∧ y.member = 0 ∧ y.st = .running then { y with st := .worked, result := BitVec.ofNat 64 f.t } else y }
        else x))) ∧
  (∀ (s : State) n, s.snaps[s.opnd.a]? = some n → ∃ t, exec .snapHold s = .next t ∧ t.mem = s.mem ∧
    (∀ k, t.watch k = s.watch k) ∧ t.snaps[s.opnd.a]? = some (if n.t ≤ s.bell then { n with held := true } else n) ∧
    ∀ i, i ≠ s.opnd.a → t.snaps[i]? = s.snaps[i]?) ∧
  (∀ (s : State) n, s.snaps[s.opnd.a]? = some n →
    (n.held = false ∨ s.wakeRunning n = true ∨ s.stays n.part = false → exec .snapRelease s = .next s) ∧
    (n.held = true → s.wakeRunning n = false → s.stays n.part = true → s.windowDue n.part = false → n.deferred = [] → ∀ o c e u pa, n.ids = [o] →
      s.chain? n.part n.chain = some c → c.entries = [e] → e.seq = n.seq → e.member = 0 →
      s.typeOf n.part (oidType o) = some u → (∀ x ∈ s.chains, x.entries ≠ []) →
      let a := storeAddr (oidBoard o) (oidOff o)
      let size := 64 + u.slots * u.size
      (∀ x, s.errorIn a size = true → a ≤ x → x < a + size → s.ecc.contains x = true → (∀ y, a ≤ y → y < x → s.ecc.contains y = false) →
        ∃ t, exec .snapRelease s = .next t ∧ t.mem = s.mem ∧ t.snaps = s.snaps.erase n ∧ t.chain? n.part n.chain =
          some { c with entries := [{ e with st := .worked, code := 21, result := BitVec.ofNat 64 x }] }) ∧
      (s.errorIn a size = false → WritesAt s n.part n.eng e.night n.dest.toNat size pa →
      ∃ t, exec .snapRelease s = .next t ∧ (∀ k, t.watch k = s.watch k) ∧ t.snaps = s.snaps.erase n ∧
        t.homeBytes pa (64 + u.slots * u.size) = s.homeBytes (storeAddr (oidBoard o) (oidOff o)) (64 + u.slots * u.size) ∧
        KeepsBut s t pa (64 + u.slots * u.size) ∧
        t.chain? n.part n.chain = some { c with entries := [{ e with st := .worked, code := 0, result := 0 }] }))) ∧
  (∀ (s : State) r, s.split = some r →
    (s.bell < r.t → exec .splitSwitch s = .next s) ∧
    (r.t ≤ s.bell → r.d ≠ r.e → Still s → ∃ t, exec .splitSwitch s = .next t ∧ t.split = none ∧ t.before = (s.domains, s.granules) ∧ (∀ k, t.watch k = s.watch k) ∧
      t.domains.get Domain.fresh r.d = r.newD ∧ t.domains.get Domain.fresh r.e = r.newE ∧
      (∀ g ∈ r.granules, t.granules.get 0 g = r.e) ∧ (∀ g, g ∉ r.granules → t.granules.get 0 g = s.granules.get 0 g) ∧
      (r.cmd ∉ s.fw.taken → t.mem = s.mem ∧
        ∀ v ∈ t.slices, ∀ x ∈ v.2.tags, (x.1 * 64 / 2 ^ 30, r.d) ∉ s.granules))) ∧
  (∀ (s : State) r, s.remaps[s.opnd.a]? = some r →
    let after := fun (x : Remap) => x.requester = r.requester ∧ x.addr / 64 = r.addr / 64
    ((∃ x ∈ s.remaps.take s.opnd.a, after x) → exec .remapReplay s = .next s) ∧
    ((∀ x ∈ s.remaps.take s.opnd.a, ¬after x) → Still s →
      (r.act = .read → s.poisoned r.addr 8 = false → ∃ t, exec .remapReplay s = .next t ∧ t.mem = s.mem ∧
        t.remaps = s.remaps.eraseIdx s.opnd.a ∧ t.fw = { s.fw with readout := s.homeWord r.addr, poison := false }) ∧
      (∀ l, r.act = .write l → (l.map Prod.fst).Nodup → (∀ e ∈ l, (s.cellVals (e.1 / 4 * 4)).length = 1) →
        (∀ e ∈ l, s.pageHeld e.1 = false) →
        ∃ t, exec .remapReplay s = .next t ∧ t.remaps = s.remaps.eraseIdx s.opnd.a ∧ (∀ e ∈ l, t.home e.1 = e.2) ∧
          (∀ a, (∀ e ∈ l, e.1 ≠ a) → t.home a = s.home a) ∧ t.fw = { s.fw with readout := 0, poison := false }) ∧
      (∀ o m b c, r.act = .atomic o m b c → o ∈ plainAtomics → m ∈ [1, 2, 4, 8] → (o = .afadd → m = 4) → r.addr % m = 0 →
        s.poisoned r.addr m = false → (∀ x ∈ cellsOf r.addr m, (s.cellVals x).length = 1) → (∀ j, j < m → s.pageHeld (r.addr + j) = false) →
        ∃ t, exec .remapReplay s = .next t ∧ t.remaps = s.remaps.eraseIdx s.opnd.a ∧ KeepsBut s t r.addr m ∧
          AtTable o m (BitVec.ofNat (8 * m) (s.homeNat r.addr m)) b c (BitVec.ofNat (8 * m) (t.homeNat r.addr m)) ∧
          t.fw = { s.fw with readout := BitVec.ofNat 64 (s.homeNat r.addr m), poison := false })))

/-- How work goes on and ends (R26 to R33, R138, R139). `cancelNotice`: a core discards its queued entry of a cancelled lineage and marks the watch
that runs one; the schedule makes it due within 2 µs of the notice (R33). `launchComplete`: a started launch whose counter is 0 leaves its entry, whose generation rises by one; its cell takes 1 and a
continuation waits; a launch that waited for it alone starts, or ends with it where it was cancelled; not while its counter is above 0. `continuationStart`: the first that waits takes the lowest free entry (log 9), one index on its
core. `phaseComplete`: a closed phase with no live graph, continuation or chain completes, its close is answered, and the phase number
rises, the next phase cancelled where the job is; operand c says that it is the job's last (log 30). `windowBoundary` and `cvrUpdate`: what the boards counted by the boundary stands in the register pairs 256 ticks on. -/
def Obligations.WorkGoesOn : Prop :=
  (∀ (s : State) p q n, s.partOf s.opnd.a = some p → s.part? p = some q →
    let c := s.coreAt s.opnd.a
    (c.notices ≥ q.notices.length → exec .cancelNotice s = .next s) ∧
    (q.notices[c.notices]? = some n → ∃ t, exec .cancelNotice s = .next t ∧ (t.coreAt s.opnd.a).notices = c.notices + 1 ∧
      (t.coreAt s.opnd.a).gated = false ∧
      (n.since + 200 ≤ s.bell → (s.opnd.a, c) ∈ s.cores → (0, ev .cancelNotice s.opnd.a) ∈ s.timers) ∧
      ∀ i u, c.slots = [(i, .queued u)] → u.part = p → u.kind ≠ .wake → s.wakes = [] → (s.boardAt (boardOf s.opnd.a)).overflow = [] →
        (n.entries.contains (u.launch, u.gen) = true → (t.coreAt s.opnd.a).slot i = .free ∧ ∃ q', t.part? p = some q' ∧
          (q'.launchAt u.launch).counter = (q.launchAt u.launch).counter - 1) ∧
        (n.entries.contains (u.launch, u.gen) = false → (t.coreAt s.opnd.a).slot i = .queued u ∧ t.part? p = some q))) ∧
  (∀ (s : State) q, s.part? s.opnd.a = some q → q.run = .running →
    let v := q.launchAt s.opnd.b
    let d : Desc := v.desc
    let alone := ∀ j, j < 256 → j ≠ s.opnd.b → (q.launchAt j).used = true → (q.launchAt j).graph = v.graph → (q.launchAt j).started = true
    (v.used = false ∨ v.started = false ∨ (v.started = true ∧ v.counter ≠ 0) → exec .launchComplete s = .next s) ∧
    (v.used = true → v.started = true → v.counter = 0 → ∃ t q', exec .launchComplete s = .next t ∧ t.part? s.opnd.a = some q' ∧
      (Still s → ∀ k, t.watch k = s.watch k) ∧ (q'.launchAt s.opnd.b).used = false ∧
      (q'.launchAt s.opnd.b).gen = (v.gen + 1) % 2 ^ 16 ∧ (q'.launchAt s.opnd.b).toPlace = [] ∧
      (alone → d.cell = 0 → t.mem = s.mem) ∧
      (∀ e z, alone → Still s → d.cell ≠ 0 → s.walk d.cell 4 q.root = some (e, z) → pteType e ≠ 1 →
        (let a := s.paOf s.opnd.a e z d.cell false; s.badPa e a = false ∧ s.cutOff a = false ∧ s.behindRetrain a = false) →
        NoPage s (s.paOf s.opnd.a e z d.cell false) 8 →
        t.homeWord (s.paOf s.opnd.a e z d.cell false) = s.homeWord (s.paOf s.opnd.a e z d.cell false) +
          BitVec.ofNat 64 (if v.cancelled then 2 ^ 32 else 1)) ∧
      q'.conts = (if v.cancelled ∨ d.cont = 0 then q.conts else q.conts ++ [⟨v.desc, v.graph⟩]) ∧
      ∀ j i, j < 256 → (q.launchAt j).used = true → (q.launchAt j).started = false → (q.launchAt j).graph = v.graph → j ≠ s.opnd.b →
        (q.graphAt v.graph).cancelled = false → (q.launchAt j).cancelled = false → v.idx = some i → (q.launchAt j).idx.isSome = true →
        Desc.preds (q.launchAt j).desc = [i] →
        (∀ x, x < 256 → x ≠ j → x ≠ s.opnd.b → (q.launchAt x).used = true → (q.launchAt x).graph = v.graph →
          (q.launchAt x).started = true) →
        if v.cancelled then (q'.launchAt j).used = false else (q'.launchAt j).used = true ∧ (q'.launchAt j).started = true ∧
          (q'.launchAt j).counter = Desc.n (q.launchAt j).desc)) ∧
  (∀ (s : State) q c rest l, s.part? s.opnd.a = some q → q.run = .running → q.conts = c :: rest → q.freeEntry = some l →
    (q.graphAt c.graph).cancelled = false →
    let d : Desc := c.desc
    ∃ t q', exec .continuationStart s = .next t ∧ t.part? s.opnd.a = some q' ∧ t.mem = s.mem ∧ q'.conts = rest ∧
      (q'.launchAt l).used = true ∧ (q'.launchAt l).started = true ∧ (q'.launchAt l).graph = c.graph ∧ (q'.launchAt l).counter = 1 ∧
      (q'.launchAt l).toPlace = [(d.contCore, 0, 1, 1)]) ∧
  (∀ (s : State) q, s.part? s.opnd.a = some q → q.run = .running →
    let due := q.phaseOpen = true ∧ (∀ g, g < 64 → (q.graphAt g).used = false) ∧ q.conts = [] ∧ ∀ c ∈ s.chains, c.part ≠ s.opnd.a
    (¬due ∨ q.phaseClosed = none → exec .phaseComplete s = .next s) ∧
    (∀ cmd n, due → q.phaseClosed = some cmd → s.opnd.c ≠ 1 → cmd ∈ s.fw.taken → RingRoom s n → ∃ t, exec .phaseComplete s = .next t ∧
      PartAs s t s.opnd.a
        { q with phase := (q.phase + 1) % 2 ^ 32, phaseOpen := false, phaseClosed := none
                 phaseCancelled := q.job.any (·.cancelled) } ∧
      Answered s t n cmd 0 0 0 ∧ KeepsBut s t (nextEntry s n) 32)) ∧
  (∀ (s : State) q, s.part? s.opnd.a = some q →
    (s.windowDue s.opnd.a = false → exec .windowBoundary s = .next s) ∧
    (s.windowDue s.opnd.a = true → q.ended = none → ∃ t q', exec .windowBoundary s = .next t ∧ t.mem = s.mem ∧
      (∀ k, t.watch k = s.watch k) ∧ PartAs s t s.opnd.a q' ∧ q'.window = q.window + 1 ∧
      (∀ b r, r < 8 → (t.boardAt b).conv.get ⟨0, 0⟩ (s.opnd.a * 8 + r) = ⟨0, 0⟩) ∧
      ∃ v, q'.ended = some (q.window, (q.window + 1) * 2 ^ q.win + 256, v) ∧
        ∀ r, r < 8 → v.get ⟨0, 0⟩ r = s.convOf s.opnd.a r) ∧
    (∀ j at' v, q.ended = some (j, at', v) →
      (s.bell < at' → exec .cvrUpdate s = .next s) ∧
      (at' ≤ s.bell → ∃ t q', exec .cvrUpdate s = .next t ∧ t.mem = s.mem ∧ (∀ k, t.watch k = s.watch k) ∧
        PartAs s t s.opnd.a q' ∧ q'.ended = none ∧ ∀ r, r < 8 → q'.cvr[r]? =
          some ⟨j % 2 ^ 32, min (v.get ⟨0, 0⟩ r).count (2 ^ 32 - 1), (v.get ⟨0, 0⟩ r).maxres⟩)))

/-! ### Stops, switches, power -/

/-- Stops, switches and power (R383 to R393, R411 to R413). `duskExpiry`: at a dusk of 0 a running partition's cores stop with reason 3 and cause
0x17, it is dumped and reported, and a switch armed for later is cancelled; not before. `gangSwitch`: at its time, and not before, a running
partition stops, its messages fall out of the mesh, and once no access of it is under way it is switched out: what its cores and rods held is
in save frames and its cores hold nothing; an entry that its engines have at work is finished first (R387; the fallout's place is log 29).
`resumeAtT`: at its time a stopped
partition's watches go on where they stood; a switched one waits for frames it is short of. `powerGate`: a core quiet for 2,048 cycles is
gated, and no other. `coreWake`: a gated core that can go on wakes. The schedule makes both due, the waking at once (logs 41, 47).
`clockThrottle`: the sensors' readings are its operands, and a step of 100 MHz is one event (log 41): down while a die is above 100 °C or the package
above its cap, up to the record's clock once both are below, else as it is. -/
def Obligations.StopsAndPower : Prop :=
  (∀ (s : State) q, s.part? s.opnd.a = some q →
    (q.run ≠ .running ∨ q.job = none ∨ q.dusk ≠ 0 → exec .duskExpiry s = .next s) ∧
    (∀ j, q.run = .running → q.job = some j → q.dusk = 0 → q.jobs = [] → ∃ t q', exec .duskExpiry s = .next t ∧
      t.part? s.opnd.a = some q' ∧ q'.run = .stopped 3 ∧ q'.dumped = true ∧ q'.armed = none ∧ q'.job = none ∧
      (0x17, s.opnd.a, 0) ∈ t.fw.reports ∧
      ∀ c ∈ q.cores, (t.coreAt c).issuing = none ∧
        (t.coreAt c).hcause = BitVec.ofNat 64 (3 * 2 ^ 36 + q.lowest * 2 ^ 24 + 0x17) ∧ (t.coreAt c).hbell = BitVec.ofNat 64 s.bell ∧
        (t.coreAt c).hissue = (s.coreAt c).issued ∧
        (t.coreAt c).hmsg = BitVec.ofNat 64 ((s.coreAt c).rcvd * 2 ^ 32 + (s.coreAt c).sent))) ∧
  (∀ (s : State) q x, s.part? s.opnd.a = some q → q.armed = some x →
    (s.bell < x.1 ∨ (q.run ≠ .running ∧ q.run ≠ .leaving) → exec .gangSwitch s = .next s) ∧
    (x.1 ≤ s.bell → q.run = .running ∨ q.run = .leaving → ∃ t q', exec .gangSwitch s = .next t ∧ t.part? s.opnd.a = some q' ∧
      (∀ m ∈ t.msgs, m.part ≠ s.opnd.a) ∧ (∀ m ∈ t.deposits, m.part ≠ s.opnd.a) ∧
      ((q'.run = .leaving ∧ q'.armed = q.armed ∧ (q.run = .running → ∀ c ∈ q.cores, (t.coreAt c).issuing = none)) ∨
        (q'.run = .switched ∧ q'.armed = none ∧ q'.rods = q.rods ∧
          ∀ c, q.rods.contains (rodOf c) = true → t.coreAt c = Core.fresh)) ∧
      (Still s → s.keepq = [] → s.bankq = [] → s.atomq = [] → s.linkLoads = [] → (∀ l, (s.linkAt l).retrain = none) →
        (∀ c ∈ s.chains, c.part = s.opnd.a → ∀ e ∈ c.entries, e.atWork = false) → (∀ k, (s.watch k).path = []) → q'.run = .switched ∧ ∃ f, q'.saved = some f ∧
        ∀ c, q.rods.contains (rodOf c) = true → (∀ r ∈ q.rods, (s.rodAt r).running = []) →
          (∀ b ∈ q.boards, ∀ m, m < 16 → ((s.boardAt b).bank m).changes = []) → (∀ y, (s.coreAt y).wcb = []) →
          s.cores.any (·.1 = c) = true → f.cores.get Core.fresh c = (s.coreAt c).forFrames))) ∧
  (∀ (s : State) q x, s.part? s.opnd.a = some q → q.resume = some x →
    (s.bell < x.1 ∨ q.run = .running → exec .resumeAtT s = .next s) ∧
    (∀ r, q.run = .stopped r → x.1 ≤ s.bell → ∃ t, exec .resumeAtT s = .next t ∧ t.mem = s.mem ∧
      PartAs s t s.opnd.a { q with run := .running, resume := none } ∧
      ∀ c ∈ q.cores, s.cores.any (·.1 = c) = true → ∀ i, i < 4 → (s.watch (c * 4 + i)).st = .halted →
        (t.watch (c * 4 + i)).st = (s.watch (c * 4 + i)).prior ∧ (t.watch (c * 4 + i)).pc = (s.watch (c * 4 + i)).pc ∧
        (t.watch (c * 4 + i)).x = (s.watch (c * 4 + i)).x) ∧
    (q.run = .switched → q.short ≠ 0 → exec .resumeAtT s = .next s) ∧
    (∀ f, q.run = .switched → q.saved = some f → q.short = 0 → x.1 ≤ s.bell → Still s →
      (∀ e ∈ s.parts, ∀ o, e.1 ≠ s.opnd.a → e.2 = some o → o.run ≠ .switched → ∀ r ∈ o.rods, r ∉ q.rods) →
      ∃ t, exec .resumeAtT s = .next t ∧ t.fw.frames = s.fw.frames + q.held ∧
        ((f.cores.map Prod.fst).Nodup → ∀ e ∈ f.cores, e.1 ∈ q.cores → t.coreAt e.1 = e.2.unhalt e.1 s.cycles) ∧
        ((f.bytes.map Prod.fst).Nodup → ∀ e ∈ f.bytes, t.home e.1 = e.2) ∧
        PartAs s t s.opnd.a { q with run := .running, resume := none, saved := none, held := 0 })) ∧
  (∀ (s : State), exec .powerGate s = .next (if (s.coreAt s.opnd.a).gated = false ∧ s.quiet s.opnd.a = true ∧
      (s.coreAt s.opnd.a).idle + 2048 ≤ s.cycles then s.onCore s.opnd.a fun v => { v with gated := true } else s)) ∧
  (∀ (s : State),
    ((s.coreAt s.opnd.a).gated = false → exec .coreWake s = .next s) ∧
    ((s.coreAt s.opnd.a).gated = true → s.quiet s.opnd.a = false ∨ (∃ i, i < 4 ∧ (s.watch (s.opnd.a * 4 + i)).st = .halted) →
      exec .coreWake s = .next (s.onCore s.opnd.a fun v => { v with gated := false, idle := s.cycles }))) ∧
  (∀ (s : State) c v, (c, v) ∈ s.cores → s.coreAt c = v →
    (v.gated = false → s.quiet c = true → v.idle + 2048 ≤ s.cycles → (0, ev .powerGate c) ∈ s.timers) ∧
    (v.gated = true → s.wakes? c = true → (0, ev .coreWake c) ∈ s.timers)) ∧
  (∀ (s : State), let hot := 100 < s.opnd.a ∨ s.fw.record.cap < s.opnd.b
    let cool := s.opnd.a < 100 ∧ s.opnd.b < s.fw.record.cap
    ∃ t, exec .clockThrottle s = .next t ∧ t.mem = s.mem ∧ t.cores = s.cores ∧ t.parts = s.parts ∧ t.bell = s.bell ∧
    (hot → 1 < s.clock → t.clock = s.clock - 1) ∧
    (cool → t.clock = if s.clock < s.fw.record.clock then s.clock + 1 else s.clock) ∧
    (¬ hot → ¬ cool → t.clock = s.clock))

/-! ### Commands of the firmware -/

namespace Sys2Proof.Claims
open Sys2Proof.Machine

/-- The firmware is up and the command of the event is the next of its ring, with an opcode; its answer finds room (R403, R404). -/
structure Next (s : State) (op n : Nat) : Prop where
  up : s.fw.fwst = 1
  op : s.opnd.cmd.op = op
  seq : s.opnd.cmd.seq = (s.fw.fseen + 1) % 2 ^ 32
  fresh : s.opnd.cmd.seq ∉ s.fw.taken
  ring : RingRoom s n

/-- Its reserved fields are 0 (R403). -/
def Clean (s : State) (masks : List Word) : Prop :=
  s.opnd.cmd.rsv = 0 ∧ ∀ i, i < 7 → Vector.at0 s.opnd.cmd.w i &&& ~~~((masks[i]?).getD 0) = 0

/-- The command is taken and answered with a status and two results. -/
def Reply (s : State) (i : Instr) (n st : Nat) (r2 r3 : Word) (P : State → Prop) : Prop :=
  ∃ t, exec i s = .next t ∧ Answered s t n s.opnd.cmd.seq st r2 r3 ∧ t.fw.fseen = s.opnd.cmd.seq ∧ t.fw.taken = s.fw.taken ∧ P t

/-- The command is taken and not yet answered. -/
def Holds (s : State) (i : Instr) (P : State → Prop) : Prop :=
  ∃ t, exec i s = .next t ∧ t.fw = { s.fw with fseen := s.opnd.cmd.seq, taken := s.fw.taken ++ [s.opnd.cmd.seq] } ∧
    t.mem = s.mem ∧ P t

/-- Nothing but the ring entry and the firmware's own registers changes. -/
def Bare (s : State) (n : Nat) (t : State) : Prop :=
  t.parts = s.parts ∧ t.cores = s.cores ∧ (∀ b, (t.boardAt b).banks = (s.boardAt b).banks) ∧
    t.split = s.split ∧ t.fw.frames = s.fw.frames ∧ t.fw.exts = s.fw.exts ∧ t.fw.flash = s.fw.flash ∧ KeepsBut s t (nextEntry s n) 32

/-- A completion entry lies apart from `m` bytes at an address. -/
def Apart (s : State) (n a m : Nat) : Prop := a + m ≤ nextEntry s n ∨ nextEntry s n + 32 ≤ a

/-- The commands to the device, and those to a partition, with their opcodes and what their words 1 to 7 may hold (R405). -/
def deviceCommands : List (Instr × Nat × List Word) :=
  [(.query, 0x01, [3, 63, 0, 0, 0, 0, ones]), (.pcreate, 0x02, [ones, ones, 0xF1FF0FFF, ones, ones, 0x31F, ones]),
    (.frames, 0x16, [ones, ones]), (.attest, 0x17, [ones, ones, ones, ones, 0, 0, ones]), (.cfgwrite, 0x18, [ones, ones]),
    (.extload, 0x19, [ones, ones]), (.linkreset, 0x1A, [15])]
def partitionCommands : List (Instr × Nat × List Word) :=
  [(.pdestroy, 0x03, []), (.setattr, 0x04, [0, 0, 0, 0, 0, 0x31F]), (.job, 0x05, [ones, ones]), (.phase, 0x06, [1]),
    (.graph, 0x07, [0x13F, ones, 0x7F, 0, 0, 0, ones]), (.fwCancel, 0x08, [3, ones]), (.map, 0x09, [ones, ones, 7]),
    (.unmap, 0x0A, [ones, ones, 7]), (.type, 0x0B, [0xFF, ones]), (.notify, 0x0C, [ones, ones]),
    (.pair, 0x0D, [0x13F, ones, ones, ones, ones]), (.klist, 0x0E, [0xFFF, 0, 0, 0, 0, 0, ones]), (.kreset, 0x0F, [0xFFF]),
    (.split, 0x10, [63, 63, ones, ones, ones, ones]), (.switch, 0x11, [ones]), (.resume, 0x12, [ones]), (.stop, 0x13, [ones]),
    (.discard, 0x14, []), (.duskadd, 0x15, [ones])]

/-- A command to a partition that exists, its reserved fields 0. -/
structure ToPart (s : State) (op n : Nat) (masks : List Word) (q : Part) : Prop where
  next : Next s op n
  clean : Clean s masks
  part : s.opnd.cmd.part < 128
  here : s.part? s.opnd.cmd.part = some q

/-- A command to the device, its reserved fields 0 (log 23). -/
structure ToDevice (s : State) (op n : Nat) (masks : List Word) : Prop where
  next : Next s op n
  clean : Clean s masks
  whole : s.opnd.cmd.part = 255

end Sys2Proof.Claims

/-- The form of a command (R403 to R405; the partition number of a device command is the model's choice, log 23): a command that is not the
next of the ring, or of another opcode, does nothing; one with a reserved field set, or that names no partition there is, is BAD, and
changes nothing else. -/
def Sys2Proof.Claims.CommandForm : Prop :=
  ∀ (s : State) x, x ∈ deviceCommands ∨ x ∈ partitionCommands →
    let c := s.opnd.cmd
    (s.fw.fwst ≠ 1 ∨ c.op ≠ x.2.1 ∨ c.seq ≠ (s.fw.fseen + 1) % 2 ^ 32 → exec x.1 s = .next s) ∧
    ∀ n, Next s x.2.1 n →
      (x.1 = .phase → s.phaseWaits = false) → (x.1 = .map ∨ x.1 = .unmap → s.mapWaits = false) →
      (x.1 = .graph → s.wordsWait (8 * min (c.word 3).toNat 64) = false) → (x.1 = .type ∨ x.1 = .notify → s.wordsWait 8 = false) →
      (c.rsv ≠ 0 ∨ (∃ i, i < 7 ∧ Vector.at0 c.w i &&& ~~~((x.2.2[i]?).getD 0) ≠ 0) ∨ (x ∈ deviceCommands ∧ c.part ≠ 255) ∨
        (x ∈ partitionCommands ∧ (128 ≤ c.part ∨ s.part? c.part = none))) → Reply s x.1 n 3 0 0 (Bare s n)

/-- Partitions, jobs, phases, graphs (R18, R29 to R32, R140 to R144, R405). PCREATE of free rods makes the lowest free partition number with
what its words give and FREE watches; rods in use are INUSE. PDESTROY removes it, STATE while a job runs. SETATTR, JOB, PHASE, GRAPH of one
launch, CANCEL of a launch and NOTIFY do what the command table says, each only in the partition's own state. PHASE waits for a split of the
partition's domain; an open while a phase is open, a close of a closed one, and NOTIFY once the phase or graph 0 is closed are STATE (logs 25, 62).
An open graph takes GRAPH commands, and is closed by one, also once its phase is closed; a closed one is BAD (log 62). PCREATE takes the lowest
free number (log 9), PDESTROY under a job is STATE (log 24). A launch of a cancelled graph or phase, and one that a cancel finds not started, ends at once (R26, R32). -/
def Sys2Proof.Claims.WorkCommands : Prop :=
  (∀ (s : State) n, ToDevice s 0x02 n [ones, ones, 0xF1FF0FFF, ones, ones, 0x31F, ones] →
    let c := s.opnd.cmd
    let rods := (List.range 128).filter fun r => (c.word (1 + r / 64)).getLsbD (r % 64)
    let boards := (List.range 1024).filter fun b => (boardRods b).any rods.contains
    let ovf := bits (c.word 3) 24 16
    let spill := bits (c.word 3) 31 28
    rods ≠ [] → (∀ r ∈ rods, s.rodOn r = true) →
    (s.domains.get Domain.fresh (bits (c.word 3) 5 0)).members.contains (bits (c.word 3) 11 6) = true → ovf ≤ 256 → spill ≤ 8 →
    (c.word 4).toNat % 2048 = 0 → bits (c.word 5) 63 56 = 0 → attrsOk (c.word 6) = true → bufferOk (c.word 7) = true →
    (∀ x ∈ boards.zipIdx, tableOk (s.homeBytes (hostAddr ((c.word 7).toNat + 16 * x.2)) 16) (ovf ≠ 0 || spill ≠ 0) = true) →
    ((∃ r ∈ rods, s.usedRods.contains r = true) → Reply s .pcreate n 9 0 0 (Bare s n)) ∧
    ((∀ r ∈ rods, s.usedRods.contains r = false) →
      ((∀ p, p < 128 → (s.part? p).isSome = true) → Reply s .pcreate n 2 0 0 (Bare s n)) ∧
      ∀ p, p < 128 → s.part? p = none → (∀ j, j < p → (s.part? j).isSome = true) → Reply s .pcreate n 0 (BitVec.ofNat 64 p) 0 fun t =>
        (∃ q, PartAs s t p q ∧ q.rods = rods ∧ q.ovf = ovf ∧ q.root = (c.word 4).toNat ∧ q.tvb = c.word 5 ∧ q.run = .running ∧
          q.job = none ∧ q.win = bits (c.word 6) 4 0) ∧
        (∀ k, rodOf (k / 4) ∈ rods → (t.watch k).st = .free) ∧ (∀ k, rodOf (k / 4) ∉ rods → t.watch k = s.watch k))) ∧
  (∀ (s : State) n q, ToPart s 0x03 n [] q →
    (q.job.isSome = true → Reply s .pdestroy n 26 0 0 (Bare s n)) ∧
    (q.job = none → q.run = .switched → Reply s .pdestroy n 0 0 0 fun t => t.part? s.opnd.cmd.part = none ∧
      ∀ j, j ≠ s.opnd.cmd.part → t.part? j = s.part? j) ∧
    (q.job = none → q.run ≠ .switched →
      Reply s .pdestroy n 0 0 0 fun t => t.part? s.opnd.cmd.part = none ∧ ∀ k, q.rods.contains (rodOf (k / 4)) = true → t.watch k = Core.fresh.watch k)) ∧
  (∀ (s : State) n q, ToPart s 0x04 n [0, 0, 0, 0, 0, 0x31F] q →
    let w := s.opnd.cmd.word 6
    (bits w 4 0 < 10 → Reply s .setattr n 3 0 0 (Bare s n)) ∧
    (10 ≤ bits w 4 0 → Reply s .setattr n 0 0 0 fun t => t.cores = s.cores ∧ KeepsBut s t (nextEntry s n) 32 ∧
      PartAs s t s.opnd.cmd.part { q with win := bits w 4 0, linkTrap := w.getLsbD 8, kdebug := w.getLsbD 9, window := s.bell / 2 ^ bits w 4 0 })) ∧
  (∀ (s : State) n q, ToPart s 0x05 n [ones, ones] q →
    let c := s.opnd.cmd
    let good := bits (c.word 2) 63 56 = 0 ∧ (c.word 2).toNat % 8 = 0
    (¬good → Reply s .job n 3 0 0 (Bare s n)) ∧
    (good → q.run ≠ .running → Reply s .job n 26 0 0 (Bare s n)) ∧
    (good → q.run = .running → q.job.isSome = true → Holds s .job fun t => PartAs s t c.part { q with jobs := q.jobs ++ [c] }) ∧
    (good → q.run = .running → q.job = none → Holds s .job fun t => t.cores = s.cores ∧ PartAs s t c.part { q with
      job := some ⟨c.seq, c.word 2, false⟩, dusk := (c.word 1).toNat, phase := 0, phaseOpen := false, phaseClosed := none
      phaseCancelled := false })) ∧
  (∀ (s : State) n q, ToPart s 0x06 n [1] q →
    let c := s.opnd.cmd
    let opens := q.run = .running ∧ q.job.isSome = true ∧ q.phaseOpen = false
    let closes := q.run = .running ∧ q.phaseOpen = true ∧ q.phaseClosed = none
    let splits := c.word 1 = 0 ∧ ∃ r, s.split = some r ∧ r.d = q.domain
    (splits → exec .phase s = .next s) ∧ (¬splits →
    (c.word 1 = 0 → opens → Reply s .phase n 0 0 0 fun t => PartAs s t c.part { q with phaseOpen := true }) ∧
    (c.word 1 = 1 → closes → Holds s .phase fun t => PartAs s t c.part { q with phaseClosed := some c.seq }) ∧
    ((c.word 1 = 0 ∧ ¬opens) ∨ (c.word 1 = 1 ∧ ¬closes) → Reply s .phase n 26 0 0 (Bare s n)))) ∧
  (∀ (s : State) n q, ToPart s 0x07 n [0x13F, ones, 0x7F, 0, 0, 0, ones] q →
    let c := s.opnd.cmd
    let g := bits (c.word 1) 5 0
    s.wordsWait (8 * min (c.word 3).toNat 64) = false →
    (q.run ≠ .running ∨ q.phaseOpen = false ∨ (q.phaseClosed.isSome = true ∧ (q.graphAt g).used = false) →
      Reply s .graph n 26 0 0 (Bare s n)) ∧
    (q.run = .running → q.phaseOpen = true → (q.graphAt g).used = true → (q.graphAt g).closed = true → Reply s .graph n 3 0 0 (Bare s n)) ∧
    (q.run = .running → q.phaseOpen = true → (q.graphAt g).used = true → (q.graphAt g).closed = false → (q.graphAt g).next ≤ 64 →
      (c.word 1).getLsbD 8 = true → c.word 2 = 0 → c.word 3 = 0 → c.word 7 = 0 →
      Reply s .graph n 0 0 0 fun t => KeepsBut s t (nextEntry s n) 32 ∧ ∃ q', PartAs s t c.part q' ∧
        q'.graphAt g = { q.graphAt g with closed := true, used := decide ((q.graphAt g).unfinished ≠ 0) }) ∧
    (q.run = .running → q.phaseOpen = true → q.phaseClosed = none → c.word 3 = 1 → c.word 7 = 0 → (q.graphAt g).used = false →
      (c.word 2).toNat % 64 = 0 → ∀ pa l, ReadsAt s c.part q.board (c.word 2).toNat 64 pa →
      let d := s.desc pa
      (Desc.bad d q = true ∨ Desc.preds d ≠ [] → Reply s .graph n 3 0 0 (Bare s n)) ∧
      (Desc.bad d q = false → Desc.preds d = [] → q.freeEntry = some l → q.phaseCancelled = false → Reply s .graph n 0 0 0 fun t =>
        KeepsBut s t (nextEntry s n) 32 ∧ (∀ k, t.watch k = s.watch k) ∧ ∃ q', PartAs s t c.part q' ∧
        (q'.graphAt g).used = true ∧ (q'.graphAt g).next = 1 ∧ (q'.graphAt g).unfinished = 1 ∧
        (q'.graphAt g).closed = (c.word 1).getLsbD 8 ∧
        (q'.launchAt l).used = true ∧ (q'.launchAt l).started = true ∧ (q'.launchAt l).desc = d ∧ (q'.launchAt l).graph = g ∧
        (q'.launchAt l).counter = Desc.n d ∧ (q'.launchAt l).toPlace = Desc.cursors d q) ∧
      (Desc.bad d q = false → Desc.preds d = [] → q.freeEntry = some l → q.phaseCancelled = true → Desc.cell d = 0 →
        Reply s .graph n 0 0 0 fun t => KeepsBut s t (nextEntry s n) 32 ∧ ∃ q', PartAs s t c.part q' ∧
          (q'.launchAt l).used = false ∧ (q'.launchAt l).gen = ((q.launchAt l).gen + 1) % 2 ^ 16))) ∧
  (∀ (s : State) n q, ToPart s 0x08 n [3, ones] q → s.opnd.cmd.word 1 = 0 →
    let p := s.opnd.cmd.part
    let h := s.opnd.cmd.word 2
    let l := bits h 7 0
    (bits h 63 24 ≠ 0 → Reply s .fwCancel n 0 2 0 (Bare s n)) ∧
    (bits h 63 24 = 0 → (q.launchAt l).used = false ∨ (q.launchAt l).gen ≠ bits h 23 8 → Reply s .fwCancel n 0 1 0 (Bare s n)) ∧
    (bits h 63 24 = 0 → (q.launchAt l).used = true → (q.launchAt l).gen = bits h 23 8 → Reply s .fwCancel n 0 0 0 fun t =>
      t.cores = s.cores ∧ ∃ q', t.part? p = some q' ∧
        ((q.launchAt l).started = true → (q'.launchAt l).cancelled = true ∧ PartAs s t p q') ∧
        ((q.launchAt l).started = true → (q.launchAt l).cancelled = false → (q'.launchAt l).toPlace = [] ∧
          (q'.launchAt l).counter = (q.launchAt l).counter - (q.launchAt l).unplaced q l ∧
          q'.notices = q.notices ++ [⟨[(l, (q.launchAt l).gen)], s.bell⟩]) ∧
        ((q.launchAt l).cancelled = true → t.parts = s.parts) ∧
        ((q.launchAt l).started = false → (q.launchAt l).cancelled = false → (q'.launchAt l).used = false ∧
          (q'.launchAt l).gen = ((q.launchAt l).gen + 1) % 2 ^ 16 ∧ q'.notices = q.notices))) ∧
  (∀ (s : State) n q, ToPart s 0x0C n [ones, ones] q →
    let c := s.opnd.cmd
    let can := q.run = .running ∧ q.phaseOpen = true ∧ q.phaseClosed = none ∧ ((q.graphAt 0).used = false ∨ (q.graphAt 0).closed = false)
    (¬can → s.wordsWait 8 = false → Reply s .notify n 26 0 0 (Bare s n)) ∧
    (can → (c.word 1).toNat % 4096 = 0 → (c.word 2).toNat % 64 = 0 → ∀ pa e da l,
      s.engPlace c.part q.board false (c.word 1).toNat = .ok (.mem pa e) → ReadsAt s c.part q.board (c.word 2).toNat 64 da →
      let d := s.desc da
      let off := if (q.graphAt 0).used then (q.graphAt 0).cancelled else q.phaseCancelled
      Desc.bad d q = false → (∀ x ∈ q.pages, x.2.pa ≠ pa) → q.freeEntry = some l → Apart s n pa 24 →
      (off = true → Desc.cell d = 0 → Reply s .notify n 0 (handleOf l (q.launchAt l).gen) 0 fun t => ∃ q', PartAs s t c.part q' ∧
        (q'.launchAt l).used = false ∧ ∀ x ∈ q'.pages, x.2.launch ≠ l) ∧
      (off = false → Reply s .notify n 0 (handleOf l (q.launchAt l).gen) 0 fun t => (∀ k, t.watch k = s.watch k) ∧
        t.homeWord pa = 0 ∧ t.homeWord (pa + 8) = 0 ∧ t.homeWord (pa + 16) = handleOf l (q.launchAt l).gen ∧
        ∃ q', PartAs s t c.part q' ∧ (q'.launchAt l).used = true ∧ (q'.launchAt l).notify = true ∧
          (q'.launchAt l).counter = Desc.n d ∧ (q'.launchAt l).toPlace = [] ∧ ⟨pa, l, Desc.n d, 0, []⟩ ∈ q'.pages.map Prod.snd)))

/-- Page tables, types, pairs, keeping regions, splits (R134, R306, R309, R337, R362, R365, R367, R405).
MAP and UNMAP wait for the accesses of their partition that a link or a retry holds; with none on its way they write the entry of the level
that their address names, UNMAP 0, and drop every translation of that address. MAP of a KEEP page takes the writer limit of its region (log 13). TYPE installs an image, BAD where it
is not aligned (log 62). PAIR makes and unmakes a pair, INUSE where it is there, BAD where a side is in a reserved range or a keeping window (log 26). KLIST counts and lists the multi-value cells, of each home 65,536 at most (logs 22, 58); KRESET frees the
region's slots between phases, every cell with the initial dot. SPLIT arms the switch at its time, at a phase boundary of every partition
that uses the domain (log 27). -/
def Sys2Proof.Claims.MemoryCommands : Prop :=
  (∀ (s : State) n q i op masks, ((i = Instr.map ∧ op = 0x09 ∧ masks = [ones, ones, 7]) ∨ (i = .unmap ∧ op = 0x0A ∧ masks = [ones, ones, 7])) →
    ToPart s op n masks q →
    let c := s.opnd.cmd
    let va := (c.word 1).toNat
    let level := (c.word 3).toNat
    let good := va < 2 ^ 56 ∧ level ≤ 4 ∧ va % levelSpan level = 0 ∧ (i = .map → s.entryFits level (c.word 2) = true)
    (s.mapWaits = true → exec i s = .next s) ∧
    (s.mapWaits = false → ¬good ∨ s.tableAt va level 4 q.root = none → Reply s i n 3 0 0 (Bare s n)) ∧
    (∀ table, good → s.tableAt va level 4 q.root = some table → s.keepq = [] → s.bankq = [] → s.atomq = [] → s.linkLoads = [] →
      (∀ k, (s.watch k).path = []) → (∀ k, (s.coreAt k).wcb = []) →
      let a := table + 8 * vaIndex level va
      NoPage s a 8 → Apart s n a 8 → Reply s i n 0 0 0 fun t => (∀ k, t.watch k = s.watch k) ∧
        t.homeWord a = (if i = .map then c.word 2 else 0) ∧
        (∀ x, (x < a ∨ a + 8 ≤ x) → (x < nextEntry s n ∨ nextEntry s n + 32 ≤ x) → t.home x = s.home x) ∧
        (i = .map → (c.word 2).getLsbD 1 = true → pteType (c.word 2) = 1 → 1 ≤ s.opnd.c → s.opnd.c ≤ 64 →
          (t.region c.part (pteAux (c.word 2))).limit = s.opnd.c) ∧
        ∀ k, tlbFind (t.coreAt k).utlb c.part va = none ∧ tlbFind (t.boardAt k).tlb c.part va = none)) ∧
  (∀ (s : State) n q, ToPart s 0x0B n [0xFF, ones] q →
    let c := s.opnd.cmd
    ((c.word 2).toNat % 8 ≠ 0 → s.wordsWait 8 = false → Reply s .type n 3 0 0 (Bare s n)) ∧
    (∀ pa, (c.word 2).toNat % 8 = 0 → ReadsAt s c.part q.board (c.word 2).toNat 64 pa →
      let w := fun j => if j < 8 then s.homeWord (pa + 8 * j) else 0
      (imageOk w = false → Reply s .type n 3 0 0 (Bare s n)) ∧
      (imageOk w = true → Reply s .type n 0 0 0 fun t => KeepsBut s t (nextEntry s n) 32 ∧ ∃ q', PartAs s t c.part q' ∧
        q'.types.get none (c.word 1).toNat = some ⟨c.word 2, w 0, w 1⟩ ∧
        ∀ j, j ≠ (c.word 1).toNat → q'.types.get none j = q.types.get none j))) ∧
  (∀ (s : State) n q, ToPart s 0x0D n [0x13F, ones, ones, ones, ones] q →
    let c := s.opnd.cmd
    let j := bits (c.word 1) 5 0
    let undo := (c.word 1).getLsbD 8
    let there := s.pair? c.part j
    let side := fun (w : Word) => w.toNat + (c.word 3).toNat ≤ 2 ^ 52 ∧
      ∀ i, i < (c.word 3).toNat / 2 ^ 16 → s.paKind (w.toNat + i * 2 ^ 16) ≠ .reserved ∧ ∀ b o, s.paKind (w.toNat + i * 2 ^ 16) ≠ .window b o
    let good := (c.word 3 ≠ 0 ∧ ∀ m, 2 ≤ m → m ≤ 5 → (c.word m).toNat % 2 ^ 16 = 0) ∧ side (c.word 4) ∧ side (c.word 5)
    (undo = false → there.isSome = true → Reply s .pair n 9 0 0 (Bare s n)) ∧
    (undo = false → there = none → ¬good → Reply s .pair n 3 0 0 (Bare s n)) ∧
    (undo = false → there = none → good → Reply s .pair n 0 0 0 fun t => KeepsBut s t (nextEntry s n) 32 ∧
      t.pair? c.part j = some ⟨c.word 2, (c.word 3).toNat, (c.word 4).toNat, (c.word 5).toNat, none⟩) ∧
    (undo = true → there = none → Reply s .pair n 3 0 0 (Bare s n)) ∧
    (∀ r, undo = true → there = some r → (∀ m, 2 ≤ m → m ≤ 5 → c.word m = 0) →
      (r.flip.isSome = true → Reply s .pair n 9 0 0 (Bare s n)) ∧
      (r.flip = none → Reply s .pair n 0 0 0 fun t => t.pair? c.part j = none))) ∧
  (∀ (s : State) n q, ToPart s 0x0E n [0xFFF, 0, 0, 0, 0, 0, ones] q →
    let c := s.opnd.cmd
    let r := (c.word 1).toNat
    let l := s.keptLists c.part r
    let all := s.multiCells c.part r
    let at' := fun (l : List Nat) h => (l.filter fun a => s.keepHome a = h).length
    (∀ h, at' l h ≤ 65536) ∧ (∀ a ∈ l, a ∈ all) ∧ ((∀ h, at' all h ≤ 65536) → ∀ a ∈ all, a ∈ l) ∧
    (bufferOk (c.word 7) = false → Reply s .klist n 3 0 0 (Bare s n)) ∧
    (bufferOk (c.word 7) = true → NoPage s (hostAddr (c.word 7).toNat) (8 * l.length) → Apart s n (hostAddr (c.word 7).toNat) (8 * l.length) →
      Reply s .klist n 0 (BitVec.ofNat 64 l.length) (if (s.region c.part r).scan then 1 else 0) fun t => t.parts = s.parts ∧
        ∀ i a, l[i]? = some a → t.homeWord (hostAddr (c.word 7).toNat + 8 * i) = BitVec.ofNat 64 a)) ∧
  (∀ (s : State) n q, ToPart s 0x0F n [0xFFF] q →
    let c := s.opnd.cmd
    let r := (c.word 1).toNat
    let m := (s.multiCells c.part r).length
    (q.phaseOpen = true ∨ q.run ≠ .running → Reply s .kreset n 26 0 0 (Bare s n)) ∧
    (q.phaseOpen = false → q.run = .running → m ≠ 0 → Reply s .kreset n 26 (BitVec.ofNat 64 m) 0 (Bare s n)) ∧
    (q.phaseOpen = false → q.run = .running → m = 0 → Reply s .kreset n 0 0 0 fun t =>
      t.region c.part r = { Region.fresh with limit := (s.region c.part r).limit } ∧
      (∀ a ∈ (s.region c.part r).cells, t.cells.get [] a = []) ∧
      (∀ k i, i < 4 → k / 4 < 4096 → q.rods.contains (rodOf (k / 4)) = true →
        ¬(((t.watch k).enrol i).valid = true ∧ ((t.watch k).enrol i).region = r)) ∧
      ∀ x ∈ t.clocks, ¬(x.part = c.part ∧ x.region = r))) ∧
  (∀ (s : State) n q, ToPart s 0x10 n [63, 63, ones, ones, ones, ones] q →
    let c := s.opnd.cmd
    let d := (c.word 1).toNat
    let e := (c.word 2).toNat
    let old := s.domains.get Domain.fresh d
    let moved := (List.range 64).filter (c.word 3).getLsbD
    let m := s.homeNat (hostAddr (c.word 4).toNat) 8
    let gs := (s.hostWords (c.word 4 + 8) m).map BitVec.toNat
    let masks := (s.hostWords (c.word 5) 12).map BitVec.toNat
    let busy := ∃ x ∈ s.parts, ∃ o, x.2 = some o ∧ o.domain = d ∧ o.phaseOpen = true
    let several := ∃ v ∈ s.cells, (v.1 / 2 ^ 30, d) ∈ s.granules ∧ 1 < v.2.length
    let good := q.domain = d ∧ d ≠ e ∧ (s.domains.get Domain.fresh e).members = [] ∧ (∀ g ∈ s.granules, g.2 ≠ e) ∧
      (∀ x ∈ moved, x ∈ old.members) ∧ moved ≠ [] ∧ m ≠ 0 ∧ (∀ g ∈ gs, (g, d) ∈ s.granules) ∧ s.bell + 200 ≤ (c.word 6).toNat
    m ≤ 2048 → ∀ x y, domainOf (old.members.filter fun x => !moved.contains x) (masks.take 6) = some x → domainOf moved (masks.drop 6) = some y →
    (¬good → Reply s .split n 3 0 0 (Bare s n)) ∧
    (good → busy ∨ s.split.isSome = true ∨ several → Reply s .split n 26 0 0 (Bare s n)) ∧
    (good → ¬busy → s.split = none → ¬several → Holds s .split fun t =>
      t.split = some ⟨d, e, x, y, gs, (c.word 6).toNat, c.seq⟩ ∧ t.parts = s.parts ∧ t.cores = s.cores ∧
        ∀ v ∈ t.slices, ∀ z ∈ v.2.tags, (z.1 * 64 / 2 ^ 30, d) ∉ s.granules))

/-- The commands to a partition (R134, R309, R337, R365, R403 to R405): their form, and what those about its work, its memory and its
tables do. Where the rules leave a choice, it is the model's (logs 9, 13, 22 to 27, 58, 62). -/
def Obligations.PartitionCommands : Prop := CommandForm ∧ WorkCommands ∧ MemoryCommands

/-- Switches, stops, frames, and the commands to the device (R383 to R393, R400, R405, R408 to R410; the layouts of their lists, the part
number of a device command, the frames that fit, and where a signature stands are the model's choice, logs 20 to 23). SWITCH arms at a time at least 200 ticks ahead and reserves frames; RESUME arms the way back; STOP stops every core with
reason 4, whatever stands in its T; DISCARD returns frames; DUSKADD adds to the dusk; FRAMES adds frames. QUERY lists; ATTEST answers with the length of its report, which its signature under the identity
key follows;
CFGWRITE and EXTLOAD take what is signed, and SIGN what is not; LINKRESET brings a link up. Opcodes from 0x80 on are BAD where no extension is
loaded; with one loaded, the model stops by name (log 44). -/
def Obligations.StopAndDeviceCommands : Prop :=
  (∀ (s : State) n q, ToPart s 0x11 n [ones] q →
    let c := s.opnd.cmd
    let t0 := (c.word 1).toNat
    let need := s.framesOf q true
    (q.run ≠ .running → Reply s .switch n 26 0 0 (Bare s n)) ∧
    (q.run = .running → q.armed.isSome = true → Reply s .switch n 9 0 0 (Bare s n)) ∧
    (q.run = .running → q.armed = none → t0 < s.bell + 200 → Reply s .switch n 3 0 0 (Bare s n)) ∧
    (q.run = .running → q.armed = none → s.bell + 200 ≤ t0 → s.fw.frames < need → Reply s .switch n 27 0 0 (Bare s n)) ∧
    (q.run = .running → q.armed = none → s.bell + 200 ≤ t0 → need ≤ s.fw.frames →
      Reply s .switch n 0 (BitVec.ofNat 64 need) 0 fun t => t.cores = s.cores ∧ t.fw.frames = s.fw.frames - need ∧
        PartAs s t c.part { q with armed := some (t0, c.seq), reserved := need })) ∧
  (∀ (s : State) n q, ToPart s 0x12 n [ones] q →
    let c := s.opnd.cmd
    let t0 := (c.word 1).toNat
    let can := (q.run = .switched ∧ q.short = 0) ∨ q.run = .stopped 2 ∨ q.run = .stopped 4
    (¬can → Reply s .resume n 26 0 0 (Bare s n)) ∧
    (can → q.resume.isSome = true → Reply s .resume n 9 0 0 (Bare s n)) ∧
    (can → q.resume = none → t0 < s.bell + 200 → Reply s .resume n 3 0 0 (Bare s n)) ∧
    (can → q.resume = none → s.bell + 200 ≤ t0 → Reply s .resume n 0 0 0 fun t => t.cores = s.cores ∧
      PartAs s t c.part { q with resume := some (t0, c.seq) })) ∧
  (∀ (s : State) n q, ToPart s 0x13 n [ones] q →
    (q.run ≠ .running → Reply s .stop n 26 0 0 (Bare s n)) ∧
    (q.run = .running → Reply s .stop n 0 0 0 fun t => PartAs s t s.opnd.cmd.part { q with run := .stopped 4 } ∧
      ∀ c ∈ q.cores, (t.coreAt c).issuing = none ∧
        (t.coreAt c).hcause = BitVec.ofNat 64 (4 * 2 ^ 36 + q.lowest * 2 ^ 24) ∧ (t.coreAt c).hbell = BitVec.ofNat 64 s.bell ∧
        ∀ i, i < 4 → (s.watch (c * 4 + i)).st ≠ .free →
          t.watch (c * 4 + i) = { s.watch (c * 4 + i) with prior := (s.watch (c * 4 + i)).st, st := .halted })) ∧
  (∀ (s : State) n q, ToPart s 0x14 n [] q →
    let can := q.dumped = true ∧ (q.held ≠ 0 ∨ q.short ≠ 0)
    (¬can → Reply s .discard n 26 0 0 (Bare s n)) ∧
    (can → Reply s .discard n 0 (BitVec.ofNat 64 q.held) 0 fun t => t.fw.frames = s.fw.frames + q.held ∧
      PartAs s t s.opnd.cmd.part { q with held := 0, short := 0 })) ∧
  (∀ (s : State) n q, ToPart s 0x15 n [ones] q →
    let d := (q.dusk + (s.opnd.cmd.word 1).toNat) % 2 ^ 64
    (q.job = none → Reply s .duskadd n 26 0 0 (Bare s n)) ∧
    (q.job.isSome = true → Reply s .duskadd n 0 (BitVec.ofNat 64 d) 0 fun t => PartAs s t s.opnd.cmd.part { q with dusk := d })) ∧
  (∀ (s : State) n, ToDevice s 0x16 n [ones, ones] →
    let a := (s.opnd.cmd.word 1).toNat
    let m := (s.opnd.cmd.word 2).toNat
    let good := a % 4096 = 0 ∧ m ≠ 0 ∧ a + 4096 * m ≤ 12 * 2 ^ 36 ∧ a % 2 ^ 36 + 4096 * m ≤ 59 * 2 ^ 30
    (¬good → Reply s .frames n 3 0 0 (Bare s n)) ∧
    (good → (∀ e ∈ s.parts, ∀ q, s.part? e.1 = some q → q.short = 0) →
      Reply s .frames n 0 (BitVec.ofNat 64 (s.fw.frames + m)) 0 fun t => t.fw.frames = s.fw.frames + m ∧ t.cores = s.cores)) ∧
  (∀ (s : State) n, ToDevice s 0x01 n [3, 63, 0, 0, 0, 0, ones] →
    let c := s.opnd.cmd
    let a := hostAddr (c.word 7).toNat
    let d := s.domains.get Domain.fresh (c.word 2).toNat
    let lists := fun (l : List Word) => NoPage s a (8 * l.length) → Reply s .query n 0 (BitVec.ofNat 64 (8 * l.length)) 0 fun t => t.parts = s.parts ∧ t.cores = s.cores ∧
      (Apart s n a (8 * l.length) → ∀ (i : Nat) w, l[i]? = some w → t.homeWord (a + 8 * i) = w)
    (bufferOk (c.word 7) = false ∨ (c.word 1 ≠ 1 ∧ c.word 2 ≠ 0) → Reply s .query n 3 0 0 (Bare s n)) ∧
    (bufferOk (c.word 7) = true →
      (c.word 1 = 0 → c.word 2 = 0 → lists s.enabledParts) ∧
      (c.word 1 = 1 → lists (BitVec.ofNat 64 d.c :: (d.members ++ d.masks).map (BitVec.ofNat 64))) ∧
      (c.word 1 = 2 → c.word 2 = 0 → lists ((List.range 256).map fun i => packWord ((List.range 8).map fun j =>
        (s.granules.get 255 (8 * i + j), 8)))) ∧
      (c.word 1 = 3 → c.word 2 = 0 → lists (s.lnk :: (List.range 12).map fun n => lossRecord (s.linkAt n) n)))) ∧
  (∀ (s : State) n, ToDevice s 0x17 n [ones, ones, ones, ones, 0, 0, ones] →
    let c := s.opnd.cmd
    let words := fun (l : List Word) => l.flatMap fun w => leBytes 8 w.toNat
    let digests := [sm3 Config.rom, s.fw.record.digest] ++ s.fw.exts
    let body := words [c.word 1, c.word 2, c.word 3, c.word 4] ++ digests.flatMap (fun d => beBytes 32 d.toNat) ++
      words ([BitVec.ofNat 64 s.fw.fwver, BitVec.ofNat 64 s.fw.record.version] ++ s.enabledParts ++ [BitVec.ofNat 64 s.bell])
    let all := body ++ signatureOf body s.signNumbers ++ s.fw.record.cert
    (bufferOk (c.word 7) = false → Reply s .attest n 3 0 0 (Bare s n)) ∧
    (bufferOk (c.word 7) = true → NoPage s (hostAddr (c.word 7).toNat) all.length → Apart s n (hostAddr (c.word 7).toNat) all.length →
      Reply s .attest n 0 (BitVec.ofNat 64 all.length) 0 fun t => t.parts = s.parts ∧ t.cores = s.cores ∧
        t.homeBytes (hostAddr (c.word 7).toNat) all.length = all)) ∧
  (∀ (s : State) n, ToDevice s 0x18 n [ones, ones] →
    let l := s.hostImage s.opnd.cmd
    (signatureOk l = false → Reply s .cfgwrite n 24 0 0 (Bare s n)) ∧
    (signatureOk l = true → (recordOf l).version ≤ s.fw.flash.version → Reply s .cfgwrite n 3 0 0 (Bare s n)) ∧
    (signatureOk l = true → s.fw.flash.version < (recordOf l).version →
      Reply s .cfgwrite n 0 0 0 fun t => t.fw.flash = recordOf l ∧ t.fw.record = s.fw.record ∧ t.parts = s.parts)) ∧
  (∀ (s : State) n, ToDevice s 0x19 n [ones, ones] →
    let l := s.hostImage s.opnd.cmd
    (signatureOk l = false → Reply s .extload n 24 0 0 (Bare s n)) ∧
    (signatureOk l = true → Reply s .extload n 0 0 0 fun t => t.fw.exts = s.fw.exts ++ [sm3 l] ∧ t.fw.images = s.fw.images ++ [l] ∧ t.parts = s.parts)) ∧
  (∀ (s : State) n, ToDevice s 0x1A n [15] →
    let m := (s.opnd.cmd.word 1).toNat
    (12 ≤ m → Reply s .linkreset n 3 0 0 (Bare s n)) ∧
    (m < 12 → Reply s .linkreset n 0 0 0 fun t => t.parts = s.parts ∧ (t.linkAt m).up = true ∧
      ((s.linkAt m).up = false → (t.linkAt m).lost = 0 ∧ (t.linkAt m).retrain = none) ∧
      ∀ j, j < 12 → j ≠ m → (t.linkAt j).up = (s.linkAt j).up ∧ (t.linkAt j).retrain = (s.linkAt j).retrain ∧
        (t.linkAt j).lost = (s.linkAt j).lost ∧ (t.linkAt j).lostFirst = (s.linkAt j).lostFirst)) ∧
  (∀ (s : State) n op, Next s op n → 0x80 ≤ op → op ≤ 0xFF →
    (s.fw.exts = [] → Reply s .extensionCommand n 3 0 0 (Bare s n)) ∧
    (s.fw.exts ≠ [] → exec .extensionCommand s = .refused (.extensionOwned op)))

/-! ### The outside: reset, registers, links, host and peers -/

namespace Sys2Proof.Claims
open Sys2Proof.Machine

/-- An access from outside has returned its word, or poison (R395, R396), and no more than which lines are held where changes. -/
def Heard (s t : State) (v : Option Word) : Prop :=
  t.fw = { s.fw with readout := v.getD 0, poison := v.isNone } ∧ t.mem = s.mem ∧ t.cells = s.cells ∧ t.parts = s.parts ∧ t.cores = s.cores

/-- The registers of the block, as the host reads them (R395). -/
def block (s : State) : List (Nat × Word) :=
  [(0x00, packWord [(s.fw.part, 16), (s.fw.rev, 16), (s.fw.fwver, 32)]), (0x08, BitVec.ofNat 64 (s.fw.fwst % 4)), (0x10, s.fw.cqb),
    (0x18, s.fw.cpb), (0x20, BitVec.ofNat 64 (s.fw.cqt % 2 ^ 32)), (0x28, BitVec.ofNat 64 (s.fw.fseen % 2 ^ 32)),
    (0x30, BitVec.ofNat 64 (s.fw.cph % 2 ^ 32)), (0x38, BitVec.ofNat 64 (s.fw.fcomp % 2 ^ 32)), (0x40, s.lnk)]

end Sys2Proof.Claims

/-- Reset, the register block, notify pages and links (R35, R38, R144, R395, R399, R400, R404, R406, R407). `powerOnReset`: bell time 0, or the
peers' greatest; memory lists nothing, no partition stands, the record in flash is in force with those of its extensions whose images are signed,
and a record that does not boot leaves the boot failed (what boot leaves besides is log 20). `firmwareRestart`: firmware shows that it restarts; then
the last completion is written again where it lies after `cph`, and a command taken completes with RESTARTED. `registerWrite`: the four writable
registers, and what every register reads; another offset reads 0 and takes no write (log 22). `ringWrite`: a notify page admits its next indices, for
each write of its ring field once. `linkRetrain`, `linkReturn`, `linkDown`, of which the last comes due 200 µs after lock was lost; links 0 to 3 are one host
link (log 28). -/
def Obligations.ResetAndLinks : Prop :=
  (∀ (s : State), ∃ t, exec .powerOnReset s = .next t ∧ t.mem = [] ∧ t.cells = [] ∧ t.cores = [] ∧ t.boards = [] ∧ t.parts = [] ∧
    t.stores = [] ∧ t.msgs = [] ∧ t.chains = [] ∧ t.fw.record = s.fw.flash ∧ t.fw.flash = s.fw.flash ∧ t.fw.fseen = 0 ∧
    t.fw.fcomp = 0 ∧ t.fw.cqb = 0 ∧ t.fw.cpb = 0 ∧ t.fw.frames = 0 ∧
    (s.fw.flash.boots = false → t.fw.fwst = 2 ∧ t.bell = 0) ∧
    (s.fw.flash.boots = true → t.fw.fwst = 1 ∧ t.clock = s.fw.flash.clock ∧ t.fw.images = s.fw.images ∧
      (∀ d, d ∈ t.fw.exts ↔ d ∈ s.fw.flash.exts ∧ ∃ l ∈ s.fw.images, sm3 l = d ∧ signatureOk l = true) ∧
      t.bell = (if (BitVec.ofNat 32 s.opnd.c) = 0 then 0 else s.opnd.v.toNat) ∧
      ∀ i, i < 12 → t.linkAt i = ⟨(BitVec.ofNat 12 s.opnd.b).getLsbD i, none, 0, 0, 0, 0⟩)) ∧
  (∀ (s : State) c n, (s.fw.fwst = 1 → exec .firmwareRestart s = .next { s with fw := { s.fw with fwst := 3 } }) ∧
    (s.fw.fwst ≠ 1 → s.fw.fwst ≠ 3 ∨ s.hostWaits = true → exec .firmwareRestart s = .next s) ∧
    (s.fw.fwst = 3 → s.fw.log = [] → s.fw.taken = [c] → RingRoom { s with fw := { s.fw with fwst := 1 } } n →
      ∃ t, exec .firmwareRestart s = .next t ∧ t.fw.fwst = 1 ∧
        Answered s t n c 25 0 0 ∧ t.fw.taken = [] ∧ t.parts = s.parts ∧ t.cores = s.cores) ∧
    (∀ e : Completion, s.fw.fwst = 3 → s.fw.log = [e] → s.fw.taken = [] → s.fw.waiting = [] → ringSize s.fw.cpb = some n → s.fw.fcomp < 2 ^ 32 →
      s.fw.cph < 2 ^ 32 → (s.fw.cph = s.fw.fcomp → s.hostWaits = false →
        exec .firmwareRestart s = .next { s with fw := { s.fw with fwst := 1 } }) ∧ (s.fw.cph ≠ s.fw.fcomp → Still s → (∀ l, l < 4 → (s.linkAt l).up = true ∧ (s.linkAt l).retrain = none) →
      let a := hostAddr (bits s.fw.cpb 63 12 * 2 ^ 12 + 32 * ((s.fw.fcomp + 2 ^ 32 - 1) % n))
      NoPage s a 32 →
      ∃ t, exec .firmwareRestart s = .next t ∧ t.fw = { s.fw with fwst := 1, msix := s.fw.msix + 1 } ∧ KeepsBut s t a 32 ∧
        t.homeWord a = BitVec.ofNat 64 (e.status % 2 ^ 16 + s.fw.fcomp * 2 ^ 32) ∧ t.homeWord (a + 16) = e.r2 ∧ t.homeWord (a + 24) = e.r3))) ∧
  (∀ (s : State), s.opnd.c = 1 →
    (∀ e ∈ block s, e.1 = s.opnd.a → ∃ t, exec .registerWrite s = .next t ∧ Heard s t (some e.2)) ∧
    ∃ t w, exec .registerWrite s = .next t ∧ Heard s t (some w)) ∧
  (∀ (s : State), s.fw.waiting = [] → s.opnd.c ≠ 1 →
    let v := s.opnd.v
    let becomes := fun (f : Firmware) => exec .registerWrite s = .next { s with fw := f }
    (s.opnd.a = 0x10 → becomes { s.fw with cqb := v &&& ~~~0xFF0 }) ∧ (s.opnd.a = 0x18 → becomes { s.fw with cpb := v &&& ~~~0xFF0 }) ∧
    (s.opnd.a = 0x20 → becomes { s.fw with cqt := v.toNat % 2 ^ 32 }) ∧ (s.opnd.a = 0x30 → becomes { s.fw with cph := v.toNat % 2 ^ 32 }) ∧
    (s.opnd.a ≠ 0x10 → s.opnd.a ≠ 0x18 → s.opnd.a ≠ 0x20 → s.opnd.a ≠ 0x30 → becomes s.fw)) ∧
  (∀ (s : State) q g, s.part? s.opnd.a = some q → q.pages = [(s.opnd.b, g)] → g.pa = s.opnd.b → g.seen = [] → s.opnd.c = 1 →
    exec .ringWrite s = .next s) ∧
  (∀ (s : State) q g, s.part? s.opnd.a = some q → s.opnd.c ≠ 1 → q.pages = [(s.opnd.b, g)] → g.pa = s.opnd.b → g.seen = [] →
    Still s → (∀ x ∈ s.parts, ∀ r, x.2 = some r → (x.1 = s.opnd.a ∧ r = q) ∨ r.pages = []) →
    let v := q.launchAt g.launch
    let w := s.opnd.v.toNat
    let upto := min w (min (g.adm + 63) g.n)
    (w ≤ g.adm → ∃ t, exec .ringWrite s = .next t ∧ t.homeWord g.pa = s.opnd.v ∧ KeepsBut s t g.pa 8 ∧
      PartAs s t s.opnd.a q) ∧
    (g.adm < w → g.adm ≤ g.n → v.notify = true → v.used = true → v.cancelled = false → ∃ t q', exec .ringWrite s = .next t ∧
      (∀ k, t.watch k = s.watch k) ∧ PartAs s t s.opnd.a q' ∧ q'.pages = [(g.pa, { g with adm := upto })] ∧
      t.homeWord g.pa = s.opnd.v ∧ t.homeWord (g.pa + 8) = BitVec.ofNat 64 upto ∧
      ∃ l, q'.admitted = q.admitted ++ l ∧ l.length = upto - g.adm ∧ ∀ i e, l[i]? = some e →
        e.2.handler = Desc.handler v.desc ∧ e.2.kind = .notify ∧
        ∀ j, j < 4 → Vector.at0 e.2.args j = s.homeWord (g.pa + 64 * ((g.adm + i) % 63 + 1) + 8 * j))) ∧
  (∀ (s : State), s.opnd.a < 12 → let l := s.linkAt s.opnd.a
    (∃ t, exec .linkRetrain s = .next t ∧ t.mem = s.mem ∧ t.fw = s.fw ∧
      t.linkAt s.opnd.a = (if l.up ∧ l.retrain = none then { l with retrain := some s.bell } else l)) ∧
    (l.retrain = none → exec .linkReturn s = .next s ∧ exec .linkDown s = .next s) ∧
    (∀ t0, l.retrain = some t0 →
      (t0 + 20000 < s.bell → exec .linkReturn s = .next s) ∧
      (s.bell ≤ t0 + 20000 → s.linkLoads = [] → s.adds = [] → s.fw.waiting = [] → ∃ t, exec .linkReturn s = .next t ∧ t.mem = s.mem ∧
        t.linkAt s.opnd.a = { l with retrain := none }) ∧
      (s.bell < t0 + 20000 → s.opnd.c ≠ 1 → exec .linkDown s = .next s) ∧
      (t0 + 20001 ≤ s.bell → (0, ev .linkDown s.opnd.a) ∈ s.timers) ∧
      (t0 + 20000 ≤ s.bell ∨ s.opnd.c = 1 → s.linkLoads = [] → s.adds = [] → s.fw.waiting = [] → ∃ t, exec .linkDown s = .next t ∧ t.mem = s.mem ∧
        t.linkAt s.opnd.a = { l with up := false, retrain := none, lostFirst := l.acked, lost := (l.sent + 2 ^ 32 - l.acked) % 2 ^ 32 } ∧
        (∀ j, j < 12 → j ≠ s.opnd.a → t.linkAt j =
          if s.opnd.a < 4 ∧ j < 4 then { s.linkAt j with acked := (s.linkAt j).sent } else s.linkAt j) ∧
        t.fw.reports = s.fw.reports ++ [(0x15, 255, (lossRecord (t.linkAt s.opnd.a) s.opnd.a).toNat)] ∧
        ∀ f ∈ t.stores, f.applied = false → ∀ e ∈ f.bytes, s.opnd.a ∉ s.linksOf e.1)))

/-- The host and the peers in device memory (R349, R363, R396 to R398, R401, R402), `hostSnoop` and `peerLoad` among them. A host or remote access
outside the host-visible granules is poisoned and changes nothing. Within, a read has the word at the home; a write changes its bytes
and no others, and its KEEP cells have then one value, unless a cell of them held more, when it is poisoned; a request routed by the mapping
before a split to a slice that is its home no longer waits to be replayed, and later requests of its requester to its line wait for it. The host
reaches nothing while its link retrains. A peer's core loads, stores and performs atomics at this home, as the event's command says (log 45); a
request to an address that is not there stops the machine by name (log 45). The operand c names the slice that a request was routed to (log 27); what a
read returns, or its poison, is `readout` (log 20). -/
def Obligations.OutsideAccesses : Prop :=
  (∀ (s : State) i, i = Instr.cxlMemRead ∨ i = .cxlMemWrite ∨ i = .rdmaWrite →
    let a := s.opnd.a / 8 * 8
    let r := if i = .rdmaWrite then 2 else 0
    let reaches := i = .rdmaWrite ∨ s.hostWaits = false
    let held := ∃ x ∈ s.remaps, x.requester = r ∧ x.addr / 64 = a / 64
    let stale := s.before.1 ≠ [] ∧ s.opnd.c ≠ 0 ∧ s.opnd.c - 1 = s.homeBefore a ∧ s.opnd.c - 1 ≠ s.homeSlice a
    (¬reaches → exec i s = .next s) ∧
    (reaches → s.visible a = false → ∃ t, exec i s = .next t ∧ Heard s t none) ∧
    (reaches → s.visible a = true → held → exec i s = .next s) ∧
    (reaches → s.visible a = true → ¬held → stale →
      exec i s = .next { s with remaps := s.remaps ++ [⟨r, a, if i = .cxlMemRead then .read else .write s.written⟩] }) ∧
    (reaches → s.visible a = true → ¬held → ¬stale → Still s → NoPage s (a / 64 * 64) 64 →
      (i = .cxlMemRead → ∃ t, exec i s = .next t ∧ Heard s t (if s.poisoned a 8 then none else some (s.homeWord a))) ∧
      (i ≠ .cxlMemRead → ((∃ e ∈ s.written, 1 < (s.cellVals (e.1 / 4 * 4)).length) → ∃ t, exec i s = .next t ∧ Heard s t none) ∧
        ((∀ e ∈ s.written, (s.cellVals (e.1 / 4 * 4)).length = 1) → ∃ t, exec i s = .next t ∧ t.cores = s.cores ∧
          (∀ e ∈ s.written, t.home e.1 = e.2 ∧ t.cells.get [] (e.1 / 4 * 4) = []) ∧
          (∀ x, (∀ e ∈ s.written, e.1 ≠ x) → t.home x = s.home x) ∧ t.fw = { s.fw with readout := 0, poison := false })))) ∧
  (∀ (s : State), let l := s.written; let a := s.opnd.a
    (s.opnd.b = 0 → l = ((List.range 8).map (a / 8 * 8 + ·)).zip (leBytes 8 s.opnd.v.toNat)) ∧
    (s.opnd.b ≠ 0 → ∀ e ∈ l, a / 64 = e.1 / 64 ∧ s.opnd.b.testBit (e.1 % 64) = true)) ∧
  (∀ (s : State), let a := s.opnd.a / 8 * 8
    (s.hostWaits = true ∨ a / 64 ∉ s.hostOwned ∨ (∃ q ∈ s.atomq, q.pa / 64 = a / 64) → exec .hostSnoop s = .next s) ∧
    (s.hostWaits = false → a / 64 ∈ s.hostOwned → (∀ q ∈ s.atomq, q.pa / 64 ≠ a / 64) → ∃ t, exec .hostSnoop s = .next t ∧ Heard s t (some (s.homeWord a)) ∧
      t.hostOwned = if s.opnd.c = 1 then s.hostOwned.filter (· ≠ a / 64) else s.hostOwned)) ∧
  (∀ (s : State),
    let kind := s.opnd.cmd.op
    let o := if s.opnd.b % 256 < 11 then plainAtomics.getD (s.opnd.b % 256) .aadd else .aadd
    let m := if kind < 2 then 8 else if o = .afadd then 4 else 2 ^ (s.opnd.b / 256 % 4)
    let a := s.opnd.a / m * m
    (s.fw.peers = [] → exec .peerLoad s = .next s) ∧
    (s.fw.peers ≠ [] → (a < 2 ^ 46 ∧ (s.paKind a = .tier ∨ ∃ j o, s.paKind a = .window j o)) → (∀ x ∈ s.remaps, x.requester ≠ 1) → s.opnd.c = 0 →
      Still s → NoPage s (a / 64 * 64) 64 →
      (kind = 0 → s.poisoned a 8 = false → ∃ t, exec .peerLoad s = .next t ∧ Heard s t (some (s.homeWord a))) ∧
      (kind = 1 → (∀ e ∈ s.written, (s.cellVals (e.1 / 4 * 4)).length = 1) → ∃ t, exec .peerLoad s = .next t ∧ t.cores = s.cores ∧
        (∀ e ∈ s.written, t.home e.1 = e.2) ∧ (∀ x, (∀ e ∈ s.written, e.1 ≠ x) → t.home x = s.home x) ∧
        t.fw = { s.fw with readout := 0, poison := false }) ∧
      (2 ≤ kind → s.poisoned a m = false → (∀ x ∈ cellsOf a m, (s.cellVals x).length = 1) →
        ∃ t, exec .peerLoad s = .next t ∧ t.cores = s.cores ∧ KeepsBut s t a m ∧
          AtTable o m (BitVec.ofNat (8 * m) (s.homeNat a m)) s.opnd.v ((s.opnd.cmd.w[0]?).getD 0) (BitVec.ofNat (8 * m) (t.homeNat a m)) ∧
          t.fw = { s.fw with readout := BitVec.ofNat 64 (s.homeNat a m), poison := false })) ∧
    (s.fw.peers ≠ [] → (s.paKind a = .reserved ∨ 2 ^ 46 ≤ a) → exec .peerLoad s = .fault (.noSuchAddress a)))

/-! ### The machine as a whole -/

/-- Decode and encode agree (R44 to R50): the word of every well-formed instruction, with every operand at every value, decodes to that
instruction and its length, whatever follows it; and every word that decodes is the word of what it decodes to. -/
def Obligations.RoundTrip : Prop :=
  (∀ (i : Instr) (e : Enc) (rest : List Byte), WellFormed i = true → encode i = some e →
    decode (e.bytes ++ rest) = .ok (i, i.len)) ∧
  (∀ (w : BitVec 32) i, decode32 w = .ok i → WellFormed i = true ∧ encode i = some (.word w)) ∧
  (∀ (h : BitVec 16), h.getLsbD 0 = false → WellFormed (decode16 h) = true ∧ encode (decode16 h) = some (.half h))

/-- Words written out bit by bit from the encodings of R46 and R47, and the instructions they stand for: one of each layout, and words
that are illegal. -/
def Obligations.SampleWords : Prop :=
  decode16 0b0001_00011_00100_1_0#16 = .cAdd 3 4 true ∧
  decode16 0b1111_00001_11111_0_0#16 = .cAddi 1 31 false ∧
  decode32 0b0000101_0001001_00000000_0000_0_000_0_1#32 = .ok (.toWord (.x 5) (.x 9) ⟨false, 0⟩ false) ∧
  decode32 0b0000101_1110000_00000001_0000_0_000_1_1#32 = .ok (.iaSub (.x 5) ⟨false, 0⟩ false true) ∧
  decode32 0b00011_0_111111111111111111111_011_0_1#32 = .ok (.li 3 (-1) false) ∧
  decode32 0b00011_00111_00010_000000001000_100_0_1#32 = .ok (.ldd 7 2 8 false) ∧
  decode32 0b0000_0001_1111111111111111111_101_1_1#32 = .ok (.b ⟨false, 1⟩ (-1) true) ∧
  decode32 0b00001101_00000_00000_000000000_110_1_1#32 = .ok (.done true) ∧
  decode32 0xFFFFFFFF#32 = .error .illegalInstruction ∧ decode32 0b0000101_0001001_00000001_0000_0_000_0_1#32 = .error .illegalTransport

/-- A step runs the decoded instruction (R44, R48, R117, R119): where time has made nothing due and the next move, which the schedule gives (log 3),
issues core `c`, whose turn is watch `k`'s, and the line of its
pc holds four bytes that decode to an instruction, the step is that instruction's execution at that state, the line held in the fetch
buffer, and its halfwords in the loop buffer where the watch repeats the body they stand in; halfwords that the loop buffer holds come from there.
Four bytes that decode to none are the trap of cause 1, or of cause 2 for a transport, whose value is the word. A line that cannot be fetched is the
trap of its cause, with the pc as its value; one that a retraining link holds, or that comes after an `isync` behind whose loads it waits, is waited for
(R399, R416, logs 28, 35). An event of the schedule is run with its operands, and then what the memory paths can perform. What time has made due
comes first (R37). -/
def Obligations.StepIssues : Prop :=
  (∀ (s : State) c rest k, s.dueMove = none → s.schedule = .issue c :: rest → ({ s with schedule := rest } : State).turn c = none →
    let s0 : State := { s with schedule := rest, cur := c }
    let s1 := if (s0.coreAt c).owed.contains (k % 4) then s0.onCore c fun v => { v with owed := v.owed.erase (k % 4) } else s0
    Turn s1 k →
    let r := s1.endPasses [k]
    let w := r.watch k
    let pc := w.pc.toNat
    pc % 2 = 0 → pc % 64 ≤ 60 →
    (∀ u, (r.coreAt (k / 4)).slot w.slotNo = .running u → u.kind = .code → pc / 64 * 64 = w.mp.toNat → pc + 4 ≤ w.mp.toNat + 8 + 8 * u.aux) →
    let runs := fun (t : State) (bytes : List Byte) =>
      let half := fun (j : Nat) => BitVec.ofNat 16 (leNat ((bytes.drop j).take 2))
      (∀ i n, decode bytes = .ok (i, n) → step s = exec i
        (let z := t.fillLoop k pc (half 0); if n = 2 then z else z.fillLoop k (pc + 2) (half 2))) ∧
      (∀ x, decode bytes = .error x → step s = .next ((r.pass 1).trap1 k
        (if x = .illegalTransport then 2 else 1) (BitVec.ofNat 64 (leNat bytes)) w.pc w.pc false))
    (r.loopHalf k pc = none → r.buffered k pc = none → ∀ e, r.fetchLine k pc = .error e → step s = .next
      (if e = waitCause then r.pass 1 else (r.pass 1).trap1 k e w.pc w.pc w.pc false)) ∧
    (r.syncWaits k = true → inWindow pc = false → r.fetchLine k pc = .error waitCause) ∧
    (∀ h h2, r.loopHalf k pc = some h → r.loopHalf k (pc + 2) = some h2 → runs r (leBytes 2 h.toNat ++ leBytes 2 h2.toNat)) ∧
    (∀ line t, r.loopHalf k pc = none → r.loopHalf k (pc + 2) = none → ((r.buffered k pc = some line ∧ t = r) ∨
        (r.buffered k pc = none ∧ ∃ z, r.fetchLine k pc = .ok (line, z) ∧
          t = if inWindow pc then z
            else z.onCore (k / 4) fun v => { v with fetch := (v.fetch ++ [(⟨pc / 64, line⟩ : FetchLine)]).drop (v.fetch.length - 3) })) →
      line.length = 64 → runs t ((line.drop (pc % 64)).take 4))) ∧
  (∀ (s : State) i o rest, s.dueMove = none → s.schedule = .event i o :: rest →
    let r := if (encode i).isNone then exec i { s with schedule := rest, opnd := o } else .next { s with schedule := rest }
    (∀ t, r = .next t → step s = .next t.runPaths) ∧ ((∀ t, r ≠ .next t) → step s = r)) ∧
  (∀ (s : State) m, s.dueMove = some m → step s = s.runMove m)

/-- Memory keeps its canonical form (the model's choice of data, log 1): whatever the state, a step from a state whose memory is in that form
leaves it in that form. -/
def Obligations.MemoryCanonical : Prop := ∀ s t, s.memWf → step s = .next t → t.memWf

/-- After reset (R20, R35, R195, R395, R407; the values of registers that no rule gives are the model's choice, log 2): memory lists nothing and is in
its form, bell time is 0, no partition stands, every watch is FREE in user mode with 52 beads, ungrouped, and the register block reads 0. -/
def Obligations.ResetState : Prop :=
  State.reset.memWf ∧ State.reset.bell = 0 ∧ (∀ p, State.reset.part? p = none) ∧ State.reset.fw.fwst = 0 ∧
  State.reset.fw.cqb = 0 ∧ State.reset.fw.cpb = 0 ∧ State.reset.fw.cqt = 0 ∧ State.reset.fw.fseen = 0 ∧ State.reset.fw.cph = 0 ∧
  State.reset.fw.fcomp = 0 ∧ State.reset.msgs = [] ∧ State.reset.chains = [] ∧
  ∀ k, (State.reset.watch k).st = .free ∧ (State.reset.watch k).hm = false ∧ (State.reset.watch k).gang = none ∧
    (State.reset.watch k).gs = 1 ∧ (State.reset.watch k).gp = 0 ∧ (State.reset.watch k).bc = 52 ∧ (State.reset.watch k).xRead 0 = 0 ∧
    (State.reset.watch k).gRead 0 = BitVec.allOnes 32 ∧ (State.reset.coreAt (k / 4)).issuing = none
end
end

