-- ==== Sys2Proof/Laws/State.lean ====
section
/-! SUPPORT. What each named update of the state leaves alone, field by field. -/
namespace Sys2Proof.Machine

/-! ### `setCore` -/

@[simp] theorem State.setCore_schedule (s : State) (c : Nat) (v : Core) : (s.setCore c v).schedule = s.schedule := rfl
@[simp] theorem State.setCore_free (s : State) (c : Nat) (v : Core) : (s.setCore c v).free = s.free := rfl
@[simp] theorem State.setCore_cur (s : State) (c : Nat) (v : Core) : (s.setCore c v).cur = s.cur := rfl
@[simp] theorem State.setCore_ticket (s : State) (c : Nat) (v : Core) : (s.setCore c v).ticket = s.ticket := rfl
@[simp] theorem State.setCore_opnd (s : State) (c : Nat) (v : Core) : (s.setCore c v).opnd = s.opnd := rfl
@[simp] theorem State.setCore_bell (s : State) (c : Nat) (v : Core) : (s.setCore c v).bell = s.bell := rfl
@[simp] theorem State.setCore_cycles (s : State) (c : Nat) (v : Core) : (s.setCore c v).cycles = s.cycles := rfl
@[simp] theorem State.setCore_clock (s : State) (c : Nat) (v : Core) : (s.setCore c v).clock = s.clock := rfl
@[simp] theorem State.setCore_phase (s : State) (c : Nat) (v : Core) : (s.setCore c v).phase = s.phase := rfl
@[simp] theorem State.setCore_mem (s : State) (c : Nat) (v : Core) : (s.setCore c v).mem = s.mem := rfl
@[simp] theorem State.setCore_ecc (s : State) (c : Nat) (v : Core) : (s.setCore c v).ecc = s.ecc := rfl
@[simp] theorem State.setCore_cells (s : State) (c : Nat) (v : Core) : (s.setCore c v).cells = s.cells := rfl
@[simp] theorem State.setCore_boards (s : State) (c : Nat) (v : Core) : (s.setCore c v).boards = s.boards := rfl
@[simp] theorem State.setCore_rods (s : State) (c : Nat) (v : Core) : (s.setCore c v).rods = s.rods := rfl
@[simp] theorem State.setCore_slices (s : State) (c : Nat) (v : Core) : (s.setCore c v).slices = s.slices := rfl
@[simp] theorem State.setCore_domains (s : State) (c : Nat) (v : Core) : (s.setCore c v).domains = s.domains := rfl
@[simp] theorem State.setCore_granules (s : State) (c : Nat) (v : Core) : (s.setCore c v).granules = s.granules := rfl
@[simp] theorem State.setCore_hostVisible (s : State) (c : Nat) (v : Core) : (s.setCore c v).hostVisible = s.hostVisible := rfl
@[simp] theorem State.setCore_parts (s : State) (c : Nat) (v : Core) : (s.setCore c v).parts = s.parts := rfl
@[simp] theorem State.setCore_stores (s : State) (c : Nat) (v : Core) : (s.setCore c v).stores = s.stores := rfl
@[simp] theorem State.setCore_updates (s : State) (c : Nat) (v : Core) : (s.setCore c v).updates = s.updates := rfl
@[simp] theorem State.setCore_bankq (s : State) (c : Nat) (v : Core) : (s.setCore c v).bankq = s.bankq := rfl
@[simp] theorem State.setCore_keepq (s : State) (c : Nat) (v : Core) : (s.setCore c v).keepq = s.keepq := rfl
@[simp] theorem State.setCore_atomq (s : State) (c : Nat) (v : Core) : (s.setCore c v).atomq = s.atomq := rfl
@[simp] theorem State.setCore_clocks (s : State) (c : Nat) (v : Core) : (s.setCore c v).clocks = s.clocks := rfl
@[simp] theorem State.setCore_msgs (s : State) (c : Nat) (v : Core) : (s.setCore c v).msgs = s.msgs := rfl
@[simp] theorem State.setCore_deposits (s : State) (c : Nat) (v : Core) : (s.setCore c v).deposits = s.deposits := rfl
@[simp] theorem State.setCore_wakes (s : State) (c : Nat) (v : Core) : (s.setCore c v).wakes = s.wakes := rfl
@[simp] theorem State.setCore_prefetches (s : State) (c : Nat) (v : Core) : (s.setCore c v).prefetches = s.prefetches := rfl
@[simp] theorem State.setCore_chains (s : State) (c : Nat) (v : Core) : (s.setCore c v).chains = s.chains := rfl
@[simp] theorem State.setCore_ceWaits (s : State) (c : Nat) (v : Core) : (s.setCore c v).ceWaits = s.ceWaits := rfl
@[simp] theorem State.setCore_snaps (s : State) (c : Nat) (v : Core) : (s.setCore c v).snaps = s.snaps := rfl
@[simp] theorem State.setCore_split (s : State) (c : Nat) (v : Core) : (s.setCore c v).split = s.split := rfl
@[simp] theorem State.setCore_before (s : State) (c : Nat) (v : Core) : (s.setCore c v).before = s.before := rfl
@[simp] theorem State.setCore_remaps (s : State) (c : Nat) (v : Core) : (s.setCore c v).remaps = s.remaps := rfl
@[simp] theorem State.setCore_hostOwned (s : State) (c : Nat) (v : Core) : (s.setCore c v).hostOwned = s.hostOwned := rfl
@[simp] theorem State.setCore_links (s : State) (c : Nat) (v : Core) : (s.setCore c v).links = s.links := rfl
@[simp] theorem State.setCore_linkLoads (s : State) (c : Nat) (v : Core) : (s.setCore c v).linkLoads = s.linkLoads := rfl
@[simp] theorem State.setCore_adds (s : State) (c : Nat) (v : Core) : (s.setCore c v).adds = s.adds := rfl
@[simp] theorem State.setCore_hostDir (s : State) (c : Nat) (v : Core) : (s.setCore c v).hostDir = s.hostDir := rfl
@[simp] theorem State.setCore_hottest (s : State) (c : Nat) (v : Core) : (s.setCore c v).hottest = s.hottest := rfl
@[simp] theorem State.setCore_watts (s : State) (c : Nat) (v : Core) : (s.setCore c v).watts = s.watts := rfl
@[simp] theorem State.setCore_fw (s : State) (c : Nat) (v : Core) : (s.setCore c v).fw = s.fw := rfl

/-! ### `onCore` -/

@[simp] theorem State.onCore_schedule (s : State) (c : Nat) (f : Core → Core) : (s.onCore c f).schedule = s.schedule := rfl
@[simp] theorem State.onCore_free (s : State) (c : Nat) (f : Core → Core) : (s.onCore c f).free = s.free := rfl
@[simp] theorem State.onCore_cur (s : State) (c : Nat) (f : Core → Core) : (s.onCore c f).cur = s.cur := rfl
@[simp] theorem State.onCore_ticket (s : State) (c : Nat) (f : Core → Core) : (s.onCore c f).ticket = s.ticket := rfl
@[simp] theorem State.onCore_opnd (s : State) (c : Nat) (f : Core → Core) : (s.onCore c f).opnd = s.opnd := rfl
@[simp] theorem State.onCore_bell (s : State) (c : Nat) (f : Core → Core) : (s.onCore c f).bell = s.bell := rfl
@[simp] theorem State.onCore_cycles (s : State) (c : Nat) (f : Core → Core) : (s.onCore c f).cycles = s.cycles := rfl
@[simp] theorem State.onCore_clock (s : State) (c : Nat) (f : Core → Core) : (s.onCore c f).clock = s.clock := rfl
@[simp] theorem State.onCore_phase (s : State) (c : Nat) (f : Core → Core) : (s.onCore c f).phase = s.phase := rfl
@[simp] theorem State.onCore_mem (s : State) (c : Nat) (f : Core → Core) : (s.onCore c f).mem = s.mem := rfl
@[simp] theorem State.onCore_ecc (s : State) (c : Nat) (f : Core → Core) : (s.onCore c f).ecc = s.ecc := rfl
@[simp] theorem State.onCore_cells (s : State) (c : Nat) (f : Core → Core) : (s.onCore c f).cells = s.cells := rfl
@[simp] theorem State.onCore_boards (s : State) (c : Nat) (f : Core → Core) : (s.onCore c f).boards = s.boards := rfl
@[simp] theorem State.onCore_rods (s : State) (c : Nat) (f : Core → Core) : (s.onCore c f).rods = s.rods := rfl
@[simp] theorem State.onCore_slices (s : State) (c : Nat) (f : Core → Core) : (s.onCore c f).slices = s.slices := rfl
@[simp] theorem State.onCore_domains (s : State) (c : Nat) (f : Core → Core) : (s.onCore c f).domains = s.domains := rfl
@[simp] theorem State.onCore_granules (s : State) (c : Nat) (f : Core → Core) : (s.onCore c f).granules = s.granules := rfl
@[simp] theorem State.onCore_hostVisible (s : State) (c : Nat) (f : Core → Core) : (s.onCore c f).hostVisible = s.hostVisible := rfl
@[simp] theorem State.onCore_parts (s : State) (c : Nat) (f : Core → Core) : (s.onCore c f).parts = s.parts := rfl
@[simp] theorem State.onCore_stores (s : State) (c : Nat) (f : Core → Core) : (s.onCore c f).stores = s.stores := rfl
@[simp] theorem State.onCore_updates (s : State) (c : Nat) (f : Core → Core) : (s.onCore c f).updates = s.updates := rfl
@[simp] theorem State.onCore_bankq (s : State) (c : Nat) (f : Core → Core) : (s.onCore c f).bankq = s.bankq := rfl
@[simp] theorem State.onCore_keepq (s : State) (c : Nat) (f : Core → Core) : (s.onCore c f).keepq = s.keepq := rfl
@[simp] theorem State.onCore_atomq (s : State) (c : Nat) (f : Core → Core) : (s.onCore c f).atomq = s.atomq := rfl
@[simp] theorem State.onCore_clocks (s : State) (c : Nat) (f : Core → Core) : (s.onCore c f).clocks = s.clocks := rfl
@[simp] theorem State.onCore_msgs (s : State) (c : Nat) (f : Core → Core) : (s.onCore c f).msgs = s.msgs := rfl
@[simp] theorem State.onCore_deposits (s : State) (c : Nat) (f : Core → Core) : (s.onCore c f).deposits = s.deposits := rfl
@[simp] theorem State.onCore_wakes (s : State) (c : Nat) (f : Core → Core) : (s.onCore c f).wakes = s.wakes := rfl
@[simp] theorem State.onCore_prefetches (s : State) (c : Nat) (f : Core → Core) : (s.onCore c f).prefetches = s.prefetches := rfl
@[simp] theorem State.onCore_chains (s : State) (c : Nat) (f : Core → Core) : (s.onCore c f).chains = s.chains := rfl
@[simp] theorem State.onCore_ceWaits (s : State) (c : Nat) (f : Core → Core) : (s.onCore c f).ceWaits = s.ceWaits := rfl
@[simp] theorem State.onCore_snaps (s : State) (c : Nat) (f : Core → Core) : (s.onCore c f).snaps = s.snaps := rfl
@[simp] theorem State.onCore_split (s : State) (c : Nat) (f : Core → Core) : (s.onCore c f).split = s.split := rfl
@[simp] theorem State.onCore_before (s : State) (c : Nat) (f : Core → Core) : (s.onCore c f).before = s.before := rfl
@[simp] theorem State.onCore_remaps (s : State) (c : Nat) (f : Core → Core) : (s.onCore c f).remaps = s.remaps := rfl
@[simp] theorem State.onCore_hostOwned (s : State) (c : Nat) (f : Core → Core) : (s.onCore c f).hostOwned = s.hostOwned := rfl
@[simp] theorem State.onCore_links (s : State) (c : Nat) (f : Core → Core) : (s.onCore c f).links = s.links := rfl
@[simp] theorem State.onCore_linkLoads (s : State) (c : Nat) (f : Core → Core) : (s.onCore c f).linkLoads = s.linkLoads := rfl
@[simp] theorem State.onCore_adds (s : State) (c : Nat) (f : Core → Core) : (s.onCore c f).adds = s.adds := rfl
@[simp] theorem State.onCore_hostDir (s : State) (c : Nat) (f : Core → Core) : (s.onCore c f).hostDir = s.hostDir := rfl
@[simp] theorem State.onCore_hottest (s : State) (c : Nat) (f : Core → Core) : (s.onCore c f).hottest = s.hottest := rfl
@[simp] theorem State.onCore_watts (s : State) (c : Nat) (f : Core → Core) : (s.onCore c f).watts = s.watts := rfl
@[simp] theorem State.onCore_fw (s : State) (c : Nat) (f : Core → Core) : (s.onCore c f).fw = s.fw := rfl

/-! ### `onWatch` -/

@[simp] theorem State.onWatch_schedule (s : State) (k : Nat) (f : Watch → Watch) : (s.onWatch k f).schedule = s.schedule := rfl
@[simp] theorem State.onWatch_free (s : State) (k : Nat) (f : Watch → Watch) : (s.onWatch k f).free = s.free := rfl
@[simp] theorem State.onWatch_cur (s : State) (k : Nat) (f : Watch → Watch) : (s.onWatch k f).cur = s.cur := rfl
@[simp] theorem State.onWatch_ticket (s : State) (k : Nat) (f : Watch → Watch) : (s.onWatch k f).ticket = s.ticket := rfl
@[simp] theorem State.onWatch_opnd (s : State) (k : Nat) (f : Watch → Watch) : (s.onWatch k f).opnd = s.opnd := rfl
@[simp] theorem State.onWatch_bell (s : State) (k : Nat) (f : Watch → Watch) : (s.onWatch k f).bell = s.bell := rfl
@[simp] theorem State.onWatch_cycles (s : State) (k : Nat) (f : Watch → Watch) : (s.onWatch k f).cycles = s.cycles := rfl
@[simp] theorem State.onWatch_clock (s : State) (k : Nat) (f : Watch → Watch) : (s.onWatch k f).clock = s.clock := rfl
@[simp] theorem State.onWatch_phase (s : State) (k : Nat) (f : Watch → Watch) : (s.onWatch k f).phase = s.phase := rfl
@[simp] theorem State.onWatch_mem (s : State) (k : Nat) (f : Watch → Watch) : (s.onWatch k f).mem = s.mem := rfl
@[simp] theorem State.onWatch_ecc (s : State) (k : Nat) (f : Watch → Watch) : (s.onWatch k f).ecc = s.ecc := rfl
@[simp] theorem State.onWatch_cells (s : State) (k : Nat) (f : Watch → Watch) : (s.onWatch k f).cells = s.cells := rfl
@[simp] theorem State.onWatch_boards (s : State) (k : Nat) (f : Watch → Watch) : (s.onWatch k f).boards = s.boards := rfl
@[simp] theorem State.onWatch_rods (s : State) (k : Nat) (f : Watch → Watch) : (s.onWatch k f).rods = s.rods := rfl
@[simp] theorem State.onWatch_slices (s : State) (k : Nat) (f : Watch → Watch) : (s.onWatch k f).slices = s.slices := rfl
@[simp] theorem State.onWatch_domains (s : State) (k : Nat) (f : Watch → Watch) : (s.onWatch k f).domains = s.domains := rfl
@[simp] theorem State.onWatch_granules (s : State) (k : Nat) (f : Watch → Watch) : (s.onWatch k f).granules = s.granules := rfl
@[simp] theorem State.onWatch_hostVisible (s : State) (k : Nat) (f : Watch → Watch) : (s.onWatch k f).hostVisible = s.hostVisible := rfl
@[simp] theorem State.onWatch_parts (s : State) (k : Nat) (f : Watch → Watch) : (s.onWatch k f).parts = s.parts := rfl
@[simp] theorem State.onWatch_stores (s : State) (k : Nat) (f : Watch → Watch) : (s.onWatch k f).stores = s.stores := rfl
@[simp] theorem State.onWatch_updates (s : State) (k : Nat) (f : Watch → Watch) : (s.onWatch k f).updates = s.updates := rfl
@[simp] theorem State.onWatch_bankq (s : State) (k : Nat) (f : Watch → Watch) : (s.onWatch k f).bankq = s.bankq := rfl
@[simp] theorem State.onWatch_keepq (s : State) (k : Nat) (f : Watch → Watch) : (s.onWatch k f).keepq = s.keepq := rfl
@[simp] theorem State.onWatch_atomq (s : State) (k : Nat) (f : Watch → Watch) : (s.onWatch k f).atomq = s.atomq := rfl
@[simp] theorem State.onWatch_clocks (s : State) (k : Nat) (f : Watch → Watch) : (s.onWatch k f).clocks = s.clocks := rfl
@[simp] theorem State.onWatch_msgs (s : State) (k : Nat) (f : Watch → Watch) : (s.onWatch k f).msgs = s.msgs := rfl
@[simp] theorem State.onWatch_deposits (s : State) (k : Nat) (f : Watch → Watch) : (s.onWatch k f).deposits = s.deposits := rfl
@[simp] theorem State.onWatch_wakes (s : State) (k : Nat) (f : Watch → Watch) : (s.onWatch k f).wakes = s.wakes := rfl
@[simp] theorem State.onWatch_prefetches (s : State) (k : Nat) (f : Watch → Watch) : (s.onWatch k f).prefetches = s.prefetches := rfl
@[simp] theorem State.onWatch_chains (s : State) (k : Nat) (f : Watch → Watch) : (s.onWatch k f).chains = s.chains := rfl
@[simp] theorem State.onWatch_ceWaits (s : State) (k : Nat) (f : Watch → Watch) : (s.onWatch k f).ceWaits = s.ceWaits := rfl
@[simp] theorem State.onWatch_snaps (s : State) (k : Nat) (f : Watch → Watch) : (s.onWatch k f).snaps = s.snaps := rfl
@[simp] theorem State.onWatch_split (s : State) (k : Nat) (f : Watch → Watch) : (s.onWatch k f).split = s.split := rfl
@[simp] theorem State.onWatch_before (s : State) (k : Nat) (f : Watch → Watch) : (s.onWatch k f).before = s.before := rfl
@[simp] theorem State.onWatch_remaps (s : State) (k : Nat) (f : Watch → Watch) : (s.onWatch k f).remaps = s.remaps := rfl
@[simp] theorem State.onWatch_hostOwned (s : State) (k : Nat) (f : Watch → Watch) : (s.onWatch k f).hostOwned = s.hostOwned := rfl
@[simp] theorem State.onWatch_links (s : State) (k : Nat) (f : Watch → Watch) : (s.onWatch k f).links = s.links := rfl
@[simp] theorem State.onWatch_linkLoads (s : State) (k : Nat) (f : Watch → Watch) : (s.onWatch k f).linkLoads = s.linkLoads := rfl
@[simp] theorem State.onWatch_adds (s : State) (k : Nat) (f : Watch → Watch) : (s.onWatch k f).adds = s.adds := rfl
@[simp] theorem State.onWatch_hostDir (s : State) (k : Nat) (f : Watch → Watch) : (s.onWatch k f).hostDir = s.hostDir := rfl
@[simp] theorem State.onWatch_hottest (s : State) (k : Nat) (f : Watch → Watch) : (s.onWatch k f).hottest = s.hottest := rfl
@[simp] theorem State.onWatch_watts (s : State) (k : Nat) (f : Watch → Watch) : (s.onWatch k f).watts = s.watts := rfl
@[simp] theorem State.onWatch_fw (s : State) (k : Nat) (f : Watch → Watch) : (s.onWatch k f).fw = s.fw := rfl

/-! ### `setBoard` -/

@[simp] theorem State.setBoard_schedule (s : State) (b : Nat) (v : Board) : (s.setBoard b v).schedule = s.schedule := rfl
@[simp] theorem State.setBoard_free (s : State) (b : Nat) (v : Board) : (s.setBoard b v).free = s.free := rfl
@[simp] theorem State.setBoard_cur (s : State) (b : Nat) (v : Board) : (s.setBoard b v).cur = s.cur := rfl
@[simp] theorem State.setBoard_ticket (s : State) (b : Nat) (v : Board) : (s.setBoard b v).ticket = s.ticket := rfl
@[simp] theorem State.setBoard_opnd (s : State) (b : Nat) (v : Board) : (s.setBoard b v).opnd = s.opnd := rfl
@[simp] theorem State.setBoard_bell (s : State) (b : Nat) (v : Board) : (s.setBoard b v).bell = s.bell := rfl
@[simp] theorem State.setBoard_cycles (s : State) (b : Nat) (v : Board) : (s.setBoard b v).cycles = s.cycles := rfl
@[simp] theorem State.setBoard_clock (s : State) (b : Nat) (v : Board) : (s.setBoard b v).clock = s.clock := rfl
@[simp] theorem State.setBoard_phase (s : State) (b : Nat) (v : Board) : (s.setBoard b v).phase = s.phase := rfl
@[simp] theorem State.setBoard_mem (s : State) (b : Nat) (v : Board) : (s.setBoard b v).mem = s.mem := rfl
@[simp] theorem State.setBoard_ecc (s : State) (b : Nat) (v : Board) : (s.setBoard b v).ecc = s.ecc := rfl
@[simp] theorem State.setBoard_cells (s : State) (b : Nat) (v : Board) : (s.setBoard b v).cells = s.cells := rfl
@[simp] theorem State.setBoard_cores (s : State) (b : Nat) (v : Board) : (s.setBoard b v).cores = s.cores := rfl
@[simp] theorem State.setBoard_rods (s : State) (b : Nat) (v : Board) : (s.setBoard b v).rods = s.rods := rfl
@[simp] theorem State.setBoard_slices (s : State) (b : Nat) (v : Board) : (s.setBoard b v).slices = s.slices := rfl
@[simp] theorem State.setBoard_domains (s : State) (b : Nat) (v : Board) : (s.setBoard b v).domains = s.domains := rfl
@[simp] theorem State.setBoard_granules (s : State) (b : Nat) (v : Board) : (s.setBoard b v).granules = s.granules := rfl
@[simp] theorem State.setBoard_hostVisible (s : State) (b : Nat) (v : Board) : (s.setBoard b v).hostVisible = s.hostVisible := rfl
@[simp] theorem State.setBoard_parts (s : State) (b : Nat) (v : Board) : (s.setBoard b v).parts = s.parts := rfl
@[simp] theorem State.setBoard_stores (s : State) (b : Nat) (v : Board) : (s.setBoard b v).stores = s.stores := rfl
@[simp] theorem State.setBoard_updates (s : State) (b : Nat) (v : Board) : (s.setBoard b v).updates = s.updates := rfl
@[simp] theorem State.setBoard_bankq (s : State) (b : Nat) (v : Board) : (s.setBoard b v).bankq = s.bankq := rfl
@[simp] theorem State.setBoard_keepq (s : State) (b : Nat) (v : Board) : (s.setBoard b v).keepq = s.keepq := rfl
@[simp] theorem State.setBoard_atomq (s : State) (b : Nat) (v : Board) : (s.setBoard b v).atomq = s.atomq := rfl
@[simp] theorem State.setBoard_clocks (s : State) (b : Nat) (v : Board) : (s.setBoard b v).clocks = s.clocks := rfl
@[simp] theorem State.setBoard_msgs (s : State) (b : Nat) (v : Board) : (s.setBoard b v).msgs = s.msgs := rfl
@[simp] theorem State.setBoard_deposits (s : State) (b : Nat) (v : Board) : (s.setBoard b v).deposits = s.deposits := rfl
@[simp] theorem State.setBoard_wakes (s : State) (b : Nat) (v : Board) : (s.setBoard b v).wakes = s.wakes := rfl
@[simp] theorem State.setBoard_prefetches (s : State) (b : Nat) (v : Board) : (s.setBoard b v).prefetches = s.prefetches := rfl
@[simp] theorem State.setBoard_chains (s : State) (b : Nat) (v : Board) : (s.setBoard b v).chains = s.chains := rfl
@[simp] theorem State.setBoard_ceWaits (s : State) (b : Nat) (v : Board) : (s.setBoard b v).ceWaits = s.ceWaits := rfl
@[simp] theorem State.setBoard_snaps (s : State) (b : Nat) (v : Board) : (s.setBoard b v).snaps = s.snaps := rfl
@[simp] theorem State.setBoard_split (s : State) (b : Nat) (v : Board) : (s.setBoard b v).split = s.split := rfl
@[simp] theorem State.setBoard_before (s : State) (b : Nat) (v : Board) : (s.setBoard b v).before = s.before := rfl
@[simp] theorem State.setBoard_remaps (s : State) (b : Nat) (v : Board) : (s.setBoard b v).remaps = s.remaps := rfl
@[simp] theorem State.setBoard_hostOwned (s : State) (b : Nat) (v : Board) : (s.setBoard b v).hostOwned = s.hostOwned := rfl
@[simp] theorem State.setBoard_links (s : State) (b : Nat) (v : Board) : (s.setBoard b v).links = s.links := rfl
@[simp] theorem State.setBoard_linkLoads (s : State) (b : Nat) (v : Board) : (s.setBoard b v).linkLoads = s.linkLoads := rfl
@[simp] theorem State.setBoard_adds (s : State) (b : Nat) (v : Board) : (s.setBoard b v).adds = s.adds := rfl
@[simp] theorem State.setBoard_hostDir (s : State) (b : Nat) (v : Board) : (s.setBoard b v).hostDir = s.hostDir := rfl
@[simp] theorem State.setBoard_hottest (s : State) (b : Nat) (v : Board) : (s.setBoard b v).hottest = s.hottest := rfl
@[simp] theorem State.setBoard_watts (s : State) (b : Nat) (v : Board) : (s.setBoard b v).watts = s.watts := rfl
@[simp] theorem State.setBoard_fw (s : State) (b : Nat) (v : Board) : (s.setBoard b v).fw = s.fw := rfl

/-! ### `onBoard` -/

@[simp] theorem State.onBoard_schedule (s : State) (b : Nat) (f : Board → Board) : (s.onBoard b f).schedule = s.schedule := rfl
@[simp] theorem State.onBoard_free (s : State) (b : Nat) (f : Board → Board) : (s.onBoard b f).free = s.free := rfl
@[simp] theorem State.onBoard_cur (s : State) (b : Nat) (f : Board → Board) : (s.onBoard b f).cur = s.cur := rfl
@[simp] theorem State.onBoard_ticket (s : State) (b : Nat) (f : Board → Board) : (s.onBoard b f).ticket = s.ticket := rfl
@[simp] theorem State.onBoard_opnd (s : State) (b : Nat) (f : Board → Board) : (s.onBoard b f).opnd = s.opnd := rfl
@[simp] theorem State.onBoard_bell (s : State) (b : Nat) (f : Board → Board) : (s.onBoard b f).bell = s.bell := rfl
@[simp] theorem State.onBoard_cycles (s : State) (b : Nat) (f : Board → Board) : (s.onBoard b f).cycles = s.cycles := rfl
@[simp] theorem State.onBoard_clock (s : State) (b : Nat) (f : Board → Board) : (s.onBoard b f).clock = s.clock := rfl
@[simp] theorem State.onBoard_phase (s : State) (b : Nat) (f : Board → Board) : (s.onBoard b f).phase = s.phase := rfl
@[simp] theorem State.onBoard_mem (s : State) (b : Nat) (f : Board → Board) : (s.onBoard b f).mem = s.mem := rfl
@[simp] theorem State.onBoard_ecc (s : State) (b : Nat) (f : Board → Board) : (s.onBoard b f).ecc = s.ecc := rfl
@[simp] theorem State.onBoard_cells (s : State) (b : Nat) (f : Board → Board) : (s.onBoard b f).cells = s.cells := rfl
@[simp] theorem State.onBoard_cores (s : State) (b : Nat) (f : Board → Board) : (s.onBoard b f).cores = s.cores := rfl
@[simp] theorem State.onBoard_rods (s : State) (b : Nat) (f : Board → Board) : (s.onBoard b f).rods = s.rods := rfl
@[simp] theorem State.onBoard_slices (s : State) (b : Nat) (f : Board → Board) : (s.onBoard b f).slices = s.slices := rfl
@[simp] theorem State.onBoard_domains (s : State) (b : Nat) (f : Board → Board) : (s.onBoard b f).domains = s.domains := rfl
@[simp] theorem State.onBoard_granules (s : State) (b : Nat) (f : Board → Board) : (s.onBoard b f).granules = s.granules := rfl
@[simp] theorem State.onBoard_hostVisible (s : State) (b : Nat) (f : Board → Board) : (s.onBoard b f).hostVisible = s.hostVisible := rfl
@[simp] theorem State.onBoard_parts (s : State) (b : Nat) (f : Board → Board) : (s.onBoard b f).parts = s.parts := rfl
@[simp] theorem State.onBoard_stores (s : State) (b : Nat) (f : Board → Board) : (s.onBoard b f).stores = s.stores := rfl
@[simp] theorem State.onBoard_updates (s : State) (b : Nat) (f : Board → Board) : (s.onBoard b f).updates = s.updates := rfl
@[simp] theorem State.onBoard_bankq (s : State) (b : Nat) (f : Board → Board) : (s.onBoard b f).bankq = s.bankq := rfl
@[simp] theorem State.onBoard_keepq (s : State) (b : Nat) (f : Board → Board) : (s.onBoard b f).keepq = s.keepq := rfl
@[simp] theorem State.onBoard_atomq (s : State) (b : Nat) (f : Board → Board) : (s.onBoard b f).atomq = s.atomq := rfl
@[simp] theorem State.onBoard_clocks (s : State) (b : Nat) (f : Board → Board) : (s.onBoard b f).clocks = s.clocks := rfl
@[simp] theorem State.onBoard_msgs (s : State) (b : Nat) (f : Board → Board) : (s.onBoard b f).msgs = s.msgs := rfl
@[simp] theorem State.onBoard_deposits (s : State) (b : Nat) (f : Board → Board) : (s.onBoard b f).deposits = s.deposits := rfl
@[simp] theorem State.onBoard_wakes (s : State) (b : Nat) (f : Board → Board) : (s.onBoard b f).wakes = s.wakes := rfl
@[simp] theorem State.onBoard_prefetches (s : State) (b : Nat) (f : Board → Board) : (s.onBoard b f).prefetches = s.prefetches := rfl
@[simp] theorem State.onBoard_chains (s : State) (b : Nat) (f : Board → Board) : (s.onBoard b f).chains = s.chains := rfl
@[simp] theorem State.onBoard_ceWaits (s : State) (b : Nat) (f : Board → Board) : (s.onBoard b f).ceWaits = s.ceWaits := rfl
@[simp] theorem State.onBoard_snaps (s : State) (b : Nat) (f : Board → Board) : (s.onBoard b f).snaps = s.snaps := rfl
@[simp] theorem State.onBoard_split (s : State) (b : Nat) (f : Board → Board) : (s.onBoard b f).split = s.split := rfl
@[simp] theorem State.onBoard_before (s : State) (b : Nat) (f : Board → Board) : (s.onBoard b f).before = s.before := rfl
@[simp] theorem State.onBoard_remaps (s : State) (b : Nat) (f : Board → Board) : (s.onBoard b f).remaps = s.remaps := rfl
@[simp] theorem State.onBoard_hostOwned (s : State) (b : Nat) (f : Board → Board) : (s.onBoard b f).hostOwned = s.hostOwned := rfl
@[simp] theorem State.onBoard_links (s : State) (b : Nat) (f : Board → Board) : (s.onBoard b f).links = s.links := rfl
@[simp] theorem State.onBoard_linkLoads (s : State) (b : Nat) (f : Board → Board) : (s.onBoard b f).linkLoads = s.linkLoads := rfl
@[simp] theorem State.onBoard_adds (s : State) (b : Nat) (f : Board → Board) : (s.onBoard b f).adds = s.adds := rfl
@[simp] theorem State.onBoard_hostDir (s : State) (b : Nat) (f : Board → Board) : (s.onBoard b f).hostDir = s.hostDir := rfl
@[simp] theorem State.onBoard_hottest (s : State) (b : Nat) (f : Board → Board) : (s.onBoard b f).hottest = s.hottest := rfl
@[simp] theorem State.onBoard_watts (s : State) (b : Nat) (f : Board → Board) : (s.onBoard b f).watts = s.watts := rfl
@[simp] theorem State.onBoard_fw (s : State) (b : Nat) (f : Board → Board) : (s.onBoard b f).fw = s.fw := rfl

/-! ### `onBank` -/

@[simp] theorem State.onBank_schedule (s : State) (b n : Nat) (f : Bank → Bank) : (s.onBank b n f).schedule = s.schedule := rfl
@[simp] theorem State.onBank_free (s : State) (b n : Nat) (f : Bank → Bank) : (s.onBank b n f).free = s.free := rfl
@[simp] theorem State.onBank_cur (s : State) (b n : Nat) (f : Bank → Bank) : (s.onBank b n f).cur = s.cur := rfl
@[simp] theorem State.onBank_ticket (s : State) (b n : Nat) (f : Bank → Bank) : (s.onBank b n f).ticket = s.ticket := rfl
@[simp] theorem State.onBank_opnd (s : State) (b n : Nat) (f : Bank → Bank) : (s.onBank b n f).opnd = s.opnd := rfl
@[simp] theorem State.onBank_bell (s : State) (b n : Nat) (f : Bank → Bank) : (s.onBank b n f).bell = s.bell := rfl
@[simp] theorem State.onBank_cycles (s : State) (b n : Nat) (f : Bank → Bank) : (s.onBank b n f).cycles = s.cycles := rfl
@[simp] theorem State.onBank_clock (s : State) (b n : Nat) (f : Bank → Bank) : (s.onBank b n f).clock = s.clock := rfl
@[simp] theorem State.onBank_phase (s : State) (b n : Nat) (f : Bank → Bank) : (s.onBank b n f).phase = s.phase := rfl
@[simp] theorem State.onBank_mem (s : State) (b n : Nat) (f : Bank → Bank) : (s.onBank b n f).mem = s.mem := rfl
@[simp] theorem State.onBank_ecc (s : State) (b n : Nat) (f : Bank → Bank) : (s.onBank b n f).ecc = s.ecc := rfl
@[simp] theorem State.onBank_cells (s : State) (b n : Nat) (f : Bank → Bank) : (s.onBank b n f).cells = s.cells := rfl
@[simp] theorem State.onBank_cores (s : State) (b n : Nat) (f : Bank → Bank) : (s.onBank b n f).cores = s.cores := rfl
@[simp] theorem State.onBank_rods (s : State) (b n : Nat) (f : Bank → Bank) : (s.onBank b n f).rods = s.rods := rfl
@[simp] theorem State.onBank_slices (s : State) (b n : Nat) (f : Bank → Bank) : (s.onBank b n f).slices = s.slices := rfl
@[simp] theorem State.onBank_domains (s : State) (b n : Nat) (f : Bank → Bank) : (s.onBank b n f).domains = s.domains := rfl
@[simp] theorem State.onBank_granules (s : State) (b n : Nat) (f : Bank → Bank) : (s.onBank b n f).granules = s.granules := rfl
@[simp] theorem State.onBank_hostVisible (s : State) (b n : Nat) (f : Bank → Bank) : (s.onBank b n f).hostVisible = s.hostVisible := rfl
@[simp] theorem State.onBank_parts (s : State) (b n : Nat) (f : Bank → Bank) : (s.onBank b n f).parts = s.parts := rfl
@[simp] theorem State.onBank_stores (s : State) (b n : Nat) (f : Bank → Bank) : (s.onBank b n f).stores = s.stores := rfl
@[simp] theorem State.onBank_updates (s : State) (b n : Nat) (f : Bank → Bank) : (s.onBank b n f).updates = s.updates := rfl
@[simp] theorem State.onBank_bankq (s : State) (b n : Nat) (f : Bank → Bank) : (s.onBank b n f).bankq = s.bankq := rfl
@[simp] theorem State.onBank_keepq (s : State) (b n : Nat) (f : Bank → Bank) : (s.onBank b n f).keepq = s.keepq := rfl
@[simp] theorem State.onBank_atomq (s : State) (b n : Nat) (f : Bank → Bank) : (s.onBank b n f).atomq = s.atomq := rfl
@[simp] theorem State.onBank_clocks (s : State) (b n : Nat) (f : Bank → Bank) : (s.onBank b n f).clocks = s.clocks := rfl
@[simp] theorem State.onBank_msgs (s : State) (b n : Nat) (f : Bank → Bank) : (s.onBank b n f).msgs = s.msgs := rfl
@[simp] theorem State.onBank_deposits (s : State) (b n : Nat) (f : Bank → Bank) : (s.onBank b n f).deposits = s.deposits := rfl
@[simp] theorem State.onBank_wakes (s : State) (b n : Nat) (f : Bank → Bank) : (s.onBank b n f).wakes = s.wakes := rfl
@[simp] theorem State.onBank_prefetches (s : State) (b n : Nat) (f : Bank → Bank) : (s.onBank b n f).prefetches = s.prefetches := rfl
@[simp] theorem State.onBank_chains (s : State) (b n : Nat) (f : Bank → Bank) : (s.onBank b n f).chains = s.chains := rfl
@[simp] theorem State.onBank_ceWaits (s : State) (b n : Nat) (f : Bank → Bank) : (s.onBank b n f).ceWaits = s.ceWaits := rfl
@[simp] theorem State.onBank_snaps (s : State) (b n : Nat) (f : Bank → Bank) : (s.onBank b n f).snaps = s.snaps := rfl
@[simp] theorem State.onBank_split (s : State) (b n : Nat) (f : Bank → Bank) : (s.onBank b n f).split = s.split := rfl
@[simp] theorem State.onBank_before (s : State) (b n : Nat) (f : Bank → Bank) : (s.onBank b n f).before = s.before := rfl
@[simp] theorem State.onBank_remaps (s : State) (b n : Nat) (f : Bank → Bank) : (s.onBank b n f).remaps = s.remaps := rfl
@[simp] theorem State.onBank_hostOwned (s : State) (b n : Nat) (f : Bank → Bank) : (s.onBank b n f).hostOwned = s.hostOwned := rfl
@[simp] theorem State.onBank_links (s : State) (b n : Nat) (f : Bank → Bank) : (s.onBank b n f).links = s.links := rfl
@[simp] theorem State.onBank_linkLoads (s : State) (b n : Nat) (f : Bank → Bank) : (s.onBank b n f).linkLoads = s.linkLoads := rfl
@[simp] theorem State.onBank_adds (s : State) (b n : Nat) (f : Bank → Bank) : (s.onBank b n f).adds = s.adds := rfl
@[simp] theorem State.onBank_hostDir (s : State) (b n : Nat) (f : Bank → Bank) : (s.onBank b n f).hostDir = s.hostDir := rfl
@[simp] theorem State.onBank_hottest (s : State) (b n : Nat) (f : Bank → Bank) : (s.onBank b n f).hottest = s.hottest := rfl
@[simp] theorem State.onBank_watts (s : State) (b n : Nat) (f : Bank → Bank) : (s.onBank b n f).watts = s.watts := rfl
@[simp] theorem State.onBank_fw (s : State) (b n : Nat) (f : Bank → Bank) : (s.onBank b n f).fw = s.fw := rfl

/-! ### `onRod` -/

@[simp] theorem State.onRod_schedule (s : State) (r : Nat) (f : Rod → Rod) : (s.onRod r f).schedule = s.schedule := rfl
@[simp] theorem State.onRod_free (s : State) (r : Nat) (f : Rod → Rod) : (s.onRod r f).free = s.free := rfl
@[simp] theorem State.onRod_cur (s : State) (r : Nat) (f : Rod → Rod) : (s.onRod r f).cur = s.cur := rfl
@[simp] theorem State.onRod_ticket (s : State) (r : Nat) (f : Rod → Rod) : (s.onRod r f).ticket = s.ticket := rfl
@[simp] theorem State.onRod_opnd (s : State) (r : Nat) (f : Rod → Rod) : (s.onRod r f).opnd = s.opnd := rfl
@[simp] theorem State.onRod_bell (s : State) (r : Nat) (f : Rod → Rod) : (s.onRod r f).bell = s.bell := rfl
@[simp] theorem State.onRod_cycles (s : State) (r : Nat) (f : Rod → Rod) : (s.onRod r f).cycles = s.cycles := rfl
@[simp] theorem State.onRod_clock (s : State) (r : Nat) (f : Rod → Rod) : (s.onRod r f).clock = s.clock := rfl
@[simp] theorem State.onRod_phase (s : State) (r : Nat) (f : Rod → Rod) : (s.onRod r f).phase = s.phase := rfl
@[simp] theorem State.onRod_mem (s : State) (r : Nat) (f : Rod → Rod) : (s.onRod r f).mem = s.mem := rfl
@[simp] theorem State.onRod_ecc (s : State) (r : Nat) (f : Rod → Rod) : (s.onRod r f).ecc = s.ecc := rfl
@[simp] theorem State.onRod_cells (s : State) (r : Nat) (f : Rod → Rod) : (s.onRod r f).cells = s.cells := rfl
@[simp] theorem State.onRod_cores (s : State) (r : Nat) (f : Rod → Rod) : (s.onRod r f).cores = s.cores := rfl
@[simp] theorem State.onRod_boards (s : State) (r : Nat) (f : Rod → Rod) : (s.onRod r f).boards = s.boards := rfl
@[simp] theorem State.onRod_slices (s : State) (r : Nat) (f : Rod → Rod) : (s.onRod r f).slices = s.slices := rfl
@[simp] theorem State.onRod_domains (s : State) (r : Nat) (f : Rod → Rod) : (s.onRod r f).domains = s.domains := rfl
@[simp] theorem State.onRod_granules (s : State) (r : Nat) (f : Rod → Rod) : (s.onRod r f).granules = s.granules := rfl
@[simp] theorem State.onRod_hostVisible (s : State) (r : Nat) (f : Rod → Rod) : (s.onRod r f).hostVisible = s.hostVisible := rfl
@[simp] theorem State.onRod_parts (s : State) (r : Nat) (f : Rod → Rod) : (s.onRod r f).parts = s.parts := rfl
@[simp] theorem State.onRod_stores (s : State) (r : Nat) (f : Rod → Rod) : (s.onRod r f).stores = s.stores := rfl
@[simp] theorem State.onRod_updates (s : State) (r : Nat) (f : Rod → Rod) : (s.onRod r f).updates = s.updates := rfl
@[simp] theorem State.onRod_bankq (s : State) (r : Nat) (f : Rod → Rod) : (s.onRod r f).bankq = s.bankq := rfl
@[simp] theorem State.onRod_keepq (s : State) (r : Nat) (f : Rod → Rod) : (s.onRod r f).keepq = s.keepq := rfl
@[simp] theorem State.onRod_atomq (s : State) (r : Nat) (f : Rod → Rod) : (s.onRod r f).atomq = s.atomq := rfl
@[simp] theorem State.onRod_clocks (s : State) (r : Nat) (f : Rod → Rod) : (s.onRod r f).clocks = s.clocks := rfl
@[simp] theorem State.onRod_msgs (s : State) (r : Nat) (f : Rod → Rod) : (s.onRod r f).msgs = s.msgs := rfl
@[simp] theorem State.onRod_deposits (s : State) (r : Nat) (f : Rod → Rod) : (s.onRod r f).deposits = s.deposits := rfl
@[simp] theorem State.onRod_wakes (s : State) (r : Nat) (f : Rod → Rod) : (s.onRod r f).wakes = s.wakes := rfl
@[simp] theorem State.onRod_prefetches (s : State) (r : Nat) (f : Rod → Rod) : (s.onRod r f).prefetches = s.prefetches := rfl
@[simp] theorem State.onRod_chains (s : State) (r : Nat) (f : Rod → Rod) : (s.onRod r f).chains = s.chains := rfl
@[simp] theorem State.onRod_ceWaits (s : State) (r : Nat) (f : Rod → Rod) : (s.onRod r f).ceWaits = s.ceWaits := rfl
@[simp] theorem State.onRod_snaps (s : State) (r : Nat) (f : Rod → Rod) : (s.onRod r f).snaps = s.snaps := rfl
@[simp] theorem State.onRod_split (s : State) (r : Nat) (f : Rod → Rod) : (s.onRod r f).split = s.split := rfl
@[simp] theorem State.onRod_before (s : State) (r : Nat) (f : Rod → Rod) : (s.onRod r f).before = s.before := rfl
@[simp] theorem State.onRod_remaps (s : State) (r : Nat) (f : Rod → Rod) : (s.onRod r f).remaps = s.remaps := rfl
@[simp] theorem State.onRod_hostOwned (s : State) (r : Nat) (f : Rod → Rod) : (s.onRod r f).hostOwned = s.hostOwned := rfl
@[simp] theorem State.onRod_links (s : State) (r : Nat) (f : Rod → Rod) : (s.onRod r f).links = s.links := rfl
@[simp] theorem State.onRod_linkLoads (s : State) (r : Nat) (f : Rod → Rod) : (s.onRod r f).linkLoads = s.linkLoads := rfl
@[simp] theorem State.onRod_adds (s : State) (r : Nat) (f : Rod → Rod) : (s.onRod r f).adds = s.adds := rfl
@[simp] theorem State.onRod_hostDir (s : State) (r : Nat) (f : Rod → Rod) : (s.onRod r f).hostDir = s.hostDir := rfl
@[simp] theorem State.onRod_hottest (s : State) (r : Nat) (f : Rod → Rod) : (s.onRod r f).hottest = s.hottest := rfl
@[simp] theorem State.onRod_watts (s : State) (r : Nat) (f : Rod → Rod) : (s.onRod r f).watts = s.watts := rfl
@[simp] theorem State.onRod_fw (s : State) (r : Nat) (f : Rod → Rod) : (s.onRod r f).fw = s.fw := rfl

/-! ### `onSlice` -/

@[simp] theorem State.onSlice_schedule (s : State) (n : Nat) (f : Slice → Slice) : (s.onSlice n f).schedule = s.schedule := rfl
@[simp] theorem State.onSlice_free (s : State) (n : Nat) (f : Slice → Slice) : (s.onSlice n f).free = s.free := rfl
@[simp] theorem State.onSlice_cur (s : State) (n : Nat) (f : Slice → Slice) : (s.onSlice n f).cur = s.cur := rfl
@[simp] theorem State.onSlice_ticket (s : State) (n : Nat) (f : Slice → Slice) : (s.onSlice n f).ticket = s.ticket := rfl
@[simp] theorem State.onSlice_opnd (s : State) (n : Nat) (f : Slice → Slice) : (s.onSlice n f).opnd = s.opnd := rfl
@[simp] theorem State.onSlice_bell (s : State) (n : Nat) (f : Slice → Slice) : (s.onSlice n f).bell = s.bell := rfl
@[simp] theorem State.onSlice_cycles (s : State) (n : Nat) (f : Slice → Slice) : (s.onSlice n f).cycles = s.cycles := rfl
@[simp] theorem State.onSlice_clock (s : State) (n : Nat) (f : Slice → Slice) : (s.onSlice n f).clock = s.clock := rfl
@[simp] theorem State.onSlice_phase (s : State) (n : Nat) (f : Slice → Slice) : (s.onSlice n f).phase = s.phase := rfl
@[simp] theorem State.onSlice_mem (s : State) (n : Nat) (f : Slice → Slice) : (s.onSlice n f).mem = s.mem := rfl
@[simp] theorem State.onSlice_ecc (s : State) (n : Nat) (f : Slice → Slice) : (s.onSlice n f).ecc = s.ecc := rfl
@[simp] theorem State.onSlice_cells (s : State) (n : Nat) (f : Slice → Slice) : (s.onSlice n f).cells = s.cells := rfl
@[simp] theorem State.onSlice_cores (s : State) (n : Nat) (f : Slice → Slice) : (s.onSlice n f).cores = s.cores := rfl
@[simp] theorem State.onSlice_boards (s : State) (n : Nat) (f : Slice → Slice) : (s.onSlice n f).boards = s.boards := rfl
@[simp] theorem State.onSlice_rods (s : State) (n : Nat) (f : Slice → Slice) : (s.onSlice n f).rods = s.rods := rfl
@[simp] theorem State.onSlice_domains (s : State) (n : Nat) (f : Slice → Slice) : (s.onSlice n f).domains = s.domains := rfl
@[simp] theorem State.onSlice_granules (s : State) (n : Nat) (f : Slice → Slice) : (s.onSlice n f).granules = s.granules := rfl
@[simp] theorem State.onSlice_hostVisible (s : State) (n : Nat) (f : Slice → Slice) : (s.onSlice n f).hostVisible = s.hostVisible := rfl
@[simp] theorem State.onSlice_parts (s : State) (n : Nat) (f : Slice → Slice) : (s.onSlice n f).parts = s.parts := rfl
@[simp] theorem State.onSlice_stores (s : State) (n : Nat) (f : Slice → Slice) : (s.onSlice n f).stores = s.stores := rfl
@[simp] theorem State.onSlice_updates (s : State) (n : Nat) (f : Slice → Slice) : (s.onSlice n f).updates = s.updates := rfl
@[simp] theorem State.onSlice_bankq (s : State) (n : Nat) (f : Slice → Slice) : (s.onSlice n f).bankq = s.bankq := rfl
@[simp] theorem State.onSlice_keepq (s : State) (n : Nat) (f : Slice → Slice) : (s.onSlice n f).keepq = s.keepq := rfl
@[simp] theorem State.onSlice_atomq (s : State) (n : Nat) (f : Slice → Slice) : (s.onSlice n f).atomq = s.atomq := rfl
@[simp] theorem State.onSlice_clocks (s : State) (n : Nat) (f : Slice → Slice) : (s.onSlice n f).clocks = s.clocks := rfl
@[simp] theorem State.onSlice_msgs (s : State) (n : Nat) (f : Slice → Slice) : (s.onSlice n f).msgs = s.msgs := rfl
@[simp] theorem State.onSlice_deposits (s : State) (n : Nat) (f : Slice → Slice) : (s.onSlice n f).deposits = s.deposits := rfl
@[simp] theorem State.onSlice_wakes (s : State) (n : Nat) (f : Slice → Slice) : (s.onSlice n f).wakes = s.wakes := rfl
@[simp] theorem State.onSlice_prefetches (s : State) (n : Nat) (f : Slice → Slice) : (s.onSlice n f).prefetches = s.prefetches := rfl
@[simp] theorem State.onSlice_chains (s : State) (n : Nat) (f : Slice → Slice) : (s.onSlice n f).chains = s.chains := rfl
@[simp] theorem State.onSlice_ceWaits (s : State) (n : Nat) (f : Slice → Slice) : (s.onSlice n f).ceWaits = s.ceWaits := rfl
@[simp] theorem State.onSlice_snaps (s : State) (n : Nat) (f : Slice → Slice) : (s.onSlice n f).snaps = s.snaps := rfl
@[simp] theorem State.onSlice_split (s : State) (n : Nat) (f : Slice → Slice) : (s.onSlice n f).split = s.split := rfl
@[simp] theorem State.onSlice_before (s : State) (n : Nat) (f : Slice → Slice) : (s.onSlice n f).before = s.before := rfl
@[simp] theorem State.onSlice_remaps (s : State) (n : Nat) (f : Slice → Slice) : (s.onSlice n f).remaps = s.remaps := rfl
@[simp] theorem State.onSlice_hostOwned (s : State) (n : Nat) (f : Slice → Slice) : (s.onSlice n f).hostOwned = s.hostOwned := rfl
@[simp] theorem State.onSlice_links (s : State) (n : Nat) (f : Slice → Slice) : (s.onSlice n f).links = s.links := rfl
@[simp] theorem State.onSlice_linkLoads (s : State) (n : Nat) (f : Slice → Slice) : (s.onSlice n f).linkLoads = s.linkLoads := rfl
@[simp] theorem State.onSlice_adds (s : State) (n : Nat) (f : Slice → Slice) : (s.onSlice n f).adds = s.adds := rfl
@[simp] theorem State.onSlice_hostDir (s : State) (n : Nat) (f : Slice → Slice) : (s.onSlice n f).hostDir = s.hostDir := rfl
@[simp] theorem State.onSlice_hottest (s : State) (n : Nat) (f : Slice → Slice) : (s.onSlice n f).hottest = s.hottest := rfl
@[simp] theorem State.onSlice_watts (s : State) (n : Nat) (f : Slice → Slice) : (s.onSlice n f).watts = s.watts := rfl
@[simp] theorem State.onSlice_fw (s : State) (n : Nat) (f : Slice → Slice) : (s.onSlice n f).fw = s.fw := rfl

/-! ### `setPart` -/

@[simp] theorem State.setPart_schedule (s : State) (p : Nat) (v : Part) : (s.setPart p v).schedule = s.schedule := rfl
@[simp] theorem State.setPart_free (s : State) (p : Nat) (v : Part) : (s.setPart p v).free = s.free := rfl
@[simp] theorem State.setPart_cur (s : State) (p : Nat) (v : Part) : (s.setPart p v).cur = s.cur := rfl
@[simp] theorem State.setPart_ticket (s : State) (p : Nat) (v : Part) : (s.setPart p v).ticket = s.ticket := rfl
@[simp] theorem State.setPart_opnd (s : State) (p : Nat) (v : Part) : (s.setPart p v).opnd = s.opnd := rfl
@[simp] theorem State.setPart_bell (s : State) (p : Nat) (v : Part) : (s.setPart p v).bell = s.bell := rfl
@[simp] theorem State.setPart_cycles (s : State) (p : Nat) (v : Part) : (s.setPart p v).cycles = s.cycles := rfl
@[simp] theorem State.setPart_clock (s : State) (p : Nat) (v : Part) : (s.setPart p v).clock = s.clock := rfl
@[simp] theorem State.setPart_phase (s : State) (p : Nat) (v : Part) : (s.setPart p v).phase = s.phase := rfl
@[simp] theorem State.setPart_mem (s : State) (p : Nat) (v : Part) : (s.setPart p v).mem = s.mem := rfl
@[simp] theorem State.setPart_ecc (s : State) (p : Nat) (v : Part) : (s.setPart p v).ecc = s.ecc := rfl
@[simp] theorem State.setPart_cells (s : State) (p : Nat) (v : Part) : (s.setPart p v).cells = s.cells := rfl
@[simp] theorem State.setPart_cores (s : State) (p : Nat) (v : Part) : (s.setPart p v).cores = s.cores := rfl
@[simp] theorem State.setPart_boards (s : State) (p : Nat) (v : Part) : (s.setPart p v).boards = s.boards := rfl
@[simp] theorem State.setPart_rods (s : State) (p : Nat) (v : Part) : (s.setPart p v).rods = s.rods := rfl
@[simp] theorem State.setPart_slices (s : State) (p : Nat) (v : Part) : (s.setPart p v).slices = s.slices := rfl
@[simp] theorem State.setPart_domains (s : State) (p : Nat) (v : Part) : (s.setPart p v).domains = s.domains := rfl
@[simp] theorem State.setPart_granules (s : State) (p : Nat) (v : Part) : (s.setPart p v).granules = s.granules := rfl
@[simp] theorem State.setPart_hostVisible (s : State) (p : Nat) (v : Part) : (s.setPart p v).hostVisible = s.hostVisible := rfl
@[simp] theorem State.setPart_stores (s : State) (p : Nat) (v : Part) : (s.setPart p v).stores = s.stores := rfl
@[simp] theorem State.setPart_updates (s : State) (p : Nat) (v : Part) : (s.setPart p v).updates = s.updates := rfl
@[simp] theorem State.setPart_bankq (s : State) (p : Nat) (v : Part) : (s.setPart p v).bankq = s.bankq := rfl
@[simp] theorem State.setPart_keepq (s : State) (p : Nat) (v : Part) : (s.setPart p v).keepq = s.keepq := rfl
@[simp] theorem State.setPart_atomq (s : State) (p : Nat) (v : Part) : (s.setPart p v).atomq = s.atomq := rfl
@[simp] theorem State.setPart_clocks (s : State) (p : Nat) (v : Part) : (s.setPart p v).clocks = s.clocks := rfl
@[simp] theorem State.setPart_msgs (s : State) (p : Nat) (v : Part) : (s.setPart p v).msgs = s.msgs := rfl
@[simp] theorem State.setPart_deposits (s : State) (p : Nat) (v : Part) : (s.setPart p v).deposits = s.deposits := rfl
@[simp] theorem State.setPart_wakes (s : State) (p : Nat) (v : Part) : (s.setPart p v).wakes = s.wakes := rfl
@[simp] theorem State.setPart_prefetches (s : State) (p : Nat) (v : Part) : (s.setPart p v).prefetches = s.prefetches := rfl
@[simp] theorem State.setPart_chains (s : State) (p : Nat) (v : Part) : (s.setPart p v).chains = s.chains := rfl
@[simp] theorem State.setPart_ceWaits (s : State) (p : Nat) (v : Part) : (s.setPart p v).ceWaits = s.ceWaits := rfl
@[simp] theorem State.setPart_snaps (s : State) (p : Nat) (v : Part) : (s.setPart p v).snaps = s.snaps := rfl
@[simp] theorem State.setPart_split (s : State) (p : Nat) (v : Part) : (s.setPart p v).split = s.split := rfl
@[simp] theorem State.setPart_before (s : State) (p : Nat) (v : Part) : (s.setPart p v).before = s.before := rfl
@[simp] theorem State.setPart_remaps (s : State) (p : Nat) (v : Part) : (s.setPart p v).remaps = s.remaps := rfl
@[simp] theorem State.setPart_hostOwned (s : State) (p : Nat) (v : Part) : (s.setPart p v).hostOwned = s.hostOwned := rfl
@[simp] theorem State.setPart_links (s : State) (p : Nat) (v : Part) : (s.setPart p v).links = s.links := rfl
@[simp] theorem State.setPart_linkLoads (s : State) (p : Nat) (v : Part) : (s.setPart p v).linkLoads = s.linkLoads := rfl
@[simp] theorem State.setPart_adds (s : State) (p : Nat) (v : Part) : (s.setPart p v).adds = s.adds := rfl
@[simp] theorem State.setPart_hostDir (s : State) (p : Nat) (v : Part) : (s.setPart p v).hostDir = s.hostDir := rfl
@[simp] theorem State.setPart_hottest (s : State) (p : Nat) (v : Part) : (s.setPart p v).hottest = s.hottest := rfl
@[simp] theorem State.setPart_watts (s : State) (p : Nat) (v : Part) : (s.setPart p v).watts = s.watts := rfl
@[simp] theorem State.setPart_fw (s : State) (p : Nat) (v : Part) : (s.setPart p v).fw = s.fw := rfl

/-! ### `putBytes` -/

@[simp] theorem State.putBytes_schedule (s : State) (l : List (Nat × Byte)) : (s.putBytes l).schedule = s.schedule := rfl
@[simp] theorem State.putBytes_free (s : State) (l : List (Nat × Byte)) : (s.putBytes l).free = s.free := rfl
@[simp] theorem State.putBytes_cur (s : State) (l : List (Nat × Byte)) : (s.putBytes l).cur = s.cur := rfl
@[simp] theorem State.putBytes_ticket (s : State) (l : List (Nat × Byte)) : (s.putBytes l).ticket = s.ticket := rfl
@[simp] theorem State.putBytes_opnd (s : State) (l : List (Nat × Byte)) : (s.putBytes l).opnd = s.opnd := rfl
@[simp] theorem State.putBytes_bell (s : State) (l : List (Nat × Byte)) : (s.putBytes l).bell = s.bell := rfl
@[simp] theorem State.putBytes_cycles (s : State) (l : List (Nat × Byte)) : (s.putBytes l).cycles = s.cycles := rfl
@[simp] theorem State.putBytes_clock (s : State) (l : List (Nat × Byte)) : (s.putBytes l).clock = s.clock := rfl
@[simp] theorem State.putBytes_phase (s : State) (l : List (Nat × Byte)) : (s.putBytes l).phase = s.phase := rfl
@[simp] theorem State.putBytes_ecc (s : State) (l : List (Nat × Byte)) : (s.putBytes l).ecc = s.ecc := rfl
@[simp] theorem State.putBytes_cells (s : State) (l : List (Nat × Byte)) : (s.putBytes l).cells = s.cells := rfl
@[simp] theorem State.putBytes_cores (s : State) (l : List (Nat × Byte)) : (s.putBytes l).cores = s.cores := rfl
@[simp] theorem State.putBytes_boards (s : State) (l : List (Nat × Byte)) : (s.putBytes l).boards = s.boards := rfl
@[simp] theorem State.putBytes_rods (s : State) (l : List (Nat × Byte)) : (s.putBytes l).rods = s.rods := rfl
@[simp] theorem State.putBytes_slices (s : State) (l : List (Nat × Byte)) : (s.putBytes l).slices = s.slices := rfl
@[simp] theorem State.putBytes_domains (s : State) (l : List (Nat × Byte)) : (s.putBytes l).domains = s.domains := rfl
@[simp] theorem State.putBytes_granules (s : State) (l : List (Nat × Byte)) : (s.putBytes l).granules = s.granules := rfl
@[simp] theorem State.putBytes_hostVisible (s : State) (l : List (Nat × Byte)) : (s.putBytes l).hostVisible = s.hostVisible := rfl
@[simp] theorem State.putBytes_parts (s : State) (l : List (Nat × Byte)) : (s.putBytes l).parts = s.parts := rfl
@[simp] theorem State.putBytes_stores (s : State) (l : List (Nat × Byte)) : (s.putBytes l).stores = s.stores := rfl
@[simp] theorem State.putBytes_updates (s : State) (l : List (Nat × Byte)) : (s.putBytes l).updates = s.updates := rfl
@[simp] theorem State.putBytes_bankq (s : State) (l : List (Nat × Byte)) : (s.putBytes l).bankq = s.bankq := rfl
@[simp] theorem State.putBytes_keepq (s : State) (l : List (Nat × Byte)) : (s.putBytes l).keepq = s.keepq := rfl
@[simp] theorem State.putBytes_atomq (s : State) (l : List (Nat × Byte)) : (s.putBytes l).atomq = s.atomq := rfl
@[simp] theorem State.putBytes_clocks (s : State) (l : List (Nat × Byte)) : (s.putBytes l).clocks = s.clocks := rfl
@[simp] theorem State.putBytes_msgs (s : State) (l : List (Nat × Byte)) : (s.putBytes l).msgs = s.msgs := rfl
@[simp] theorem State.putBytes_deposits (s : State) (l : List (Nat × Byte)) : (s.putBytes l).deposits = s.deposits := rfl
@[simp] theorem State.putBytes_wakes (s : State) (l : List (Nat × Byte)) : (s.putBytes l).wakes = s.wakes := rfl
@[simp] theorem State.putBytes_prefetches (s : State) (l : List (Nat × Byte)) : (s.putBytes l).prefetches = s.prefetches := rfl
@[simp] theorem State.putBytes_chains (s : State) (l : List (Nat × Byte)) : (s.putBytes l).chains = s.chains := rfl
@[simp] theorem State.putBytes_ceWaits (s : State) (l : List (Nat × Byte)) : (s.putBytes l).ceWaits = s.ceWaits := rfl
@[simp] theorem State.putBytes_snaps (s : State) (l : List (Nat × Byte)) : (s.putBytes l).snaps = s.snaps := rfl
@[simp] theorem State.putBytes_split (s : State) (l : List (Nat × Byte)) : (s.putBytes l).split = s.split := rfl
@[simp] theorem State.putBytes_before (s : State) (l : List (Nat × Byte)) : (s.putBytes l).before = s.before := rfl
@[simp] theorem State.putBytes_remaps (s : State) (l : List (Nat × Byte)) : (s.putBytes l).remaps = s.remaps := rfl
@[simp] theorem State.putBytes_hostOwned (s : State) (l : List (Nat × Byte)) : (s.putBytes l).hostOwned = s.hostOwned := rfl
@[simp] theorem State.putBytes_links (s : State) (l : List (Nat × Byte)) : (s.putBytes l).links = s.links := rfl
@[simp] theorem State.putBytes_linkLoads (s : State) (l : List (Nat × Byte)) : (s.putBytes l).linkLoads = s.linkLoads := rfl
@[simp] theorem State.putBytes_adds (s : State) (l : List (Nat × Byte)) : (s.putBytes l).adds = s.adds := rfl
@[simp] theorem State.putBytes_hostDir (s : State) (l : List (Nat × Byte)) : (s.putBytes l).hostDir = s.hostDir := rfl
@[simp] theorem State.putBytes_hottest (s : State) (l : List (Nat × Byte)) : (s.putBytes l).hottest = s.hottest := rfl
@[simp] theorem State.putBytes_watts (s : State) (l : List (Nat × Byte)) : (s.putBytes l).watts = s.watts := rfl
@[simp] theorem State.putBytes_fw (s : State) (l : List (Nat × Byte)) : (s.putBytes l).fw = s.fw := rfl

/-! ### `pass` -/

@[simp] theorem State.pass_schedule (s : State) (n : Nat) : (s.pass n).schedule = s.schedule := rfl
@[simp] theorem State.pass_free (s : State) (n : Nat) : (s.pass n).free = s.free := rfl
@[simp] theorem State.pass_cur (s : State) (n : Nat) : (s.pass n).cur = s.cur := rfl
@[simp] theorem State.pass_ticket (s : State) (n : Nat) : (s.pass n).ticket = s.ticket := rfl
@[simp] theorem State.pass_opnd (s : State) (n : Nat) : (s.pass n).opnd = s.opnd := rfl
@[simp] theorem State.pass_clock (s : State) (n : Nat) : (s.pass n).clock = s.clock := rfl
@[simp] theorem State.pass_mem (s : State) (n : Nat) : (s.pass n).mem = s.mem := rfl
@[simp] theorem State.pass_ecc (s : State) (n : Nat) : (s.pass n).ecc = s.ecc := rfl
@[simp] theorem State.pass_cells (s : State) (n : Nat) : (s.pass n).cells = s.cells := rfl
@[simp] theorem State.pass_cores (s : State) (n : Nat) : (s.pass n).cores = s.cores := rfl
@[simp] theorem State.pass_boards (s : State) (n : Nat) : (s.pass n).boards = s.boards := rfl
@[simp] theorem State.pass_rods (s : State) (n : Nat) : (s.pass n).rods = s.rods := rfl
@[simp] theorem State.pass_slices (s : State) (n : Nat) : (s.pass n).slices = s.slices := rfl
@[simp] theorem State.pass_domains (s : State) (n : Nat) : (s.pass n).domains = s.domains := rfl
@[simp] theorem State.pass_granules (s : State) (n : Nat) : (s.pass n).granules = s.granules := rfl
@[simp] theorem State.pass_hostVisible (s : State) (n : Nat) : (s.pass n).hostVisible = s.hostVisible := rfl
@[simp] theorem State.pass_stores (s : State) (n : Nat) : (s.pass n).stores = s.stores := rfl
@[simp] theorem State.pass_updates (s : State) (n : Nat) : (s.pass n).updates = s.updates := rfl
@[simp] theorem State.pass_bankq (s : State) (n : Nat) : (s.pass n).bankq = s.bankq := rfl
@[simp] theorem State.pass_keepq (s : State) (n : Nat) : (s.pass n).keepq = s.keepq := rfl
@[simp] theorem State.pass_atomq (s : State) (n : Nat) : (s.pass n).atomq = s.atomq := rfl
@[simp] theorem State.pass_clocks (s : State) (n : Nat) : (s.pass n).clocks = s.clocks := rfl
@[simp] theorem State.pass_msgs (s : State) (n : Nat) : (s.pass n).msgs = s.msgs := rfl
@[simp] theorem State.pass_deposits (s : State) (n : Nat) : (s.pass n).deposits = s.deposits := rfl
@[simp] theorem State.pass_wakes (s : State) (n : Nat) : (s.pass n).wakes = s.wakes := rfl
@[simp] theorem State.pass_prefetches (s : State) (n : Nat) : (s.pass n).prefetches = s.prefetches := rfl
@[simp] theorem State.pass_chains (s : State) (n : Nat) : (s.pass n).chains = s.chains := rfl
@[simp] theorem State.pass_ceWaits (s : State) (n : Nat) : (s.pass n).ceWaits = s.ceWaits := rfl
@[simp] theorem State.pass_snaps (s : State) (n : Nat) : (s.pass n).snaps = s.snaps := rfl
@[simp] theorem State.pass_split (s : State) (n : Nat) : (s.pass n).split = s.split := rfl
@[simp] theorem State.pass_before (s : State) (n : Nat) : (s.pass n).before = s.before := rfl
@[simp] theorem State.pass_remaps (s : State) (n : Nat) : (s.pass n).remaps = s.remaps := rfl
@[simp] theorem State.pass_hostOwned (s : State) (n : Nat) : (s.pass n).hostOwned = s.hostOwned := rfl
@[simp] theorem State.pass_links (s : State) (n : Nat) : (s.pass n).links = s.links := rfl
@[simp] theorem State.pass_linkLoads (s : State) (n : Nat) : (s.pass n).linkLoads = s.linkLoads := rfl
@[simp] theorem State.pass_adds (s : State) (n : Nat) : (s.pass n).adds = s.adds := rfl
@[simp] theorem State.pass_hostDir (s : State) (n : Nat) : (s.pass n).hostDir = s.hostDir := rfl
@[simp] theorem State.pass_hottest (s : State) (n : Nat) : (s.pass n).hottest = s.hottest := rfl
@[simp] theorem State.pass_watts (s : State) (n : Nat) : (s.pass n).watts = s.watts := rfl
@[simp] theorem State.pass_fw (s : State) (n : Nat) : (s.pass n).fw = s.fw := rfl

end Sys2Proof.Machine
end

