-- ==== Sys2Proof/Laws/Table.lean ====
section
/-! SUPPORT. The laws of sparse tables: a read after a write, and the canonical form that every write keeps. -/
namespace Sys2Proof.Tbl

variable {α : Type}

theorem get_insert_same (d : α) (n : Nat) (v : α) : ∀ t : Tbl α, (∀ e ∈ t, e.1 ≠ n) → get d (insert n v t) n = v
  | [], _ => by simp [insert, get]
  | (k, w) :: t, h => by
    have hk : k ≠ n := h (k, w) (by simp)
    unfold insert
    split
    · simp [get]
    · simpa [get, hk] using get_insert_same d n v t fun e he => h e (by simp [he])

theorem get_insert_other (d : α) {n m : Nat} (v : α) (h : n ≠ m) : ∀ t : Tbl α, get d (insert n v t) m = get d t m
  | [] => by simp [insert, get, h]
  | (k, w) :: t => by
    unfold insert
    split
    · simp [get, h]
    · simp [get, get_insert_other d v h t]

theorem mem_erase (n : Nat) : ∀ t : Tbl α, ∀ e, e ∈ erase n t ↔ e ∈ t ∧ e.1 ≠ n
  | [], e => by simp [erase]
  | (k, w) :: t, e => by
    unfold erase
    split
    · subst n
      rw [mem_erase k t e]
      constructor
      · rintro ⟨a, b⟩; exact ⟨by simp [a], b⟩
      · rintro ⟨a, b⟩
        rcases List.mem_cons.mp a with rfl | a
        · exact absurd rfl b
        · exact ⟨a, b⟩
    · rename_i hk
      rw [List.mem_cons, List.mem_cons, mem_erase n t e]
      constructor
      · rintro (rfl | ⟨a, b⟩)
        · exact ⟨.inl rfl, hk⟩
        · exact ⟨.inr a, b⟩
      · rintro ⟨rfl | a, b⟩
        · exact .inl rfl
        · exact .inr ⟨a, b⟩

theorem get_erase_same (d : α) (n : Nat) : ∀ t : Tbl α, get d (erase n t) n = d
  | [] => rfl
  | (k, w) :: t => by
    unfold erase
    split
    · exact get_erase_same d n t
    · rename_i h; simpa [get, h] using get_erase_same d n t

theorem get_erase_other (d : α) {n m : Nat} (h : n ≠ m) : ∀ t : Tbl α, get d (erase n t) m = get d t m
  | [] => rfl
  | (k, w) :: t => by
    unfold erase
    split
    · subst k; simp [get, h, get_erase_other d h t]
    · simp [get, get_erase_other d h t]

/-- A read after a write to the same place gives the value written. -/
@[simp] theorem get_set_same (d : α) (t : Tbl α) (n : Nat) (v : α) : get d (set t n v) n = v :=
  get_insert_same d n v _ fun e he => ((mem_erase n t e).mp he).2

/-- A write leaves every other place alone. -/
theorem get_set_other (d : α) (t : Tbl α) {n m : Nat} (v : α) (h : n ≠ m) : get d (set t n v) m = get d t m := by
  rw [set, get_insert_other d v h, get_erase_other d h]

theorem erase_of_absent (n : Nat) : ∀ t : Tbl α, (∀ e ∈ t, e.1 ≠ n) → erase n t = t
  | [], _ => rfl
  | (k, w) :: t, h => by
    have hk : k ≠ n := h (k, w) (by simp)
    simp [erase, hk, erase_of_absent n t fun e he => h e (by simp [he])]

theorem erase_insert (n : Nat) (v : α) : ∀ t : Tbl α, (∀ e ∈ t, e.1 ≠ n) → erase n (insert n v t) = t
  | [], _ => by simp [insert, erase]
  | (k, w) :: t, h => by
    have hk : k ≠ n := h (k, w) (by simp)
    have ht : ∀ e ∈ t, e.1 ≠ n := fun e he => h e (by simp [he])
    unfold insert
    split
    · simp [erase, hk, erase_of_absent n t ht]
    · simp [erase, hk, erase_insert n v t ht]

/-- The later of two writes to one place stands. -/
@[simp] theorem set_set (t : Tbl α) (n : Nat) (v w : α) : set (set t n v) n w = set t n w := by
  unfold set
  rw [erase_insert n v _ fun e he => ((mem_erase n t e).mp he).2]

/-! ## The canonical form -/

theorem risingFrom_mono {lo lo' : Nat} (h : lo' ≤ lo) : ∀ t : Tbl α, risingFrom lo t = true → risingFrom lo' t = true
  | [], _ => rfl
  | (k, w) :: t, hr => by
    simp only [risingFrom, Bool.and_eq_true, decide_eq_true_eq] at hr ⊢
    exact ⟨Nat.le_trans h hr.1, hr.2⟩

theorem risingFrom_erase (n : Nat) : ∀ (t : Tbl α) (lo : Nat), risingFrom lo t = true → risingFrom lo (erase n t) = true
  | [], _, _ => rfl
  | (k, w) :: t, lo, hr => by
    simp only [risingFrom, Bool.and_eq_true, decide_eq_true_eq] at hr
    unfold erase
    split
    · exact risingFrom_mono (by omega) _ (risingFrom_erase n t (k + 1) hr.2)
    · simp only [risingFrom, Bool.and_eq_true, decide_eq_true_eq]
      exact ⟨hr.1, risingFrom_erase n t (k + 1) hr.2⟩

theorem risingFrom_insert (n : Nat) (v : α) : ∀ (t : Tbl α) (lo : Nat), lo ≤ n → (∀ e ∈ t, e.1 ≠ n) →
    risingFrom lo t = true → risingFrom lo (insert n v t) = true
  | [], lo, hl, _, _ => by simp [insert, risingFrom, hl]
  | (k, w) :: t, lo, hl, h, hr => by
    have hk : k ≠ n := h (k, w) (by simp)
    simp only [risingFrom, Bool.and_eq_true, decide_eq_true_eq] at hr
    unfold insert
    split
    · simp only [risingFrom, Bool.and_eq_true, decide_eq_true_eq]
      exact ⟨hl, by omega, hr.2⟩
    · simp only [risingFrom, Bool.and_eq_true, decide_eq_true_eq]
      exact ⟨hr.1, risingFrom_insert n v t (k + 1) (by omega) (fun e he => h e (by simp [he])) hr.2⟩

theorem all_insert (p : Nat × α → Bool) (n : Nat) (v : α) : ∀ t : Tbl α, t.all p = true → p (n, v) = true →
    (insert n v t).all p = true
  | [], _, hv => by simp [insert, hv]
  | (k, w) :: t, h, hv => by
    simp only [List.all_cons, Bool.and_eq_true] at h
    unfold insert
    split
    · simp only [List.all_cons, Bool.and_eq_true]
      exact ⟨hv, h.1, h.2⟩
    · simp only [List.all_cons, Bool.and_eq_true]
      exact ⟨h.1, all_insert p n v t h.2 hv⟩

theorem all_erase (p : Nat × α → Bool) (n : Nat) (t : Tbl α) (h : t.all p = true) : (erase n t).all p = true := by
  rw [List.all_eq_true] at h ⊢
  exact fun e he => h e ((mem_erase n t e).mp he).1

/-- A write keeps the canonical form. -/
theorem wf_put [DecidableEq α] (d : α) (t : Tbl α) (n : Nat) (v : α) (h : wf d t = true) : wf d (put d t n v) = true := by
  simp only [wf, Bool.and_eq_true] at h ⊢
  unfold put
  split
  · exact ⟨risingFrom_erase n t 0 h.1, all_erase _ n t h.2⟩
  · rename_i hv
    exact ⟨risingFrom_insert n v _ 0 (by omega) (fun e he => ((mem_erase n t e).mp he).2) (risingFrom_erase n t 0 h.1),
      all_insert _ n v _ (all_erase _ n t h.2) (by simpa using hv)⟩

/-- A read after a write to the same place. -/
@[simp] theorem get_put_same [DecidableEq α] (d : α) (t : Tbl α) (n : Nat) (v : α) : get d (put d t n v) n = v := by
  unfold put
  split
  · rename_i h; rw [h, get_erase_same]
  · exact get_insert_same d n v _ fun e he => ((mem_erase n t e).mp he).2

/-- A write leaves every other place alone. -/
theorem get_put_other [DecidableEq α] (d : α) (t : Tbl α) {n m : Nat} (v : α) (h : n ≠ m) :
    get d (put d t n v) m = get d t m := by
  unfold put
  split
  · exact get_erase_other d h t
  · rw [get_insert_other d v h, get_erase_other d h]

end Sys2Proof.Tbl
end

