-- ==== Sys2Proof/Laws/Places.lean ====
section
/-! SUPPORT. Reads of cores and watches after writes of them. -/
namespace Sys2Proof.Machine

/-! ### Cores -/

@[simp] theorem State.coreAt_setCore (s : State) (c : Nat) (v : Core) : (s.setCore c v).coreAt c = v :=
  Tbl.get_set_same _ _ _ _
theorem State.coreAt_setCore_other (s : State) {c d : Nat} (v : Core) (h : c ≠ d) : (s.setCore c v).coreAt d = s.coreAt d :=
  Tbl.get_set_other _ _ _ h
@[simp] theorem State.coreAt_onCore (s : State) (c : Nat) (f : Core → Core) : (s.onCore c f).coreAt c = f (s.coreAt c) :=
  Tbl.get_set_same _ _ _ _
theorem State.coreAt_onCore_other (s : State) {c d : Nat} (f : Core → Core) (h : c ≠ d) :
    (s.onCore c f).coreAt d = s.coreAt d :=
  Tbl.get_set_other _ _ _ h
@[simp] theorem State.setCore_setCore (s : State) (c : Nat) (v w : Core) : (s.setCore c v).setCore c w = s.setCore c w := by
  simp [State.setCore]
@[simp] theorem State.onCore_onCore (s : State) (c : Nat) (f g : Core → Core) :
    (s.onCore c f).onCore c g = s.onCore c fun v => g (f v) := by
  simp [State.onCore]
@[simp] theorem State.coreAt_pass (s : State) (n c : Nat) : (s.pass n).coreAt c = s.coreAt c := rfl

/-! ### Watches of a core -/

@[simp] theorem Core.watch_setWatch (c : Core) (i : Nat) (w : Watch) : (c.setWatch i w).watch i = w := by
  simp [Core.watch, Core.setWatch]
theorem Core.watch_setWatch_other (c : Core) {i j : Nat} (w : Watch) (h : i % 4 ≠ j % 4) :
    (c.setWatch i w).watch j = c.watch j := by
  simp only [Core.watch, Core.setWatch]
  exact Vector.getElem_set_ne _ _ h
@[simp] theorem Core.setWatch_setWatch (c : Core) (i : Nat) (v w : Watch) :
    (c.setWatch i v).setWatch i w = c.setWatch i w := by
  simp [Core.setWatch]

/-! ### Watches of the machine -/

@[simp] theorem State.watch_onWatch (s : State) (k : Nat) (f : Watch → Watch) : (s.onWatch k f).watch k = f (s.watch k) := by
  simp [State.watch, State.onWatch, State.setWatch]
theorem State.watch_onWatch_other (s : State) {k j : Nat} (f : Watch → Watch) (h : k ≠ j) :
    (s.onWatch k f).watch j = s.watch j := by
  simp only [State.watch, State.onWatch, State.setWatch]
  by_cases hc : k / 4 = j / 4
  · rw [← hc, State.coreAt_onCore]
    exact Core.watch_setWatch_other _ _ (by omega)
  · rw [State.coreAt_onCore_other _ _ hc]
@[simp] theorem State.onWatch_onWatch (s : State) (k : Nat) (f g : Watch → Watch) :
    (s.onWatch k f).onWatch k g = s.onWatch k fun w => g (f w) := by
  simp [State.watch, State.onWatch, State.setWatch]
@[simp] theorem State.watch_pass (s : State) (n k : Nat) : (s.pass n).watch k = s.watch k := rfl
theorem State.coreAt_onWatch (s : State) (k : Nat) (f : Watch → Watch) :
    (s.onWatch k f).coreAt (k / 4) = (s.coreAt (k / 4)).setWatch k (f (s.watch k)) := by
  simp [State.watch, State.onWatch, State.setWatch]
theorem State.coreAt_onWatch_other (s : State) {k c : Nat} (f : Watch → Watch) (h : k / 4 ≠ c) :
    (s.onWatch k f).coreAt c = s.coreAt c :=
  Tbl.get_set_other _ _ _ h
theorem State.coreAt_onCore_watches (s : State) {c : Nat} (f : Core → Core) (hf : ∀ v, (f v).watches = v.watches) (k : Nat) :
    (s.onCore c f).watch k = s.watch k := by
  simp only [State.watch, Core.watch]
  by_cases h : c = k / 4
  · subst h; simp [hf]
  · rw [State.coreAt_onCore_other _ _ h]

end Sys2Proof.Machine
end

