-- ==== Sys2Proof/Laws/Watch.lean ====
section
/-! SUPPORT. What the updates of a watch leave alone, field by field. -/
namespace Sys2Proof.Machine

/-! ### The end of a pass (R113) -/

@[simp] theorem Watch.endPass_st (w : Watch) : w.endPass.st = w.st := by unfold Watch.endPass; split <;> rfl
@[simp] theorem Watch.endPass_prior (w : Watch) : w.endPass.prior = w.prior := by unfold Watch.endPass; split <;> rfl
@[simp] theorem Watch.endPass_readyAt (w : Watch) : w.endPass.readyAt = w.readyAt := by unfold Watch.endPass; split <;> rfl
@[simp] theorem Watch.endPass_pauseCnt (w : Watch) : w.endPass.pauseCnt = w.pauseCnt := by unfold Watch.endPass; split <;> rfl
@[simp] theorem Watch.endPass_pauseEnd (w : Watch) : w.endPass.pauseEnd = w.pauseEnd := by unfold Watch.endPass; split <;> rfl
@[simp] theorem Watch.endPass_after (w : Watch) : w.endPass.after = w.after := by unfold Watch.endPass; split <;> rfl
@[simp] theorem Watch.endPass_x (w : Watch) : w.endPass.x = w.x := by unfold Watch.endPass; split <;> rfl
@[simp] theorem Watch.endPass_v (w : Watch) : w.endPass.v = w.v := by unfold Watch.endPass; split <;> rfl
@[simp] theorem Watch.endPass_g (w : Watch) : w.endPass.g = w.g := by unfold Watch.endPass; split <;> rfl
@[simp] theorem Watch.endPass_windows (w : Watch) : w.endPass.windows = w.windows := by unfold Watch.endPass; split <;> rfl
@[simp] theorem Watch.endPass_fseed (w : Watch) : w.endPass.fseed = w.fseed := by unfold Watch.endPass; split <;> rfl
@[simp] theorem Watch.endPass_saved (w : Watch) : w.endPass.saved = w.saved := by unfold Watch.endPass; split <;> rfl
@[simp] theorem Watch.endPass_loads (w : Watch) : w.endPass.loads = w.loads := by unfold Watch.endPass; split <;> rfl
@[simp] theorem Watch.endPass_ord (w : Watch) : w.endPass.ord = w.ord := by unfold Watch.endPass; split <;> rfl
@[simp] theorem Watch.endPass_syncOrd (w : Watch) : w.endPass.syncOrd = w.syncOrd := by unfold Watch.endPass; split <;> rfl
@[simp] theorem Watch.endPass_path (w : Watch) : w.endPass.path = w.path := by unfold Watch.endPass; split <;> rfl
@[simp] theorem Watch.endPass_appended (w : Watch) : w.endPass.appended = w.appended := by unfold Watch.endPass; split <;> rfl
@[simp] theorem Watch.endPass_bc (w : Watch) : w.endPass.bc = w.bc := by unfold Watch.endPass; split <;> rfl
@[simp] theorem Watch.endPass_fst (w : Watch) : w.endPass.fst = w.fst := by unfold Watch.endPass; split <;> rfl
@[simp] theorem Watch.endPass_sib (w : Watch) : w.endPass.sib = w.sib := by unfold Watch.endPass; split <;> rfl
@[simp] theorem Watch.endPass_tk (w : Watch) : w.endPass.tk = w.tk := by unfold Watch.endPass; split <;> rfl
@[simp] theorem Watch.endPass_mp (w : Watch) : w.endPass.mp = w.mp := by unfold Watch.endPass; split <;> rfl
@[simp] theorem Watch.endPass_oid (w : Watch) : w.endPass.oid = w.oid := by unfold Watch.endPass; split <;> rfl
@[simp] theorem Watch.endPass_lnch (w : Watch) : w.endPass.lnch = w.lnch := by unfold Watch.endPass; split <;> rfl
@[simp] theorem Watch.endPass_gph (w : Watch) : w.endPass.gph = w.gph := by unfold Watch.endPass; split <;> rfl
@[simp] theorem Watch.endPass_part (w : Watch) : w.endPass.part = w.part := by unfold Watch.endPass; split <;> rfl
@[simp] theorem Watch.endPass_launch (w : Watch) : w.endPass.launch = w.launch := by unfold Watch.endPass; split <;> rfl
@[simp] theorem Watch.endPass_slotNo (w : Watch) : w.endPass.slotNo = w.slotNo := by unfold Watch.endPass; split <;> rfl
@[simp] theorem Watch.endPass_tcause (w : Watch) : w.endPass.tcause = w.tcause := by unfold Watch.endPass; split <;> rfl
@[simp] theorem Watch.endPass_taddr (w : Watch) : w.endPass.taddr = w.taddr := by unfold Watch.endPass; split <;> rfl
@[simp] theorem Watch.endPass_tnext (w : Watch) : w.endPass.tnext = w.tnext := by unfold Watch.endPass; split <;> rfl
@[simp] theorem Watch.endPass_tval (w : Watch) : w.endPass.tval = w.tval := by unfold Watch.endPass; split <;> rfl
@[simp] theorem Watch.endPass_hm (w : Watch) : w.endPass.hm = w.hm := by unfold Watch.endPass; split <;> rfl
@[simp] theorem Watch.endPass_marker (w : Watch) : w.endPass.marker = w.marker := by unfold Watch.endPass; split <;> rfl
@[simp] theorem Watch.endPass_dfr (w : Watch) : w.endPass.dfr = w.dfr := by unfold Watch.endPass; split <;> rfl
@[simp] theorem Watch.endPass_faultsDue (w : Watch) : w.endPass.faultsDue = w.faultsDue := by unfold Watch.endPass; split <;> rfl
@[simp] theorem Watch.endPass_tgang (w : Watch) : w.endPass.tgang = w.tgang := by unfold Watch.endPass; split <;> rfl
@[simp] theorem Watch.endPass_abn (w : Watch) : w.endPass.abn = w.abn := by unfold Watch.endPass; split <;> rfl
@[simp] theorem Watch.endPass_tsa0 (w : Watch) : w.endPass.tsa0 = w.tsa0 := by unfold Watch.endPass; split <;> rfl
@[simp] theorem Watch.endPass_tsa1 (w : Watch) : w.endPass.tsa1 = w.tsa1 := by unfold Watch.endPass; split <;> rfl
@[simp] theorem Watch.endPass_savedAfter (w : Watch) : w.endPass.savedAfter = w.savedAfter := by unfold Watch.endPass; split <;> rfl
@[simp] theorem Watch.endPass_fpTrap (w : Watch) : w.endPass.fpTrap = w.fpTrap := by unfold Watch.endPass; split <;> rfl
@[simp] theorem Watch.endPass_nlend (w : Watch) : w.endPass.nlend = w.nlend := by unfold Watch.endPass; split <;> rfl
@[simp] theorem Watch.endPass_nbt (w : Watch) : w.endPass.nbt = w.nbt := by unfold Watch.endPass; split <;> rfl
@[simp] theorem Watch.endPass_quota (w : Watch) : w.endPass.quota = w.quota := by unfold Watch.endPass; split <;> rfl
@[simp] theorem Watch.endPass_pins (w : Watch) : w.endPass.pins = w.pins := by unfold Watch.endPass; split <;> rfl
@[simp] theorem Watch.endPass_taken (w : Watch) : w.endPass.taken = w.taken := by unfold Watch.endPass; split <;> rfl
@[simp] theorem Watch.endPass_kenr (w : Watch) : w.endPass.kenr = w.kenr := by unfold Watch.endPass; split <;> rfl
@[simp] theorem Watch.endPass_fpc (w : Watch) : w.endPass.fpc = w.fpc := by unfold Watch.endPass; split <;> rfl
@[simp] theorem Watch.endPass_floops (w : Watch) : w.endPass.floops = w.floops := by unfold Watch.endPass; split <;> rfl
@[simp] theorem Watch.endPass_rargs (w : Watch) : w.endPass.rargs = w.rargs := by unfold Watch.endPass; split <;> rfl
@[simp] theorem Watch.endPass_gang (w : Watch) : w.endPass.gang = w.gang := by unfold Watch.endPass; split <;> rfl
@[simp] theorem Watch.endPass_gp (w : Watch) : w.endPass.gp = w.gp := by unfold Watch.endPass; split <;> rfl
@[simp] theorem Watch.endPass_gs (w : Watch) : w.endPass.gs = w.gs := by unfold Watch.endPass; split <;> rfl
@[simp] theorem Watch.endPass_claim (w : Watch) : w.endPass.claim = w.claim := by unfold Watch.endPass; split <;> rfl
@[simp] theorem Watch.endPass_cancelled (w : Watch) : w.endPass.cancelled = w.cancelled := by unfold Watch.endPass; split <;> rfl
@[simp] theorem Watch.endPass_nbr (w : Watch) : w.endPass.nbr = w.nbr := by unfold Watch.endPass; split <;> rfl
@[simp] theorem Watch.endPass_markPc (w : Watch) : w.endPass.markPc = w.markPc := by unfold Watch.endPass; split <;> rfl
@[simp] theorem Watch.endPass_img_latch (w : Watch) : w.endPass.img.latch = w.img.latch := by unfold Watch.endPass; split <;> rfl
@[simp] theorem Watch.endPass_img_vlatch (w : Watch) : w.endPass.img.vlatch = w.img.vlatch := by unfold Watch.endPass; split <;> rfl
@[simp] theorem Watch.endPass_img_tport (w : Watch) : w.endPass.img.tport = w.img.tport := by unfold Watch.endPass; split <;> rfl
@[simp] theorem Watch.endPass_img_vport (w : Watch) : w.endPass.img.vport = w.img.vport := by unfold Watch.endPass; split <;> rfl
@[simp] theorem Watch.endPass_img_pport (w : Watch) : w.endPass.img.pport = w.img.pport := by unfold Watch.endPass; split <;> rfl
@[simp] theorem Watch.endPass_img_pst (w : Watch) : w.endPass.img.pst = w.img.pst := by unfold Watch.endPass; split <;> rfl
@[simp] theorem Watch.endPass_img_flights (w : Watch) : w.endPass.img.flights = w.img.flights := by unfold Watch.endPass; split <;> rfl
@[simp] theorem Watch.endPass_img_slot (w : Watch) : w.endPass.img.slot = w.img.slot := by unfold Watch.endPass; split <;> rfl
@[simp] theorem Watch.endPass_img_results (w : Watch) : w.endPass.img.results = w.img.results := by unfold Watch.endPass; split <;> rfl
@[simp] theorem Watch.endPass_img_faults (w : Watch) : w.endPass.img.faults = w.img.faults := by unfold Watch.endPass; split <;> rfl
@[simp] theorem Watch.endPass_img_waits (w : Watch) : w.endPass.img.waits = w.img.waits := by unfold Watch.endPass; split <;> rfl
@[simp] theorem Watch.endPass_img_csrs (w : Watch) : w.endPass.img.csrs = w.img.csrs := by unfold Watch.endPass; split <;> rfl
@[simp] theorem Watch.endPass_img_landed (w : Watch) : w.endPass.img.landed = w.img.landed := by unfold Watch.endPass; split <;> rfl
@[simp] theorem Watch.endPass_img_regs (w : Watch) : w.endPass.img.regs = w.img.regs := by unfold Watch.endPass; split <;> rfl
@[simp] theorem Watch.endPass_passDue (w : Watch) : w.endPass.passDue = none := by
  unfold Watch.endPass; split <;> simp_all

/-! ### Parking (R63) -/

@[simp] theorem Watch.park_prior (w : Watch) (a : After) (p : Word) : (w.park a p).prior = w.prior := Watch.endPass_prior w
@[simp] theorem Watch.park_readyAt (w : Watch) (a : After) (p : Word) : (w.park a p).readyAt = w.readyAt := Watch.endPass_readyAt w
@[simp] theorem Watch.park_pauseCnt (w : Watch) (a : After) (p : Word) : (w.park a p).pauseCnt = w.pauseCnt := Watch.endPass_pauseCnt w
@[simp] theorem Watch.park_pauseEnd (w : Watch) (a : After) (p : Word) : (w.park a p).pauseEnd = w.pauseEnd := Watch.endPass_pauseEnd w
@[simp] theorem Watch.park_x (w : Watch) (a : After) (p : Word) : (w.park a p).x = w.x := Watch.endPass_x w
@[simp] theorem Watch.park_v (w : Watch) (a : After) (p : Word) : (w.park a p).v = w.v := Watch.endPass_v w
@[simp] theorem Watch.park_g (w : Watch) (a : After) (p : Word) : (w.park a p).g = w.g := Watch.endPass_g w
@[simp] theorem Watch.park_windows (w : Watch) (a : After) (p : Word) : (w.park a p).windows = w.windows := Watch.endPass_windows w
@[simp] theorem Watch.park_fseed (w : Watch) (a : After) (p : Word) : (w.park a p).fseed = w.fseed := Watch.endPass_fseed w
@[simp] theorem Watch.park_saved (w : Watch) (a : After) (p : Word) : (w.park a p).saved = w.saved := Watch.endPass_saved w
@[simp] theorem Watch.park_loads (w : Watch) (a : After) (p : Word) : (w.park a p).loads = w.loads := Watch.endPass_loads w
@[simp] theorem Watch.park_ord (w : Watch) (a : After) (p : Word) : (w.park a p).ord = w.ord := Watch.endPass_ord w
@[simp] theorem Watch.park_syncOrd (w : Watch) (a : After) (p : Word) : (w.park a p).syncOrd = w.syncOrd := Watch.endPass_syncOrd w
@[simp] theorem Watch.park_path (w : Watch) (a : After) (p : Word) : (w.park a p).path = w.path := Watch.endPass_path w
@[simp] theorem Watch.park_appended (w : Watch) (a : After) (p : Word) : (w.park a p).appended = w.appended := Watch.endPass_appended w
@[simp] theorem Watch.park_bc (w : Watch) (a : After) (p : Word) : (w.park a p).bc = w.bc := Watch.endPass_bc w
@[simp] theorem Watch.park_fst (w : Watch) (a : After) (p : Word) : (w.park a p).fst = w.fst := Watch.endPass_fst w
@[simp] theorem Watch.park_sib (w : Watch) (a : After) (p : Word) : (w.park a p).sib = w.sib := Watch.endPass_sib w
@[simp] theorem Watch.park_tk (w : Watch) (a : After) (p : Word) : (w.park a p).tk = w.tk := Watch.endPass_tk w
@[simp] theorem Watch.park_mp (w : Watch) (a : After) (p : Word) : (w.park a p).mp = w.mp := Watch.endPass_mp w
@[simp] theorem Watch.park_oid (w : Watch) (a : After) (p : Word) : (w.park a p).oid = w.oid := Watch.endPass_oid w
@[simp] theorem Watch.park_lnch (w : Watch) (a : After) (p : Word) : (w.park a p).lnch = w.lnch := Watch.endPass_lnch w
@[simp] theorem Watch.park_gph (w : Watch) (a : After) (p : Word) : (w.park a p).gph = w.gph := Watch.endPass_gph w
@[simp] theorem Watch.park_part (w : Watch) (a : After) (p : Word) : (w.park a p).part = w.part := Watch.endPass_part w
@[simp] theorem Watch.park_launch (w : Watch) (a : After) (p : Word) : (w.park a p).launch = w.launch := Watch.endPass_launch w
@[simp] theorem Watch.park_slotNo (w : Watch) (a : After) (p : Word) : (w.park a p).slotNo = w.slotNo := Watch.endPass_slotNo w
@[simp] theorem Watch.park_tcause (w : Watch) (a : After) (p : Word) : (w.park a p).tcause = w.tcause := Watch.endPass_tcause w
@[simp] theorem Watch.park_taddr (w : Watch) (a : After) (p : Word) : (w.park a p).taddr = w.taddr := Watch.endPass_taddr w
@[simp] theorem Watch.park_tnext (w : Watch) (a : After) (p : Word) : (w.park a p).tnext = w.tnext := Watch.endPass_tnext w
@[simp] theorem Watch.park_tval (w : Watch) (a : After) (p : Word) : (w.park a p).tval = w.tval := Watch.endPass_tval w
@[simp] theorem Watch.park_hm (w : Watch) (a : After) (p : Word) : (w.park a p).hm = w.hm := Watch.endPass_hm w
@[simp] theorem Watch.park_marker (w : Watch) (a : After) (p : Word) : (w.park a p).marker = w.marker := Watch.endPass_marker w
@[simp] theorem Watch.park_dfr (w : Watch) (a : After) (p : Word) : (w.park a p).dfr = w.dfr := Watch.endPass_dfr w
@[simp] theorem Watch.park_faultsDue (w : Watch) (a : After) (p : Word) : (w.park a p).faultsDue = w.faultsDue := Watch.endPass_faultsDue w
@[simp] theorem Watch.park_tgang (w : Watch) (a : After) (p : Word) : (w.park a p).tgang = w.tgang := Watch.endPass_tgang w
@[simp] theorem Watch.park_abn (w : Watch) (a : After) (p : Word) : (w.park a p).abn = w.abn := Watch.endPass_abn w
@[simp] theorem Watch.park_tsa0 (w : Watch) (a : After) (p : Word) : (w.park a p).tsa0 = w.tsa0 := Watch.endPass_tsa0 w
@[simp] theorem Watch.park_tsa1 (w : Watch) (a : After) (p : Word) : (w.park a p).tsa1 = w.tsa1 := Watch.endPass_tsa1 w
@[simp] theorem Watch.park_savedAfter (w : Watch) (a : After) (p : Word) : (w.park a p).savedAfter = w.savedAfter := Watch.endPass_savedAfter w
@[simp] theorem Watch.park_fpTrap (w : Watch) (a : After) (p : Word) : (w.park a p).fpTrap = w.fpTrap := Watch.endPass_fpTrap w
@[simp] theorem Watch.park_nlend (w : Watch) (a : After) (p : Word) : (w.park a p).nlend = w.nlend := Watch.endPass_nlend w
@[simp] theorem Watch.park_nbt (w : Watch) (a : After) (p : Word) : (w.park a p).nbt = w.nbt := Watch.endPass_nbt w
@[simp] theorem Watch.park_quota (w : Watch) (a : After) (p : Word) : (w.park a p).quota = w.quota := Watch.endPass_quota w
@[simp] theorem Watch.park_pins (w : Watch) (a : After) (p : Word) : (w.park a p).pins = w.pins := Watch.endPass_pins w
@[simp] theorem Watch.park_taken (w : Watch) (a : After) (p : Word) : (w.park a p).taken = w.taken := Watch.endPass_taken w
@[simp] theorem Watch.park_kenr (w : Watch) (a : After) (p : Word) : (w.park a p).kenr = w.kenr := Watch.endPass_kenr w
@[simp] theorem Watch.park_fpc (w : Watch) (a : After) (p : Word) : (w.park a p).fpc = w.fpc := Watch.endPass_fpc w
@[simp] theorem Watch.park_floops (w : Watch) (a : After) (p : Word) : (w.park a p).floops = w.floops := Watch.endPass_floops w
@[simp] theorem Watch.park_rargs (w : Watch) (a : After) (p : Word) : (w.park a p).rargs = w.rargs := Watch.endPass_rargs w
@[simp] theorem Watch.park_gang (w : Watch) (a : After) (p : Word) : (w.park a p).gang = w.gang := Watch.endPass_gang w
@[simp] theorem Watch.park_gp (w : Watch) (a : After) (p : Word) : (w.park a p).gp = w.gp := Watch.endPass_gp w
@[simp] theorem Watch.park_gs (w : Watch) (a : After) (p : Word) : (w.park a p).gs = w.gs := Watch.endPass_gs w
@[simp] theorem Watch.park_claim (w : Watch) (a : After) (p : Word) : (w.park a p).claim = w.claim := Watch.endPass_claim w
@[simp] theorem Watch.park_cancelled (w : Watch) (a : After) (p : Word) : (w.park a p).cancelled = w.cancelled := Watch.endPass_cancelled w
@[simp] theorem Watch.park_nbr (w : Watch) (a : After) (p : Word) : (w.park a p).nbr = w.nbr := Watch.endPass_nbr w

end Sys2Proof.Machine
end

