-- ==== Sys2Proof/Laws/Issue.lean ====
section
/-! SUPPORT. What the issue of a word does in a watch whose turn it is. -/
namespace Sys2Proof.Machine

theorem State.each_nil {α : Type} (s : State) (f : State → α → State) : s.each [] f = s := rfl
@[simp] theorem State.each_one {α : Type} (s : State) (a : α) (f : State → α → State) : s.each [a] f = f s a := rfl
theorem State.each_cons {α : Type} (s : State) (a : α) (l : List α) (f : State → α → State) :
    s.each (a :: l) f = (f s a).each l f := rfl

end Sys2Proof.Machine

namespace Sys2Proof
open Machine

variable {s : State} {k : Nat}

theorem Turn.members (h : Turn s k) : s.members k = [k] := by simp [State.members, h.solo]

theorem Turn.issuing (h : Turn s k) : (s.coreAt (k / 4)).issuing = some (k % 4) := by
  have hi := h.issuer
  have hc := h.here
  simp only [State.issuer, Option.map_eq_some_iff] at hi
  obtain ⟨j, hj, he⟩ := hi
  rw [hc, hj]
  congr 1
  omega

/-- The loop buffer that is filled again changes no watch, and not what its core issues. -/
@[simp] theorem refill_watch (s : State) (k j : Nat) : (s.refill k).watch j = s.watch j := by
  unfold State.refill
  split
  · rfl
  · split
    · rfl
    · apply State.coreAt_onCore_watches; intro v; rfl
@[simp] theorem refill_issuing (s : State) (k : Nat) : ((s.refill k).coreAt (k / 4)).issuing = (s.coreAt (k / 4)).issuing := by
  unfold State.refill
  split
  · rfl
  · split
    · rfl
    · simp

@[simp] theorem refill_cycles (s : State) (k : Nat) : (s.refill k).cycles = s.cycles := by
  unfold State.refill
  split
  · rfl
  · split <;> rfl

theorem ready_eq (s : State) (k : Nat) :
    ready s k = if (s.watch k).passDue = none then s.pass 1
      else if (s.watch k).endPass.pc = (s.watch k).pc then (s.pass 1).onWatch k Watch.endPass
      else ((s.pass 1).onWatch k Watch.endPass).refill k := by
  simp only [ready, State.endPasses, State.each_one, State.watch_onWatch, State.watch_pass]
  congr

@[simp] theorem ready_watch (s : State) (k : Nat) : (ready s k).watch k = (s.watch k).endPass := by
  rw [ready_eq]
  split
  · rename_i h
    simp [Watch.endPass, h]
  · split <;> simp

@[simp] theorem ready_issuing (s : State) (k : Nat) : ((ready s k).coreAt (k / 4)).issuing = (s.coreAt (k / 4)).issuing := by
  rw [ready_eq]
  split
  · rfl
  · split
    · rw [State.coreAt_onWatch]; rfl
    · rw [refill_issuing, State.coreAt_onWatch]; rfl

theorem Turn.ready_stall (h : Turn s k) : (ready s k).nbrStall [k] = false := by
  simp only [State.nbrStall, List.any_cons, List.any_nil, Bool.or_false, ready_watch, Watch.endPass_nbr]
  split
  · rename_i n hq; simp [h.quiet n hq]
  · rfl

/-- A word of the watch whose turn it is, if nothing holds it and its own-slot checks pass: it acts and its slot passes. -/
theorem Turn.runWord (h : Turn s k) (i : Instr) (f : WordForm) (t : State)
    (hs : f.stall (ready s k) k = false) (ha : f.act (ready s k) k = .ok t) :
    s.runWord i f = f.last ((f.post t [k]).finishAll [k] i.len (markerOf i && f.parks) f.lands (f.flow (ready s k) [k])) [k]
      (s.watch k).endPass.pc := by
  have hf : (s.watch k).endPass.fpTrap = none := (Watch.endPass_fpTrap _).trans h.calm
  unfold State.runWord
  rw [h.issuer]
  simp only [h.members, show (s.pass 1).endPasses [k] = ready s k from rfl, h.ready_stall, List.any_cons, List.any_nil, hs,
    Bool.or_false, ready_watch, hf, WordForm.tries, ha, State.perform]
  rfl

/-- A word of the watch whose turn it is that fails an own-slot check: the trap is taken, and nothing is performed. -/
theorem Turn.runWord_trap (h : Turn s k) (i : Instr) (f : WordForm) (e : Nat × Word)
    (hs : f.stall (ready s k) k = false) (ha : f.act (ready s k) k = .error e) :
    s.runWord i f = (ready s k).trap [k] (fun j => if j = k then some e else none) (fun _ => (s.watch k).endPass.pc)
      (s.watch k).endPass.pc false := by
  have hf : (s.watch k).endPass.fpTrap = none := (Watch.endPass_fpTrap _).trans h.calm
  have hr : (fun j => (([(k, e)] : List (Nat × Nat × Word)).find? (·.1 = j)).map Prod.snd) = fun j => if j = k then some e else none := by
    funext j
    by_cases hj : j = k
    · subst hj; simp
    · simp [hj, Ne.symm hj]
  unfold State.runWord
  rw [h.issuer]
  simp only [h.members, show (s.pass 1).endPasses [k] = ready s k from rfl, h.ready_stall, List.any_cons, List.any_nil, hs,
    Bool.or_false, ready_watch, hf, WordForm.tries, ha, hr]
  rfl

/-- A change of a core that keeps the loops of its watch and the tag of its loop buffer commutes with the refill of that buffer. -/
theorem refill_onCore (s : State) (k : Nat) (f : Core → Core)
    (hl : ((f (s.coreAt (k / 4))).watch k).img.loops = ((s.coreAt (k / 4)).watch k).img.loops)
    (ht : ∀ v, (f v).loopTag = v.loopTag)
    (hf : ∀ v t b, f { v with loopTag := t, loopBuf := b } = { f v with loopTag := t, loopBuf := b }) :
    (s.refill k).onCore (k / 4) f = (s.onCore (k / 4) f).refill k := by
  unfold State.refill
  have e : ((s.onCore (k / 4) f).watch k).img.loops = (s.watch k).img.loops := by
    show (((s.onCore (k / 4) f).coreAt (k / 4)).watch k).img.loops = _
    rw [State.coreAt_onCore, hl]; rfl
  rw [e]
  cases (s.watch k).img.loops.getLast? with
  | none => rfl
  | some l =>
    simp only [State.coreAt_onCore, ht]
    split
    · rfl
    · rw [State.onCore_onCore, State.onCore_onCore]
      congr 1
      funext v
      exact hf v _ _

theorem Watch.endPass_endPass (w : Watch) : w.endPass.endPass = w.endPass := by
  cases h : w.passDue <;> simp [Watch.endPass, h]
theorem Watch.park_endPass (w : Watch) (a : After) (p : Word) : w.endPass.park a p = w.park a p := by
  simp [Watch.park, Watch.endPass_endPass]

/-- The slot of one watch's word passes, and issue goes on at the next word. -/
theorem finishAll_one (r : State) (k len : Nat) (m l : Bool) (hi : (r.coreAt (k / 4)).issuing = some (k % 4)) :
    r.finishAll [k] len m l .seq = passed r k m ((r.watch k).finishWord len .seq (l && !m)) := by
  cases m
  · simp only [State.finishAll, State.each_one, passed, State.onWatch, State.setWatch, State.onCore_onCore]
    simp [State.onCore, State.watch]
    rfl
  · have hw : ∀ (f : Core → Core), (r.onCore (k / 4) f).watch k = (f (r.coreAt (k / 4))).watch k := fun f => by
      show (((r.onCore (k / 4) f).coreAt (k / 4)).watch k) = _; rw [State.coreAt_onCore]
    simp only [State.finishAll, State.each_one, passed, parkedAs, if_true, Bool.not_true, Bool.and_false, List.head?_cons]
    generalize hv : (r.watch k).finishWord len .seq false = w
    have hs : (r.onWatch k fun w => w.finishWord len .seq (l && (some After.marker).isNone)).onCore (k / 4)
        (fun c => { c with issued := c.issued + 1 }) = r.onCore (k / 4) fun c => { c.setWatch k w with issued := c.issued + 1 } := by
      subst hv
      simp [State.onCore, State.onWatch, State.setWatch, State.watch]
      rfl
    rw [hs]
    generalize ht : (r.onCore (k / 4) fun c => { c.setWatch k w with issued := c.issued + 1 }) = t
    have htw : t.watch k = w := by rw [← ht, hw]; exact Core.watch_setWatch _ _ _
    have hc : t.cycles = r.cycles := by rw [← ht]; rfl
    have leave : ∀ p (q : State), (q.coreAt (k / 4)).issuing = some (k % 4) → (q.onWatch k fun w => w.park .marker p).leaveIssue k =
        (q.onCore (k / 4) fun c => { c.setWatch k ((c.watch k).park .marker p) with
          issuing := none, lastWid := k % 4, idle := q.cycles }).select (k / 4) := by
      intro p q hq
      simp only [State.leaveIssue, State.onWatch, State.setWatch, State.onCore_onCore, State.watch]
      congr 1
      simp only [State.onCore]
      congr 1
      simp [Core.setWatch, hq]
    have hti : (t.coreAt (k / 4)).issuing = some (k % 4) := by rw [← ht, State.coreAt_onCore]; exact hi
    have goal : ∀ p, (t.onCore (k / 4) fun c => { c.setWatch k ((c.watch k).park .marker p) with
          issuing := none, lastWid := k % 4, idle := t.cycles }) = r.onCore (k / 4) fun c =>
        { c.setWatch k (w.park .marker p) with
          issued := c.issued + 1, issuing := none, lastWid := k % 4, idle := r.cycles } := by
      intro p
      rw [hc, ← ht, State.onCore_onCore]
      congr 1
      funext c
      simp [Core.setWatch, Core.watch]
    have same : ∀ p, ((t.onWatch k Watch.endPass).onCore (k / 4) fun c => { c.setWatch k ((c.watch k).park .marker p) with
        issuing := none, lastWid := k % 4, idle := t.cycles }) = t.onCore (k / 4) fun c => { c.setWatch k ((c.watch k).park .marker p) with
          issuing := none, lastWid := k % 4, idle := t.cycles } := by
      intro p
      simp [State.onWatch, State.setWatch, State.onCore, State.watch, Core.setWatch, Core.watch, Watch.park_endPass]
    have hep : ((t.onWatch k Watch.endPass).coreAt (k / 4)).issuing = some (k % 4) := by rw [State.coreAt_onWatch]; exact hti
    simp only [State.endPasses, State.each_one, State.watch_onWatch, htw]
    by_cases hp : w.passDue = none
    · simp only [hp, if_true, true_or, leave _ _ hti, goal]
    · simp only [hp, if_false, false_or]
      by_cases hq : w.endPass.pc = w.pc
      · simp only [hq, if_true, leave _ _ hep, State.onWatch_cycles, same, goal]
      · simp only [hq, if_false]
        rw [leave _ _ (by rw [refill_issuing]; exact hep), refill_cycles, State.onWatch_cycles, refill_onCore, same, goal]
        · refine (congrArg (fun v => v.img.loops) (Core.watch_setWatch _ k _)).trans ?_
          have e : ((t.onWatch k Watch.endPass).coreAt (k / 4)).watch k = w.endPass := by
            rw [State.coreAt_onWatch, Core.watch_setWatch]; exact congrArg _ htw
          rw [e, Watch.park_endPass]
          rfl
        · intro v; rfl
        · intro v a b; rfl

end Sys2Proof
end

