-- ==== Sys2Proof/Laws/Landing.lean ====
section
/-! SUPPORT. Landing of timed results: what it changes, and that it commutes with changes of anything else (R58, R59, R179). -/
namespace Sys2Proof.Machine

theorem Watch.enables_orFlags (w : Watch) (f : BitVec 6) : (w.orFlags f).enables = w.enables := by
  simp only [Watch.enables, Watch.orFlags]
  ext i hi
  simp only [BitVec.getElem_extractLsb', BitVec.getLsbD_or, BitVec.getLsbD_shiftLeft, BitVec.getLsbD_setWidth]
  have : f.getLsbD (16 + i - 8) = false := BitVec.getLsbD_of_ge _ _ (by omega)
  simp [this]

/-- What landing writes: the port, the register of a C2 word, the flags, and the trap that they raise. -/
theorem Watch.land_eq (w : Watch) (f : Flight) : w.land f =
    { w with
      img := { w.img with
        tport := if unitNo f.unit < 5 then w.img.tport.setIfInBounds (unitNo f.unit) f.val else w.img.tport
        vport := if unitNo f.unit < 5 then w.img.vport else
          match f.q with
          | some q => (w.img.vport.setIfInBounds (unitNo f.unit - 5) f.vec).setIfInBounds 2 q
          | none => w.img.vport.setIfInBounds (unitNo f.unit - 5) f.vec }
      x := match f.xd with
        | some r => if r.val = 0 then w.x else w.x.setIfInBounds r.val f.val
        | none => w.x
      fst := w.fst ||| (f.fl.setWidth 64 <<< 8)
      fpTrap := if f.fl &&& w.enables = 0 || w.fpTrap.isSome then w.fpTrap
        else some ⟨0, 8, f.pc, fpTval (f.fl &&& w.enables) f.op8 (unitNo f.unit)⟩ } := by
  unfold Watch.land
  have he := Watch.enables_orFlags w f.fl
  simp only [Watch.enables, Watch.orFlags] at he ⊢
  by_cases hn : unitNo f.unit < 5 <;> rcases f.q with _ | q <;> rcases f.xd with _ | r <;>
    by_cases hz : f.fl &&& BitVec.extractLsb' 16 6 w.fst = 0 <;> rcases hp : w.fpTrap with _ | d <;>
    (try by_cases hr : r = 0) <;> simp_all <;> simp [Nat.not_lt.mpr hn]

/-- A watch with other latches, loop levels, flights and slot count in its image, and other loads, program counter and due pass. -/
def Watch.aside (w : Watch) (la : Vector Word 28) (vl : Vector Vec 4) (lo : List Loop) (fl : List Flight) (sl : Nat) (ld : BitVec 6)
    (loads : List PLoad) (pc : Word) (due : Option Word) : Watch :=
  { w with
    img := { w.img with latch := la, vlatch := vl, loops := lo, flights := fl, slot := sl, landed := ld }
    loads := loads
    pc := pc
    passDue := due }

theorem Watch.land_aside (w : Watch) (f : Flight) (la vl lo fl sl ld loads pc due) :
    (w.aside la vl lo fl sl ld loads pc due).land f = (w.land f).aside la vl lo fl sl ld loads pc due := by
  rw [Watch.land_eq, Watch.land_eq]
  rfl

theorem Watch.lands_aside (w : Watch) (l : List Flight) (la vl lo fl sl ld loads pc due) :
    l.foldl Watch.land (w.aside la vl lo fl sl ld loads pc due) = (l.foldl Watch.land w).aside la vl lo fl sl ld loads pc due := by
  induction l generalizing w with
  | nil => rfl
  | cons f l ih => rw [List.foldl_cons, List.foldl_cons, Watch.land_aside, ih]

theorem Watch.aside_self (w : Watch) :
    w.aside w.img.latch w.img.vlatch w.img.loops w.img.flights w.img.slot w.img.landed w.loads w.pc w.passDue = w := rfl

/-- What landing leaves alone. -/
theorem Watch.lands_kept (w : Watch) (l : List Flight) : l.foldl Watch.land w =
    (l.foldl Watch.land w).aside w.img.latch w.img.vlatch w.img.loops w.img.flights w.img.slot w.img.landed w.loads w.pc w.passDue := by
  conv => lhs; rw [← Watch.aside_self w]
  rw [Watch.lands_aside]

/-- The results due in the next slot, and those due later. -/
def Watch.dueNext (w : Watch) : List Flight := w.img.flights.filter fun f => f.due ≤ w.img.slot + 1
def Watch.dueLater (w : Watch) : List Flight := w.img.flights.filter fun f => !decide (f.due ≤ w.img.slot + 1)

/-- What the passing of a slot does to a watch. -/
theorem Watch.advance_eq (w : Watch) : w.advance =
    (w.dueNext.foldl Watch.land w).aside w.img.latch w.img.vlatch w.img.loops w.dueLater (w.img.slot + 1)
      (w.dueNext.foldl (fun l f => l ||| f.fl) 0) w.loads w.pc w.passDue :=
  Watch.lands_aside w w.dueNext _ _ _ _ _ _ _ _ _

/-- A result that starts on its way with a latency of one slot lands as the word's slot passes, after those already due. -/
theorem Watch.advance_launch_one (w : Watch) (f : Flight) : (w.launchTimed f 1).advance =
    { w.advance.land { f with due := w.img.slot + 1 } with
      img := { (w.advance.land { f with due := w.img.slot + 1 }).img with landed := w.advance.img.landed ||| f.fl } } := by
  rw [Watch.advance_eq, Watch.advance_eq w, Watch.land_aside]
  have h1 : (w.launchTimed f 1).dueNext = w.dueNext ++ [{ f with due := w.img.slot + 1 }] := by
    simp [Watch.dueNext, Watch.launchTimed]
    rfl
  have h2 : (w.launchTimed f 1).dueLater = w.dueLater := by
    simp [Watch.dueLater, Watch.launchTimed]
    rfl
  rw [h1, h2, List.foldl_append, List.foldl_append]
  have h3 : w.launchTimed f 1 = w.aside w.img.latch w.img.vlatch w.img.loops (w.img.flights ++ [{ f with due := w.img.slot + 1 }])
    w.img.slot w.img.landed w.loads w.pc w.passDue := rfl
  rw [h3, Watch.lands_aside]
  simp only [List.foldl_cons, List.foldl_nil, Watch.land_aside]
  rfl

/-- A result that starts on its way with a longer latency is in flight when the word's slot has passed. -/
theorem Watch.advance_launch_later (w : Watch) (f : Flight) (n : Nat) (hn : 2 ≤ n) : (w.launchTimed f n).advance =
    { w.advance with img := { w.advance.img with flights := w.advance.img.flights ++ [{ f with due := w.img.slot + n }] } } := by
  have h : ¬(w.img.slot + n ≤ w.img.slot + 1) := by omega
  rw [Watch.advance_eq, Watch.advance_eq w]
  have h1 : (w.launchTimed f n).dueNext = w.dueNext := by
    simp [Watch.dueNext, Watch.launchTimed, h]
    rfl
  have h2 : (w.launchTimed f n).dueLater = w.dueLater ++ [{ f with due := w.img.slot + n }] := by
    simp [Watch.dueLater, Watch.launchTimed, h]
    rfl
  have h3 : w.launchTimed f n = w.aside w.img.latch w.img.vlatch w.img.loops (w.img.flights ++ [{ f with due := w.img.slot + n }])
    w.img.slot w.img.landed w.loads w.pc w.passDue := rfl
  rw [h1, h2, h3, Watch.lands_aside]
  rfl

end Sys2Proof.Machine
end

