-- ==== Sys2Proof/Laws/Memory.lean ====
section
/-! SUPPORT. The laws of memory: every operation keeps the canonical form; a read after a write; what a write at a home leaves alone. -/
namespace Sys2Proof
namespace Tbl

variable {α : Type} [DecidableEq α]

theorem wf_foldl_put (d : α) (l : List (Nat × α)) : ∀ t : Tbl α, wf d t = true →
    wf d (l.foldl (fun m e => put d m e.1 e.2) t) = true := by
  induction l with
  | nil => exact fun _ h => h
  | cons e l ih => exact fun t h => ih _ (wf_put d t e.1 e.2 h)

omit [DecidableEq α] in
theorem risingFrom_filter (p : Nat × α → Bool) : ∀ (t : Tbl α) (lo : Nat), risingFrom lo t = true → risingFrom lo (t.filter p) = true
  | [], _, _ => rfl
  | (k, v) :: t, lo, h => by
    simp only [risingFrom, Bool.and_eq_true, decide_eq_true_eq] at h
    have ih := risingFrom_filter p t (k + 1) h.2
    by_cases hp : p (k, v) = true
    · simp [List.filter_cons_of_pos hp, risingFrom, h.1, ih]
    · rw [List.filter_cons_of_neg hp]
      exact risingFrom_mono (Nat.le_succ_of_le h.1) _ ih

theorem wf_filter (d : α) (p : Nat × α → Bool) (t : Tbl α) (h : wf d t = true) : wf d (t.filter p) = true := by
  simp only [wf, Bool.and_eq_true, List.all_eq_true] at h ⊢
  exact ⟨risingFrom_filter p t 0 h.1, fun e he => h.2 e (List.mem_filter.mp he).1⟩

theorem get_foldl_put_other (d : α) (l : List (Nat × α)) {x : Nat} (h : ∀ e ∈ l, e.1 ≠ x) : ∀ t : Tbl α,
    get d (l.foldl (fun m e => put d m e.1 e.2) t) x = get d t x := by
  induction l with
  | nil => exact fun _ => rfl
  | cons e l ih =>
    intro t
    rw [List.foldl_cons, ih (fun e' he => h e' (.tail _ he)), get_put_other d t e.2 (h e (.head _))]

theorem get_foldl_put_mem (d : α) (l : List (Nat × α)) (hn : (l.map Prod.fst).Nodup) {e : Nat × α} (he : e ∈ l) : ∀ t : Tbl α,
    get d (l.foldl (fun m e => put d m e.1 e.2) t) e.1 = e.2 := by
  induction l with
  | nil => cases he
  | cons x l ih =>
    intro t
    simp only [List.map_cons, List.nodup_cons] at hn
    rw [List.foldl_cons]
    rcases List.mem_cons.mp he with rfl | he'
    · rw [get_foldl_put_other d l (fun e' h' hx => hn.1 (List.mem_map.mpr ⟨e', h', hx⟩)), get_put_same]
    · exact ih hn.2 he' _

end Tbl

namespace Machine

/-! ## Bytes at their home -/

theorem State.putBytes_memWf (s : State) (l : List (Nat × Byte)) (h : s.memWf) : (s.putBytes l).memWf := Tbl.wf_foldl_put 0 l _ h
theorem State.putNat_memWf (s : State) (a n v : Nat) (h : s.memWf) : (s.putNat a n v).memWf := s.putBytes_memWf _ h
theorem State.putWord_memWf (s : State) (a : Nat) (w : Word) (h : s.memWf) : (s.putWord a w).memWf := s.putNat_memWf _ _ _ h

/-- A write leaves every other byte alone. -/
theorem State.home_putBytes_other (s : State) (l : List (Nat × Byte)) {x : Nat} (h : ∀ e ∈ l, e.1 ≠ x) :
    (s.putBytes l).home x = s.home x := Tbl.get_foldl_put_other 0 l h _
/-- A read after a write of distinct bytes gives the byte written. -/
theorem State.home_putBytes_mem (s : State) (l : List (Nat × Byte)) (hn : (l.map Prod.fst).Nodup) {e : Nat × Byte} (he : e ∈ l) :
    (s.putBytes l).home e.1 = e.2 := Tbl.get_foldl_put_mem 0 l hn he _

/-- The little-endian bytes of a number are its digits. -/
theorem leNat_leBytes : ∀ n v : Nat, leNat (leBytes n v) = v % 256 ^ n
  | 0, v => by simp [leBytes, leNat, Nat.mod_one]
  | n + 1, v => by
    rw [leBytes, leNat, leNat_leBytes n, BitVec.toNat_ofNat]
    show v % 256 + 256 * (v / 256 % 256 ^ n) = v % 256 ^ (n + 1)
    rw [Nat.pow_succ, Nat.mul_comm (256 ^ n) 256, Nat.mod_mul]
theorem leBytes_length : ∀ n v : Nat, (leBytes n v).length = n
  | 0, _ => rfl
  | n + 1, v => by simp [leBytes, leBytes_length n]

/-! ## What a request at a home changes: which lines are held where (R354 to R358) -/

theorem State.each_keeps {α β : Type} (l : List α) (f : State → α → State) (g : State → β) (h : ∀ s a, g (f s a) = g s) :
    ∀ s : State, g (s.each l f) = g s := by
  induction l with
  | nil => exact fun _ => rfl
  | cons a l ih => exact fun s => (ih (f s a)).trans (h s a)

/-- What a state holds besides its boards and slices. -/
structure Apart {β : Type} (g : State → β) : Prop where
  board : ∀ s b f, g (State.onBoard s b f) = g s
  slice : ∀ s n f, g (State.onSlice s n f) = g s

namespace Apart
variable {β : Type} {g : State → β} (h : Apart g)
include h

theorem onTag (s : State) (line : Nat) (f : SliceLine → SliceLine) : g (s.onTag line f) = g s := h.slice _ _ _
theorem evict (s : State) (n line : Nat) : g (s.evict n line) = g s := by
  unfold State.evict
  rw [h.slice]
  exact State.each_keeps _ _ g (fun s b => h.board s b _) s
theorem roomFor (line n : Nat) (s : State) : g (s.roomFor line n).2 = g s := by
  induction n generalizing s with
  | zero => rfl
  | succ n ih =>
    unfold State.roomFor
    simp only
    split
    · rfl
    · split
      · rfl
      · rw [ih, h.evict]
theorem pack (s : State) (line : Nat) : g (s.pack line) = g s := by
  unfold State.pack
  split
  · rfl
  · rename_i t _
    simp only
    generalize (if t.keep = true then LineEnc.raw else lineEnc (s.homeNat (line * 64) 64)) = enc
    by_cases he : enc = LineEnc.raw
    · rw [if_pos he]
      split
      · exact h.onTag _ _ _
      · have hr := h.roomFor line 33 s
        split <;> rename_i hq <;> rw [hq] at hr
        · exact (h.onTag _ _ _).trans hr
        · exact (h.evict _ _ _).trans hr
    · rw [if_neg he]
      split
      · exact h.onTag _ _ _
      · split <;> exact h.onTag _ _ _
theorem allocate (s : State) (line : Nat) (k : Bool) (v : BitVec 16) : g (s.allocate line k v).2 = g s := by
  unfold State.allocate
  have hr := h.roomFor line 33 s
  split <;> rename_i e s' he <;> rw [he] at hr
  · exact hr
  · simp only
    exact (h.slice _ _ _).trans hr
/-- A request for a line that its slice need not fetch changes nothing but which lines are held where. -/
theorem touchLine (s : State) (line : Nat) (k : Bool) : g (s.touchLine line k) = g s := by
  unfold State.touchLine
  split
  · rfl
  · split
    · simp only
      split
      · rw [h.pack, h.onTag]
      · exact h.onTag _ _ _
    · rw [h.pack, h.allocate]

/-- A write at its home keeps what the bytes, the boards, the slices and the words forwarded do not hold. -/
theorem homePut (hu : ∀ (s : State) u, g { s with updates := u } = g s) (s : State) (l : List (Nat × Byte)) (own : Option Nat)
    (t : Nat) (hp : ∀ s, g (State.putBytes s l) = g s) : g (s.homePut l own t).2 = g s := by
  unfold State.homePut
  simp only
  rw [hu, State.each_keeps _ _ g (fun s a => (h.pack _ _).trans (h.onTag _ _ _)), hp]
  exact State.each_keeps _ _ g (fun s a => h.touchLine _ _ _) s
end Apart

theorem Apart.mem : Apart State.mem := ⟨fun _ _ _ => rfl, fun _ _ _ => rfl⟩
theorem Apart.cores : Apart State.cores := ⟨fun _ _ _ => rfl, fun _ _ _ => rfl⟩
theorem Apart.parts : Apart State.parts := ⟨fun _ _ _ => rfl, fun _ _ _ => rfl⟩
theorem Apart.fw : Apart State.fw := ⟨fun _ _ _ => rfl, fun _ _ _ => rfl⟩
theorem Apart.chains : Apart State.chains := ⟨fun _ _ _ => rfl, fun _ _ _ => rfl⟩
theorem Apart.cells : Apart State.cells := ⟨fun _ _ _ => rfl, fun _ _ _ => rfl⟩

@[simp] theorem State.touchLine_mem (s : State) (l : Nat) (k : Bool) : (s.touchLine l k).mem = s.mem := Apart.mem.touchLine s l k
@[simp] theorem State.touchLine_cores (s : State) (l : Nat) (k : Bool) : (s.touchLine l k).cores = s.cores := Apart.cores.touchLine s l k
@[simp] theorem State.touchLine_parts (s : State) (l : Nat) (k : Bool) : (s.touchLine l k).parts = s.parts := Apart.parts.touchLine s l k
@[simp] theorem State.touchLine_fw (s : State) (l : Nat) (k : Bool) : (s.touchLine l k).fw = s.fw := Apart.fw.touchLine s l k
@[simp] theorem State.touchLine_chains (s : State) (l : Nat) (k : Bool) : (s.touchLine l k).chains = s.chains := Apart.chains.touchLine s l k
@[simp] theorem State.touchLine_cells (s : State) (l : Nat) (k : Bool) : (s.touchLine l k).cells = s.cells := Apart.cells.touchLine s l k

/-- The bytes of a write stand at their home. -/
theorem State.homePut_mem (s : State) (l : List (Nat × Byte)) (own : Option Nat) (t : Nat) :
    (s.homePut l own t).2.mem = (s.putBytes l).mem := by
  have h : ∀ s : State, (s.each ((l.map (·.1 / 64)).eraseDups) fun s line => s.touchLine line false).mem = s.mem :=
    State.each_keeps _ _ State.mem (fun s a => Apart.mem.touchLine s a false)
  unfold State.homePut
  simp only
  rw [State.each_keeps _ _ State.mem (fun s a => (Apart.mem.pack _ _).trans (Apart.mem.onTag _ _ _))]
  simp only [State.putBytes, h]
@[simp] theorem State.seeRing_mem (s : State) (l : List (Nat × Byte)) : (s.seeRing l).mem = s.mem := by
  unfold State.seeRing
  simp only
  split <;> rfl
/-- A write by an agent but the device: the bytes that are not read-only stand at their home (R143, R270). -/
theorem State.homeWrite_mem (s : State) (l : List (Nat × Byte)) (own : Option Nat) (t : Nat) :
    (s.homeWrite l own t).2.mem = (s.putBytes (l.filter fun e => !s.pageHeld e.1)).mem := by
  unfold State.homeWrite
  rw [State.homePut_mem]
  simp [State.putBytes]

theorem State.applyUpdates_keeps {β : Type} (g : State → β) (hb : ∀ s b f, g (State.onBoard s b f) = g s)
    (hu : ∀ (s : State) u f, g { s with updates := u, stores := f } = g s) (s : State) : g s.applyUpdates = g s :=
  State.each_keeps _ _ g (fun s _ => (hu _ _ _).trans (hb s _ _)) s

/-! ## Every operation on memory keeps its canonical form -/

theorem State.memWf_of_mem {s t : State} (h : t.mem = s.mem) (w : s.memWf) : t.memWf := by
  unfold State.memWf at *; rw [h]; exact w
theorem State.each_wf {α : Type} (l : List α) (f : State → α → State) (h : ∀ s a, s.memWf → (f s a).memWf) :
    ∀ s : State, s.memWf → (s.each l f).memWf := by
  induction l with
  | nil => exact fun _ h => h
  | cons a l ih => exact fun s w => ih (f s a) (h s a w)
theorem State.homePut_wf (s : State) (l : List (Nat × Byte)) (own : Option Nat) (t : Nat) (w : s.memWf) : (s.homePut l own t).2.memWf :=
  State.memWf_of_mem (s.homePut_mem l own t) (s.putBytes_memWf l w)
theorem State.homeWrite_wf (s : State) (l : List (Nat × Byte)) (own : Option Nat) (t : Nat) (w : s.memWf) : (s.homeWrite l own t).2.memWf :=
  State.memWf_of_mem (s.homeWrite_mem l own t) (s.putBytes_memWf _ w)

end Machine
end Sys2Proof
end

