-- ==== Sys2Proof/Laws/PerInstr.lean ====
section
/-!
SUPPORT. What the encoding of every instruction says of itself: bit 0 of its first byte tells its length (R44, R46, R47).
-/
namespace Sys2Proof.Laws.Enc

/-- Bit 0 of an encoded word tells its length. -/
def lowBit (e : Enc) : Prop :=
  match e with
  | .half h => h.getLsbD 0 = false
  | .word w => w.getLsbD 0 = true

/-- An instruction that has an encoding is told apart in length by its lowest bit. -/
def Statement (i : Instr) : Prop :=
  match encode i with
  | some e => lowBit e
  | none => True

theorem low_append {n : Nat} (a : BitVec n) (l : Bool) : (a ++ b1 l).getLsbD 0 = l := by
  rw [BitVec.getLsbD_append]
  cases l <;> rfl

theorem encC_low (op : BitVec 4) (d s : BitVec 5) (m : Bool) : lowBit (encC op d s m) := low_append _ false
theorem encTo_low (s d : BitVec 7) (op : BitVec 8) (g : Guard) (w m : Bool) : lowBit (encTo s d op g w m) := low_append _ true
theorem encMem_low (op r : BitVec 5) (b : XReg) (i : BitVec 12) (m : Bool) : lowBit (encMem op r b i m) := low_append _ true
theorem encBr_low (op : BitVec 4) (g : Guard) (o : BitVec 19) (m : Bool) : lowBit (encBr op g o m) := low_append _ true
theorem encSys_low (op : BitVec 8) (a b : BitVec 5) (n : BitVec 9) (m : Bool) : lowBit (encSys op a b n m) := low_append _ true
theorem encT2_low (s : Src) (d : Dst) (a : Src) (b : Dst) (m : Bool) : lowBit (encT2 s d a b m) := low_append _ true

theorem cCp (d s : XReg) (m : Bool) : Statement (.cCp d s m) := encC_low _ _ _ _
theorem cAdd (d s : XReg) (m : Bool) : Statement (.cAdd d s m) := encC_low _ _ _ _
theorem cSub (d s : XReg) (m : Bool) : Statement (.cSub d s m) := encC_low _ _ _ _
theorem cAnd (d s : XReg) (m : Bool) : Statement (.cAnd d s m) := encC_low _ _ _ _
theorem cOr (d s : XReg) (m : Bool) : Statement (.cOr d s m) := encC_low _ _ _ _
theorem cXor (d s : XReg) (m : Bool) : Statement (.cXor d s m) := encC_low _ _ _ _
theorem cShl (d s : XReg) (m : Bool) : Statement (.cShl d s m) := encC_low _ _ _ _
theorem cShr (d s : XReg) (m : Bool) : Statement (.cShr d s m) := encC_low _ _ _ _
theorem cSar (d s : XReg) (m : Bool) : Statement (.cSar d s m) := encC_low _ _ _ _
theorem cMul (d s : XReg) (m : Bool) : Statement (.cMul d s m) := encC_low _ _ _ _
theorem cMin (d s : XReg) (m : Bool) : Statement (.cMin d s m) := encC_low _ _ _ _
theorem cMax (d s : XReg) (m : Bool) : Statement (.cMax d s m) := encC_low _ _ _ _
theorem cMinn (d s : XReg) (m : Bool) : Statement (.cMinn d s m) := encC_low _ _ _ _
theorem cMaxn (d s : XReg) (m : Bool) : Statement (.cMaxn d s m) := encC_low _ _ _ _
theorem cAndn (d s : XReg) (m : Bool) : Statement (.cAndn d s m) := encC_low _ _ _ _
theorem cAddi (d : XReg) (i : BitVec 5) (m : Bool) : Statement (.cAddi d i m) := encC_low _ _ _ _
theorem toWord (s : Src) (d : Dst) (g : Guard) (m : Bool) : Statement (.toWord s d g m) := encTo_low _ _ _ _ _ _
theorem t2 (s : Src) (d : Dst) (a : Src) (b : Dst) (m : Bool) : Statement (.t2 s d a b m) := encT2_low _ _ _ _ _
theorem ti (d : Dst) (i : BitVec 12) (m : Bool) : Statement (.ti d i m) := low_append _ true
theorem li (d : XReg) (i : BitVec 21) (m : Bool) : Statement (.li d i m) := low_append _ true
theorem lh (d : XReg) (i : BitVec 21) (m : Bool) : Statement (.lh d i m) := low_append _ true
theorem ldb (r b : XReg) (i : BitVec 12) (m : Bool) : Statement (.ldb r b i m) := encMem_low _ _ _ _ _
theorem ldh (r b : XReg) (i : BitVec 12) (m : Bool) : Statement (.ldh r b i m) := encMem_low _ _ _ _ _
theorem ldw (r b : XReg) (i : BitVec 12) (m : Bool) : Statement (.ldw r b i m) := encMem_low _ _ _ _ _
theorem ldd (r b : XReg) (i : BitVec 12) (m : Bool) : Statement (.ldd r b i m) := encMem_low _ _ _ _ _
theorem ldbz (r b : XReg) (i : BitVec 12) (m : Bool) : Statement (.ldbz r b i m) := encMem_low _ _ _ _ _
theorem ldhz (r b : XReg) (i : BitVec 12) (m : Bool) : Statement (.ldhz r b i m) := encMem_low _ _ _ _ _
theorem ldwz (r b : XReg) (i : BitVec 12) (m : Bool) : Statement (.ldwz r b i m) := encMem_low _ _ _ _ _
theorem ldq (r : Fin 16) (b : XReg) (i : BitVec 12) (m : Bool) : Statement (.ldq r b i m) := encMem_low _ _ _ _ _
theorem ldv (r : VReg) (b : XReg) (i : BitVec 12) (m : Bool) : Statement (.ldv r b i m) := encMem_low _ _ _ _ _
theorem ldf (r : FReg) (b : XReg) (i : BitVec 12) (m : Bool) : Statement (.ldf r b i m) := encMem_low _ _ _ _ _
theorem ldacq (r b : XReg) (i : BitVec 12) (m : Bool) : Statement (.ldacq r b i m) := encMem_low _ _ _ _ _
theorem ldk (r b : XReg) (i : BitVec 12) (m : Bool) : Statement (.ldk r b i m) := encMem_low _ _ _ _ _
theorem ldro (r b : XReg) (i : BitVec 12) (m : Bool) : Statement (.ldro r b i m) := encMem_low _ _ _ _ _
theorem ldkv (r : VReg) (b : XReg) (i : BitVec 12) (m : Bool) : Statement (.ldkv r b i m) := encMem_low _ _ _ _ _
theorem stb (r b : XReg) (i : BitVec 12) (m : Bool) : Statement (.stb r b i m) := encMem_low _ _ _ _ _
theorem sth (r b : XReg) (i : BitVec 12) (m : Bool) : Statement (.sth r b i m) := encMem_low _ _ _ _ _
theorem stw (r b : XReg) (i : BitVec 12) (m : Bool) : Statement (.stw r b i m) := encMem_low _ _ _ _ _
theorem std (r b : XReg) (i : BitVec 12) (m : Bool) : Statement (.std r b i m) := encMem_low _ _ _ _ _
theorem stq (r : Fin 16) (b : XReg) (i : BitVec 12) (m : Bool) : Statement (.stq r b i m) := encMem_low _ _ _ _ _
theorem stv (r : VReg) (b : XReg) (i : BitVec 12) (m : Bool) : Statement (.stv r b i m) := encMem_low _ _ _ _ _
theorem stf (r : FReg) (b : XReg) (i : BitVec 12) (m : Bool) : Statement (.stf r b i m) := encMem_low _ _ _ _ _
theorem strel (r b : XReg) (i : BitVec 12) (m : Bool) : Statement (.strel r b i m) := encMem_low _ _ _ _ _
theorem stnt (r b : XReg) (i : BitVec 12) (m : Bool) : Statement (.stnt r b i m) := encMem_low _ _ _ _ _
theorem stvnt (r : VReg) (b : XReg) (i : BitVec 12) (m : Bool) : Statement (.stvnt r b i m) := encMem_low _ _ _ _ _
theorem b (g : Guard) (o : BitVec 19) (m : Bool) : Statement (.b g o m) := encBr_low _ _ _ _
theorem bl (g : Guard) (o : BitVec 19) (m : Bool) : Statement (.bl g o m) := encBr_low _ _ _ _
theorem loop (g : Guard) (l : BitVec 8) (c : XReg) (m : Bool) : Statement (.loop g l c m) := encBr_low _ _ _ _
theorem jr (g : Guard) (t : XReg) (m : Bool) : Statement (.jr g t m) := encBr_low _ _ _ _
theorem jlr (g : Guard) (t : XReg) (m : Bool) : Statement (.jlr g t m) := encBr_low _ _ _ _
theorem fence (k p : BitVec 3) (m : Bool) : Statement (.fence k p m) := encSys_low _ _ _ _ _
theorem pause (a : XReg) (i : BitVec 9) (m : Bool) : Statement (.pause a i m) := encSys_low _ _ _ _ _
theorem isync (m : Bool) : Statement (.isync m) := encSys_low _ _ _ _ _
theorem roinv (m : Bool) : Statement (.roinv m) := encSys_low _ _ _ _ _
theorem csrr (a : XReg) (n : BitVec 9) (m : Bool) : Statement (.csrr a n m) := encSys_low _ _ _ _ _
theorem csrw (a : XReg) (n : BitVec 9) (m : Bool) : Statement (.csrw a n m) := encSys_low _ _ _ _ _
theorem bcs (a : XReg) (i : BitVec 9) (m : Bool) : Statement (.bcs a i m) := encSys_low _ _ _ _ _
theorem rms (o : BitVec 3) (m : Bool) : Statement (.rms o m) := encSys_low _ _ _ _ _
theorem wnd (p : BitVec 2) (m : Bool) : Statement (.wnd p m) := encSys_low _ _ _ _ _
theorem wpop (m : Bool) : Statement (.wpop m) := encSys_low _ _ _ _ _
theorem glead (c : BitVec 3) (m : Bool) : Statement (.glead c m) := encSys_low _ _ _ _ _
theorem gfollow (m : Bool) : Statement (.gfollow m) := encSys_low _ _ _ _ _
theorem gend (m : Bool) : Statement (.gend m) := encSys_low _ _ _ _ _
theorem done (m : Bool) : Statement (.done m) := encSys_low _ _ _ _ _
theorem reque (m : Bool) : Statement (.reque m) := encSys_low _ _ _ _ _
theorem trap (n : BitVec 9) (m : Bool) : Statement (.trap n m) := encSys_low _ _ _ _ _
theorem tret (m : Bool) : Statement (.tret m) := encSys_low _ _ _ _ _
theorem wb (a b : XReg) (m : Bool) : Statement (.wb a b m) := encSys_low _ _ _ _ _
theorem idle (m : Bool) : Statement (.idle m) := encSys_low _ _ _ _ _
theorem cancel (a : XReg) (l : BitVec 2) (m : Bool) : Statement (.cancel a l m) := encSys_low _ _ _ _ _
theorem iaAdd (s : Src) (g : Guard) (w : Bool) (m : Bool) : Statement (.iaAdd s g w m) := encTo_low _ _ _ _ _ _
theorem iaSub (s : Src) (g : Guard) (w : Bool) (m : Bool) : Statement (.iaSub s g w m) := encTo_low _ _ _ _ _ _
theorem iaAnd (s : Src) (g : Guard) (m : Bool) : Statement (.iaAnd s g m) := encTo_low _ _ _ _ _ _
theorem iaOr (s : Src) (g : Guard) (m : Bool) : Statement (.iaOr s g m) := encTo_low _ _ _ _ _ _
theorem iaXor (s : Src) (g : Guard) (m : Bool) : Statement (.iaXor s g m) := encTo_low _ _ _ _ _ _
theorem iaAndn (s : Src) (g : Guard) (m : Bool) : Statement (.iaAndn s g m) := encTo_low _ _ _ _ _ _
theorem iaShl (s : Src) (g : Guard) (w : Bool) (m : Bool) : Statement (.iaShl s g w m) := encTo_low _ _ _ _ _ _
theorem iaShr (s : Src) (g : Guard) (w : Bool) (m : Bool) : Statement (.iaShr s g w m) := encTo_low _ _ _ _ _ _
theorem iaSar (s : Src) (g : Guard) (w : Bool) (m : Bool) : Statement (.iaSar s g w m) := encTo_low _ _ _ _ _ _
theorem iaRol (s : Src) (g : Guard) (w : Bool) (m : Bool) : Statement (.iaRol s g w m) := encTo_low _ _ _ _ _ _
theorem iaMin (s : Src) (g : Guard) (w : Bool) (m : Bool) : Statement (.iaMin s g w m) := encTo_low _ _ _ _ _ _
theorem iaMax (s : Src) (g : Guard) (w : Bool) (m : Bool) : Statement (.iaMax s g w m) := encTo_low _ _ _ _ _ _
theorem iaMinn (s : Src) (g : Guard) (w : Bool) (m : Bool) : Statement (.iaMinn s g w m) := encTo_low _ _ _ _ _ _
theorem iaMaxn (s : Src) (g : Guard) (w : Bool) (m : Bool) : Statement (.iaMaxn s g w m) := encTo_low _ _ _ _ _ _
theorem iaSlt (s : Src) (g : Guard) (w : Bool) (m : Bool) : Statement (.iaSlt s g w m) := encTo_low _ _ _ _ _ _
theorem iaSltn (s : Src) (g : Guard) (w : Bool) (m : Bool) : Statement (.iaSltn s g w m) := encTo_low _ _ _ _ _ _
theorem iaSeq (s : Src) (g : Guard) (w : Bool) (m : Bool) : Statement (.iaSeq s g w m) := encTo_low _ _ _ _ _ _
theorem iaSne (s : Src) (g : Guard) (w : Bool) (m : Bool) : Statement (.iaSne s g w m) := encTo_low _ _ _ _ _ _
theorem iaClz (s : Src) (g : Guard) (w : Bool) (m : Bool) : Statement (.iaClz s g w m) := encTo_low _ _ _ _ _ _
theorem iaFfs (s : Src) (g : Guard) (w : Bool) (m : Bool) : Statement (.iaFfs s g w m) := encTo_low _ _ _ _ _ _
theorem iaPop (s : Src) (g : Guard) (w : Bool) (m : Bool) : Statement (.iaPop s g w m) := encTo_low _ _ _ _ _ _
theorem iaBsw (s : Src) (g : Guard) (m : Bool) : Statement (.iaBsw s g m) := encTo_low _ _ _ _ _ _
theorem iaBxt (s : Src) (g : Guard) (m : Bool) : Statement (.iaBxt s g m) := encTo_low _ _ _ _ _ _
theorem iaSxt (s : Src) (g : Guard) (m : Bool) : Statement (.iaSxt s g m) := encTo_low _ _ _ _ _ _
theorem iaAdds (s : Src) (g : Guard) (w : Bool) (m : Bool) : Statement (.iaAdds s g w m) := encTo_low _ _ _ _ _ _
theorem iaSubs (s : Src) (g : Guard) (w : Bool) (m : Bool) : Statement (.iaSubs s g w m) := encTo_low _ _ _ _ _ _
theorem iaAbs (s : Src) (g : Guard) (w : Bool) (m : Bool) : Statement (.iaAbs s g w m) := encTo_low _ _ _ _ _ _
theorem imMul (s : Src) (g : Guard) (w : Bool) (m : Bool) : Statement (.imMul s g w m) := encTo_low _ _ _ _ _ _
theorem imMulh (s : Src) (g : Guard) (w : Bool) (m : Bool) : Statement (.imMulh s g w m) := encTo_low _ _ _ _ _ _
theorem imMulhn (s : Src) (g : Guard) (w : Bool) (m : Bool) : Statement (.imMulhn s g w m) := encTo_low _ _ _ _ _ _
theorem imDiv (s : Src) (g : Guard) (w : Bool) (m : Bool) : Statement (.imDiv s g w m) := encTo_low _ _ _ _ _ _
theorem imDivn (s : Src) (g : Guard) (w : Bool) (m : Bool) : Statement (.imDivn s g w m) := encTo_low _ _ _ _ _ _
theorem imRem (s : Src) (g : Guard) (w : Bool) (m : Bool) : Statement (.imRem s g w m) := encTo_low _ _ _ _ _ _
theorem imRemn (s : Src) (g : Guard) (w : Bool) (m : Bool) : Statement (.imRemn s g w m) := encTo_low _ _ _ _ _ _
theorem faFma (s : Src) (g : Guard) (m : Bool) : Statement (.faFma s g m) := encTo_low _ _ _ _ _ _
theorem faFms (s : Src) (g : Guard) (m : Bool) : Statement (.faFms s g m) := encTo_low _ _ _ _ _ _
theorem faFnma (s : Src) (g : Guard) (m : Bool) : Statement (.faFnma s g m) := encTo_low _ _ _ _ _ _
theorem faFadd (s : Src) (g : Guard) (m : Bool) : Statement (.faFadd s g m) := encTo_low _ _ _ _ _ _
theorem faFsub (s : Src) (g : Guard) (m : Bool) : Statement (.faFsub s g m) := encTo_low _ _ _ _ _ _
theorem faFmul (s : Src) (g : Guard) (m : Bool) : Statement (.faFmul s g m) := encTo_low _ _ _ _ _ _
theorem faFmin (s : Src) (g : Guard) (m : Bool) : Statement (.faFmin s g m) := encTo_low _ _ _ _ _ _
theorem faFmax (s : Src) (g : Guard) (m : Bool) : Statement (.faFmax s g m) := encTo_low _ _ _ _ _ _
theorem faFabs (s : Src) (g : Guard) (m : Bool) : Statement (.faFabs s g m) := encTo_low _ _ _ _ _ _
theorem faFneg (s : Src) (g : Guard) (m : Bool) : Statement (.faFneg s g m) := encTo_low _ _ _ _ _ _
theorem faFsgn (s : Src) (g : Guard) (m : Bool) : Statement (.faFsgn s g m) := encTo_low _ _ _ _ _ _
theorem faFclt (s : Src) (g : Guard) (m : Bool) : Statement (.faFclt s g m) := encTo_low _ _ _ _ _ _
theorem faFcle (s : Src) (g : Guard) (m : Bool) : Statement (.faFcle s g m) := encTo_low _ _ _ _ _ _
theorem faFceq (s : Src) (g : Guard) (m : Bool) : Statement (.faFceq s g m) := encTo_low _ _ _ _ _ _
theorem faFcun (s : Src) (g : Guard) (m : Bool) : Statement (.faFcun s g m) := encTo_low _ _ _ _ _ _
theorem faFrnd (s : Src) (g : Guard) (m : Bool) : Statement (.faFrnd s g m) := encTo_low _ _ _ _ _ _
theorem faFrto (s : Src) (g : Guard) (m : Bool) : Statement (.faFrto s g m) := encTo_low _ _ _ _ _ _
theorem faFcvi (s : Src) (g : Guard) (m : Bool) : Statement (.faFcvi s g m) := encTo_low _ _ _ _ _ _
theorem faFicv (s : Src) (g : Guard) (m : Bool) : Statement (.faFicv s g m) := encTo_low _ _ _ _ _ _
theorem faFexa (s : Src) (g : Guard) (m : Bool) : Statement (.faFexa s g m) := encTo_low _ _ _ _ _ _
theorem fdFdiv (s : Src) (g : Guard) (m : Bool) : Statement (.fdFdiv s g m) := encTo_low _ _ _ _ _ _
theorem fdFsqrt (s : Src) (g : Guard) (m : Bool) : Statement (.fdFsqrt s g m) := encTo_low _ _ _ _ _ _
theorem sfSin (s : Src) (g : Guard) (m : Bool) : Statement (.sfSin s g m) := encTo_low _ _ _ _ _ _
theorem sfCos (s : Src) (g : Guard) (m : Bool) : Statement (.sfCos s g m) := encTo_low _ _ _ _ _ _
theorem sfExp2 (s : Src) (g : Guard) (m : Bool) : Statement (.sfExp2 s g m) := encTo_low _ _ _ _ _ _
theorem sfLog2 (s : Src) (g : Guard) (m : Bool) : Statement (.sfLog2 s g m) := encTo_low _ _ _ _ _ _
theorem sfRcp (s : Src) (g : Guard) (m : Bool) : Statement (.sfRcp s g m) := encTo_low _ _ _ _ _ _
theorem sfRsqrt (s : Src) (g : Guard) (m : Bool) : Statement (.sfRsqrt s g m) := encTo_low _ _ _ _ _ _
theorem sfTanh (s : Src) (g : Guard) (m : Bool) : Statement (.sfTanh s g m) := encTo_low _ _ _ _ _ _
theorem sfSigm (s : Src) (g : Guard) (m : Bool) : Statement (.sfSigm s g m) := encTo_low _ _ _ _ _ _
theorem sfExd (s : Src) (g : Guard) (m : Bool) : Statement (.sfExd s g m) := encTo_low _ _ _ _ _ _
theorem vaMad (s : Src) (t : VTy) (g : Guard) (m : Bool) : Statement (.vaMad s t g m) := encTo_low _ _ _ _ _ _
theorem vaAdd (s : Src) (t : VTy) (g : Guard) (m : Bool) : Statement (.vaAdd s t g m) := encTo_low _ _ _ _ _ _
theorem vaSub (s : Src) (t : VTy) (g : Guard) (m : Bool) : Statement (.vaSub s t g m) := encTo_low _ _ _ _ _ _
theorem vaMul (s : Src) (t : VTy) (g : Guard) (m : Bool) : Statement (.vaMul s t g m) := encTo_low _ _ _ _ _ _
theorem vaMin (s : Src) (t : VTy) (g : Guard) (m : Bool) : Statement (.vaMin s t g m) := encTo_low _ _ _ _ _ _
theorem vaMax (s : Src) (t : VTy) (g : Guard) (m : Bool) : Statement (.vaMax s t g m) := encTo_low _ _ _ _ _ _
theorem vaMinn (s : Src) (t : VTy) (g : Guard) (m : Bool) : Statement (.vaMinn s t g m) := encTo_low _ _ _ _ _ _
theorem vaMaxn (s : Src) (t : VTy) (g : Guard) (m : Bool) : Statement (.vaMaxn s t g m) := encTo_low _ _ _ _ _ _
theorem vaAnd (s : Src) (t : VTy) (g : Guard) (m : Bool) : Statement (.vaAnd s t g m) := encTo_low _ _ _ _ _ _
theorem vaOr (s : Src) (t : VTy) (g : Guard) (m : Bool) : Statement (.vaOr s t g m) := encTo_low _ _ _ _ _ _
theorem vaXor (s : Src) (t : VTy) (g : Guard) (m : Bool) : Statement (.vaXor s t g m) := encTo_low _ _ _ _ _ _
theorem vaShl (s : Src) (t : VTy) (g : Guard) (m : Bool) : Statement (.vaShl s t g m) := encTo_low _ _ _ _ _ _
theorem vaShr (s : Src) (t : VTy) (g : Guard) (m : Bool) : Statement (.vaShr s t g m) := encTo_low _ _ _ _ _ _
theorem vaSar (s : Src) (t : VTy) (g : Guard) (m : Bool) : Statement (.vaSar s t g m) := encTo_low _ _ _ _ _ _
theorem vaAbs (s : Src) (t : VTy) (g : Guard) (m : Bool) : Statement (.vaAbs s t g m) := encTo_low _ _ _ _ _ _
theorem vaNeg (s : Src) (t : VTy) (g : Guard) (m : Bool) : Statement (.vaNeg s t g m) := encTo_low _ _ _ _ _ _
theorem vaClt (s : Src) (t : VTy) (g : Guard) (m : Bool) : Statement (.vaClt s t g m) := encTo_low _ _ _ _ _ _
theorem vaCle (s : Src) (t : VTy) (g : Guard) (m : Bool) : Statement (.vaCle s t g m) := encTo_low _ _ _ _ _ _
theorem vaCeq (s : Src) (t : VTy) (g : Guard) (m : Bool) : Statement (.vaCeq s t g m) := encTo_low _ _ _ _ _ _
theorem vaCltn (s : Src) (t : VTy) (g : Guard) (m : Bool) : Statement (.vaCltn s t g m) := encTo_low _ _ _ _ _ _
theorem vaCvt (s : Src) (t : VTy) (g : Guard) (m : Bool) : Statement (.vaCvt s t g m) := encTo_low _ _ _ _ _ _
theorem vaCvto (s : Src) (t : VTy) (g : Guard) (m : Bool) : Statement (.vaCvto s t g m) := encTo_low _ _ _ _ _ _
theorem vaWhile (s : Src) (t : VTy) (g : Guard) (m : Bool) : Statement (.vaWhile s t g m) := encTo_low _ _ _ _ _ _
theorem vaClz (s : Src) (t : VTy) (g : Guard) (m : Bool) : Statement (.vaClz s t g m) := encTo_low _ _ _ _ _ _
theorem vaFfs (s : Src) (t : VTy) (g : Guard) (m : Bool) : Statement (.vaFfs s t g m) := encTo_low _ _ _ _ _ _
theorem vaPop (s : Src) (t : VTy) (g : Guard) (m : Bool) : Statement (.vaPop s t g m) := encTo_low _ _ _ _ _ _
theorem vaExp2 (s : Src) (t : VTy) (g : Guard) (m : Bool) : Statement (.vaExp2 s t g m) := encTo_low _ _ _ _ _ _
theorem vaRcp (s : Src) (t : VTy) (g : Guard) (m : Bool) : Statement (.vaRcp s t g m) := encTo_low _ _ _ _ _ _
theorem vaRsq (s : Src) (t : VTy) (g : Guard) (m : Bool) : Statement (.vaRsq s t g m) := encTo_low _ _ _ _ _ _
theorem vaSel (s : Src) (t : VTy) (g : Guard) (m : Bool) : Statement (.vaSel s t g m) := encTo_low _ _ _ _ _ _
theorem vaIota (s : Src) (t : VTy) (g : Guard) (m : Bool) : Statement (.vaIota s t g m) := encTo_low _ _ _ _ _ _
theorem vaDup (s : Src) (t : VTy) (g : Guard) (m : Bool) : Statement (.vaDup s t g m) := encTo_low _ _ _ _ _ _
theorem vxPerm (s : Src) (g : Guard) (m : Bool) : Statement (.vxPerm s g m) := encTo_low _ _ _ _ _ _
theorem vxRot (s : Src) (g : Guard) (m : Bool) : Statement (.vxRot s g m) := encTo_low _ _ _ _ _ _
theorem vxShift (s : Src) (g : Guard) (m : Bool) : Statement (.vxShift s g m) := encTo_low _ _ _ _ _ _
theorem vxZip (s : Src) (g : Guard) (m : Bool) : Statement (.vxZip s g m) := encTo_low _ _ _ _ _ _
theorem vxUnzip (s : Src) (g : Guard) (m : Bool) : Statement (.vxUnzip s g m) := encTo_low _ _ _ _ _ _
theorem vxRsum (s : Src) (g : Guard) (m : Bool) : Statement (.vxRsum s g m) := encTo_low _ _ _ _ _ _
theorem vxRmax (s : Src) (g : Guard) (m : Bool) : Statement (.vxRmax s g m) := encTo_low _ _ _ _ _ _
theorem vxRmin (s : Src) (g : Guard) (m : Bool) : Statement (.vxRmin s g m) := encTo_low _ _ _ _ _ _
theorem vxScan (s : Src) (g : Guard) (m : Bool) : Statement (.vxScan s g m) := encTo_low _ _ _ _ _ _
theorem vxAmax (s : Src) (g : Guard) (m : Bool) : Statement (.vxAmax s g m) := encTo_low _ _ _ _ _ _
theorem vxCmpr (s : Src) (g : Guard) (m : Bool) : Statement (.vxCmpr s g m) := encTo_low _ _ _ _ _ _
theorem vxExpd (s : Src) (g : Guard) (m : Bool) : Statement (.vxExpd s g m) := encTo_low _ _ _ _ _ _
theorem vxNbr (s : Src) (g : Guard) (m : Bool) : Statement (.vxNbr s g m) := encTo_low _ _ _ _ _ _
theorem vxTkclr (s : Src) (g : Guard) (m : Bool) : Statement (.vxTkclr s g m) := encTo_low _ _ _ _ _ _
theorem vxTk (s : Src) (g : Guard) (m : Bool) : Statement (.vxTk s g m) := encTo_low _ _ _ _ _ _
theorem vxTkrd (s : Src) (g : Guard) (m : Bool) : Statement (.vxTkrd s g m) := encTo_low _ _ _ _ _ _
theorem mxMmul (s : Src) (g : Guard) (m : Bool) : Statement (.mxMmul s g m) := encTo_low _ _ _ _ _ _
theorem mxRowld (s : Src) (g : Guard) (m : Bool) : Statement (.mxRowld s g m) := encTo_low _ _ _ _ _ _
theorem mxWld (s : Src) (g : Guard) (m : Bool) : Statement (.mxWld s g m) := encTo_low _ _ _ _ _ _
theorem mxMvset (s : Src) (g : Guard) (m : Bool) : Statement (.mxMvset s g m) := encTo_low _ _ _ _ _ _
theorem mxMmv (s : Src) (g : Guard) (m : Bool) : Statement (.mxMmv s g m) := encTo_low _ _ _ _ _ _
theorem mxAread (s : Src) (g : Guard) (m : Bool) : Statement (.mxAread s g m) := encTo_low _ _ _ _ _ _
theorem mxAclr (s : Src) (g : Guard) (m : Bool) : Statement (.mxAclr s g m) := encTo_low _ _ _ _ _ _
theorem mxMchk (s : Src) (g : Guard) (m : Bool) : Statement (.mxMchk s g m) := encTo_low _ _ _ _ _ _
theorem lsLdt (s : Src) (g : Guard) (m : Bool) : Statement (.lsLdt s g m) := encTo_low _ _ _ _ _ _
theorem lsStt (s : Src) (g : Guard) (m : Bool) : Statement (.lsStt s g m) := encTo_low _ _ _ _ _ _
theorem lsPin (s : Src) (g : Guard) (m : Bool) : Statement (.lsPin s g m) := encTo_low _ _ _ _ _ _
theorem lsUnpin (s : Src) (g : Guard) (m : Bool) : Statement (.lsUnpin s g m) := encTo_low _ _ _ _ _ _
theorem lsPfr (s : Src) (g : Guard) (m : Bool) : Statement (.lsPfr s g m) := encTo_low _ _ _ _ _ _
theorem lsPush (s : Src) (g : Guard) (m : Bool) : Statement (.lsPush s g m) := encTo_low _ _ _ _ _ _
theorem lsPop (s : Src) (g : Guard) (m : Bool) : Statement (.lsPop s g m) := encTo_low _ _ _ _ _ _
theorem lsBmode (s : Src) (g : Guard) (m : Bool) : Statement (.lsBmode s g m) := encTo_low _ _ _ _ _ _
theorem atAadd (s : Src) (g : Guard) (m : Bool) : Statement (.atAadd s g m) := encTo_low _ _ _ _ _ _
theorem atAand (s : Src) (g : Guard) (m : Bool) : Statement (.atAand s g m) := encTo_low _ _ _ _ _ _
theorem atAor (s : Src) (g : Guard) (m : Bool) : Statement (.atAor s g m) := encTo_low _ _ _ _ _ _
theorem atAxor (s : Src) (g : Guard) (m : Bool) : Statement (.atAxor s g m) := encTo_low _ _ _ _ _ _
theorem atAmin (s : Src) (g : Guard) (m : Bool) : Statement (.atAmin s g m) := encTo_low _ _ _ _ _ _
theorem atAmax (s : Src) (g : Guard) (m : Bool) : Statement (.atAmax s g m) := encTo_low _ _ _ _ _ _
theorem atAminn (s : Src) (g : Guard) (m : Bool) : Statement (.atAminn s g m) := encTo_low _ _ _ _ _ _
theorem atAmaxn (s : Src) (g : Guard) (m : Bool) : Statement (.atAmaxn s g m) := encTo_low _ _ _ _ _ _
theorem atAxch (s : Src) (g : Guard) (m : Bool) : Statement (.atAxch s g m) := encTo_low _ _ _ _ _ _
theorem atAcas (s : Src) (g : Guard) (m : Bool) : Statement (.atAcas s g m) := encTo_low _ _ _ _ _ _
theorem atAfadd (s : Src) (g : Guard) (m : Bool) : Statement (.atAfadd s g m) := encTo_low _ _ _ _ _ _
theorem atRecon (s : Src) (g : Guard) (m : Bool) : Statement (.atRecon s g m) := encTo_low _ _ _ _ _ _
theorem atLdsib (s : Src) (g : Guard) (m : Bool) : Statement (.atLdsib s g m) := encTo_low _ _ _ _ _ _
theorem atSnap (s : Src) (g : Guard) (m : Bool) : Statement (.atSnap s g m) := encTo_low _ _ _ _ _ _
theorem atWslot (s : Src) (g : Guard) (m : Bool) : Statement (.atWslot s g m) := encTo_low _ _ _ _ _ _
theorem atWdrop (s : Src) (g : Guard) (m : Bool) : Statement (.atWdrop s g m) := encTo_low _ _ _ _ _ _
theorem msSend (s : Src) (g : Guard) (m : Bool) : Statement (.msSend s g m) := encTo_low _ _ _ _ _ _
theorem msCallat (s : Src) (g : Guard) (m : Bool) : Statement (.msCallat s g m) := encTo_low _ _ _ _ _ _
theorem msReply (s : Src) (g : Guard) (m : Bool) : Statement (.msReply s g m) := encTo_low _ _ _ _ _ _
theorem msSendc (s : Src) (g : Guard) (m : Bool) : Statement (.msSendc s g m) := encTo_low _ _ _ _ _ _
theorem msDep (s : Src) (g : Guard) (m : Bool) : Statement (.msDep s g m) := encTo_low _ _ _ _ _ _
theorem msColl (s : Src) (g : Guard) (m : Bool) : Statement (.msColl s g m) := encTo_low _ _ _ _ _ _
theorem msGrp (s : Src) (g : Guard) (m : Bool) : Statement (.msGrp s g m) := encTo_low _ _ _ _ _ _
theorem msLaunch (s : Src) (g : Guard) (m : Bool) : Statement (.msLaunch s g m) := encTo_low _ _ _ _ _ _
theorem msMcast (s : Src) (g : Guard) (m : Bool) : Statement (.msMcast s g m) := encTo_low _ _ _ _ _ _
theorem ceTail (s : Src) (g : Guard) (m : Bool) : Statement (.ceTail s g m) := encTo_low _ _ _ _ _ _
theorem ceSeq (s : Src) (g : Guard) (m : Bool) : Statement (.ceSeq s g m) := encTo_low _ _ _ _ _ _
theorem ceWseq (s : Src) (g : Guard) (m : Bool) : Statement (.ceWseq s g m) := encTo_low _ _ _ _ _ _
theorem cePub (s : Src) (g : Guard) (m : Bool) : Statement (.cePub s g m) := encTo_low _ _ _ _ _ _
theorem ceHalt (s : Src) (g : Guard) (m : Bool) : Statement (.ceHalt s g m) := encTo_low _ _ _ _ _ _
theorem tbTbind (s : Src) (g : Guard) (m : Bool) : Statement (.tbTbind s g m) := encTo_low _ _ _ _ _ _
theorem tbTfree (s : Src) (g : Guard) (m : Bool) : Statement (.tbTfree s g m) := encTo_low _ _ _ _ _ _
theorem tbTget (s : Src) (g : Guard) (m : Bool) : Statement (.tbTget s g m) := encTo_low _ _ _ _ _ _
theorem tbTset (s : Src) (g : Guard) (m : Bool) : Statement (.tbTset s g m) := encTo_low _ _ _ _ _ _
theorem syRd (s : Src) (g : Guard) (m : Bool) : Statement (.syRd s g m) := encTo_low _ _ _ _ _ _
theorem syWr (s : Src) (g : Guard) (m : Bool) : Statement (.syWr s g m) := encTo_low _ _ _ _ _ _
theorem powerOnReset : Statement (.powerOnReset) := trivial
theorem firmwareRestart : Statement (.firmwareRestart) := trivial
theorem registerWrite : Statement (.registerWrite) := trivial
theorem ringWrite : Statement (.ringWrite) := trivial
theorem query : Statement (.query) := trivial
theorem pcreate : Statement (.pcreate) := trivial
theorem pdestroy : Statement (.pdestroy) := trivial
theorem setattr : Statement (.setattr) := trivial
theorem job : Statement (.job) := trivial
theorem phase : Statement (.phase) := trivial
theorem graph : Statement (.graph) := trivial
theorem fwCancel : Statement (.fwCancel) := trivial
theorem map : Statement (.map) := trivial
theorem unmap : Statement (.unmap) := trivial
theorem type : Statement (.type) := trivial
theorem notify : Statement (.notify) := trivial
theorem pair : Statement (.pair) := trivial
theorem klist : Statement (.klist) := trivial
theorem kreset : Statement (.kreset) := trivial
theorem split : Statement (.split) := trivial
theorem switch : Statement (.switch) := trivial
theorem resume : Statement (.resume) := trivial
theorem stop : Statement (.stop) := trivial
theorem discard : Statement (.discard) := trivial
theorem duskadd : Statement (.duskadd) := trivial
theorem frames : Statement (.frames) := trivial
theorem attest : Statement (.attest) := trivial
theorem cfgwrite : Statement (.cfgwrite) := trivial
theorem extload : Statement (.extload) := trivial
theorem linkreset : Statement (.linkreset) := trivial
theorem indexPlacement : Statement (.indexPlacement) := trivial
theorem taskDispatch : Statement (.taskDispatch) := trivial
theorem watchReady : Statement (.watchReady) := trivial
theorem markerRelease : Statement (.markerRelease) := trivial
theorem pauseExpiry : Statement (.pauseExpiry) := trivial
theorem agingStep : Statement (.agingStep) := trivial
theorem resultLanding : Statement (.resultLanding) := trivial
theorem loadDeliver : Statement (.loadDeliver) := trivial
theorem fetchFill : Statement (.fetchFill) := trivial
theorem loopPassEnd : Statement (.loopPassEnd) := trivial
theorem watchFree : Statement (.watchFree) := trivial
theorem messageAccept : Statement (.messageAccept) := trivial
theorem overflowTimeout : Statement (.overflowTimeout) := trivial
theorem overflowDrain : Statement (.overflowDrain) := trivial
theorem wakeRetry : Statement (.wakeRetry) := trivial
theorem depositApply : Statement (.depositApply) := trivial
theorem cancelNotice : Statement (.cancelNotice) := trivial
theorem launchComplete : Statement (.launchComplete) := trivial
theorem continuationStart : Statement (.continuationStart) := trivial
theorem phaseComplete : Statement (.phaseComplete) := trivial
theorem windowBoundary : Statement (.windowBoundary) := trivial
theorem cvrUpdate : Statement (.cvrUpdate) := trivial
theorem gangForm : Statement (.gangForm) := trivial
theorem nbrServed : Statement (.nbrServed) := trivial
theorem nbrTimeout : Statement (.nbrTimeout) := trivial
theorem rodOpStart : Statement (.rodOpStart) := trivial
theorem rodOpEnd : Statement (.rodOpEnd) := trivial
theorem bankAccess : Statement (.bankAccess) := trivial
theorem fifoReserve : Statement (.fifoReserve) := trivial
theorem fifoTake : Statement (.fifoTake) := trivial
theorem modeChange : Statement (.modeChange) := trivial
theorem prefetchDone : Statement (.prefetchDone) := trivial
theorem wcbDrain : Statement (.wcbDrain) := trivial
theorem storeApply : Statement (.storeApply) := trivial
theorem updateApply : Statement (.updateApply) := trivial
theorem storeAck : Statement (.storeAck) := trivial
theorem missFill : Statement (.missFill) := trivial
theorem keepStoreDecide : Statement (.keepStoreDecide) := trivial
theorem clockPush : Statement (.clockPush) := trivial
theorem keepRetry : Statement (.keepRetry) := trivial
theorem atomicApply : Statement (.atomicApply) := trivial
theorem tlbWalk : Statement (.tlbWalk) := trivial
theorem entryCopy : Statement (.entryCopy) := trivial
theorem entryGather : Statement (.entryGather) := trivial
theorem entrySelgather : Statement (.entrySelgather) := trivial
theorem entryScatter : Statement (.entryScatter) := trivial
theorem entryFill : Statement (.entryFill) := trivial
theorem entryConvert : Statement (.entryConvert) := trivial
theorem entrySnap : Statement (.entrySnap) := trivial
theorem entryPublish : Statement (.entryPublish) := trivial
theorem entryFence : Statement (.entryFence) := trivial
theorem entryWait : Statement (.entryWait) := trivial
theorem entryPrefetch : Statement (.entryPrefetch) := trivial
theorem allgather : Statement (.allgather) := trivial
theorem redscat : Statement (.redscat) := trivial
theorem alltoall : Statement (.alltoall) := trivial
theorem entryBarrier : Statement (.entryBarrier) := trivial
theorem collectiveStart : Statement (.collectiveStart) := trivial
theorem entryEnd : Statement (.entryEnd) := trivial
theorem dawnSwap : Statement (.dawnSwap) := trivial
theorem snapHold : Statement (.snapHold) := trivial
theorem snapRelease : Statement (.snapRelease) := trivial
theorem splitSwitch : Statement (.splitSwitch) := trivial
theorem remapReplay : Statement (.remapReplay) := trivial
theorem duskExpiry : Statement (.duskExpiry) := trivial
theorem gangSwitch : Statement (.gangSwitch) := trivial
theorem resumeAtT : Statement (.resumeAtT) := trivial
theorem powerGate : Statement (.powerGate) := trivial
theorem coreWake : Statement (.coreWake) := trivial
theorem clockThrottle : Statement (.clockThrottle) := trivial
theorem linkRetrain : Statement (.linkRetrain) := trivial
theorem linkReturn : Statement (.linkReturn) := trivial
theorem linkDown : Statement (.linkDown) := trivial
theorem cxlMemRead : Statement (.cxlMemRead) := trivial
theorem cxlMemWrite : Statement (.cxlMemWrite) := trivial
theorem hostSnoop : Statement (.hostSnoop) := trivial
theorem rdmaWrite : Statement (.rdmaWrite) := trivial
theorem peerLoad : Statement (.peerLoad) := trivial
theorem extensionCommand : Statement (.extensionCommand) := trivial

end Sys2Proof.Laws.Enc
end

