-- ==== Sys2Proof/Laws/Units.lean ====
section
/-! SUPPORT. Trigger words of the units: their rows, their lengths and markers, and what they do in a watch whose turn it is. -/
namespace Sys2Proof
open Machine

/-- The trigger word of an operation is encoded by the one layout of R47 and R50. -/
theorem encode_ofUnit (o : UOp) (a : Src) (g : Guard) (w m : Bool) (h : w = true → o.hasW = true) :
    encode (Instr.ofUnit o a g w m) = some (encUnit o a g w m) := by
  cases o with
  | ia o => cases o <;> cases w <;> first | rfl | exact absurd (h rfl) (by decide)
  | im o => cases o <;> cases w <;> rfl
  | va o t =>
    have hw : w = false := by
      cases w
      · rfl
      · exact absurd (h rfl) (by simp [UOp.hasW])
    subst hw; cases o <;> rfl
  | _ o =>
    have hw : w = false := by
      cases w
      · rfl
      · exact absurd (h rfl) (by simp [UOp.hasW])
    subst hw; cases o <;> rfl

theorem exec_ofUnit (o : UOp) (a : Src) (g : Guard) (w m : Bool) (s : State) (h : w = true → o.hasW = true) :
    exec (Instr.ofUnit o a g w m) s = .next (s.unitWord (Instr.ofUnit o a g w m) o a g w) := by
  cases o with
  | ia o => cases o <;> cases w <;> first | rfl | exact absurd (h rfl) (by decide)
  | im o => cases o <;> cases w <;> rfl
  | va o t =>
    have hw : w = false := by
      cases w
      · rfl
      · exact absurd (h rfl) (by simp [UOp.hasW])
    subst hw; cases o <;> rfl
  | _ o =>
    have hw : w = false := by
      cases w
      · rfl
      · exact absurd (h rfl) (by simp [UOp.hasW])
    subst hw; cases o <;> rfl

theorem ofUnit_len (o : UOp) (a : Src) (g : Guard) (w m : Bool) (h : w = true → o.hasW = true) :
    (Instr.ofUnit o a g w m).len = 4 := by
  simp [Instr.len, encode_ofUnit o a g w m h, encUnit, encTo]

theorem ofUnit_marker (o : UOp) (a : Src) (g : Guard) (w m : Bool) (h : w = true → o.hasW = true) :
    markerOf (Instr.ofUnit o a g w m) = m := by
  simp only [markerOf, Instr.encoding, encode_ofUnit o a g w m h, encUnit, encTo]
  simp only [BitVec.getLsbD_setWidth, BitVec.getLsbD_append]
  cases m <;> rfl

@[simp] theorem endPass_guard (w : Watch) (g : Guard) : w.endPass.guard g = w.guard g := by
  simp [Watch.guard, Watch.gRead]

theorem Turn.ready_members {s : State} {k : Nat} (h : Turn s k) : (ready s k).members k = [k] := by
  simp [State.members, h.solo]

/-- Whether the trigger of a word takes place in a watch that is in no gang: its guard's bit 0 (R65). -/
theorem Turn.fires {s : State} {k : Nat} (h : Turn s k) (t : Trans) :
    (ready s k).fires k t = ((s.watch k).guard t.guard).getLsbD 0 := by
  unfold State.fires
  split
  · simp [h.ready_members, State.anyGuard]
  · simp

/-- A unit starts nothing where the guard of its trigger is clear (R65). -/
theorem start_off {s t : State} {k : Nat} {o : UOp} {x : Trans} (hf : s.fires k x = false) (hg : s.anyGuard [k] x.guard = false) :
    s.start t [k] o x = t := by
  cases o <;> simp [State.start, parkedUnit, hf, hg]

/-- A trigger word whose guard is clear: its slot passes, and nothing else (R65). -/
theorem Turn.unit_off {s : State} {k : Nat} (h : Turn s k) (o : UOp) (a : Src) (g : Guard) (w m : Bool)
    (hw : w = true → o.hasW = true) (hg : ((s.watch k).guard g).getLsbD 0 = false) :
    exec (Instr.ofUnit o a g w m) s = .next (passed (ready s k) k m ((s.watch k).endPass.finishWord 4 .seq (!m))) := by
  have hf := h.fires ⟨.src a, .trig o, g, w⟩
  rw [hg] at hf
  have hg' : ((s.watch k).guard g)[0] = false := by simpa using hg
  rw [exec_ofUnit o a g w m s hw, State.unitWord, State.transports]
  rw [h.runWord _ _ (ready s k)]
  · simp only [h.issuer, h.members, Option.map_some, Option.getD_some, show (s.pass 1).endPasses [k] = ready s k from rfl,
      State.each_one, ofUnit_len o a g w m hw, ofUnit_marker o a g w m hw, Bool.and_true]
    rw [start_off hf (by simp [State.anyGuard, hg'])]
    rw [finishAll_one _ _ _ _ _ (by simp [h.issuing]), ready_watch]
    rfl
  · simp only [List.any_cons, List.any_nil, Bool.or_false]
    split <;> simp [hf]
  · simp [State.move, hf, hg', State.transport, bind, Except.bind, pure, Except.pure]

/-- A trigger word whose guard holds, that no full queue holds and whose own-slot checks pass: its source is read, its unit
starts, and its slot passes (R51). `r` is the machine that the checks leave: an atomic operation on a `KEEP` cell enrols its
watch (R295). -/
theorem Turn.unit_on {s : State} {k : Nat} (h : Turn s k) (o : UOp) (a : Src) (g : Guard) (w m : Bool) (r : State)
    (hw : w = true → o.hasW = true) (hg : ((s.watch k).guard g).getLsbD 0 = true)
    (hs : ∀ u, parkedUnit o = some u → (ready s k).unfinished (k / 4) u < 8)
    (hc : ((ready s k).touchSrc k a).trigCheck k o ((ready s k).read k a) = .ok r)
    (hi : (((ready s k).start r [k] o ⟨.src a, .trig o, g, w⟩).coreAt (k / 4)).issuing = some (k % 4)) :
    exec (Instr.ofUnit o a g w m) s = .next (passed ((ready s k).start r [k] o ⟨.src a, .trig o, g, w⟩) k m
      ((((ready s k).start r [k] o ⟨.src a, .trig o, g, w⟩).watch k).finishWord 4 .seq (!m))) := by
  have hf := h.fires ⟨.src a, .trig o, g, w⟩
  rw [hg] at hf
  have hg' : ((s.watch k).guard g)[0] = true := by simpa using hg
  rw [exec_ofUnit o a g w m s hw, State.unitWord, State.transports]
  rw [h.runWord _ _ r]
  · simp only [h.issuer, h.members, Option.map_some, Option.getD_some, show (s.pass 1).endPasses [k] = ready s k from rfl,
      State.each_one, ofUnit_len o a g w m hw, ofUnit_marker o a g w m hw, Bool.and_true]
    rw [finishAll_one _ _ _ _ _ hi]
    rfl
  · simp only [List.any_cons, List.any_nil, Bool.or_false]
    split
    · rename_i u hu
      simp [hs u hu]
    · rfl
  · simp [State.move, hf, hg', State.transport, bind, Except.bind, pure, Except.pure, State.touchCarry, State.carry, hc]

end Sys2Proof
end

