-- ==== Sys2Proof/Tests/Slice0.lean ====
section
/-!
SUPPORT. The tests: ill-formed terms are refused; words written out in the specification decode to their instructions; a few single
steps; and for every statement about a state, states and operands that meet its hypotheses.
-/
namespace Sys2Proof.Tests
open Sys2Proof.Machine Sys2Proof.Claims

set_option Elab.async false

/-! ## Well-formedness: an ill-formed term for each check of R48 -/

/-- The guard code 0b1000 is reserved (R65). -/
theorem test_wf_guard : WellFormed (.toWord (.x 1) (.x 2) ⟨true, 0⟩ false) = false := by decide
theorem test_wf_branch_guard : WellFormed (.b ⟨true, 0⟩ 0 false) = false ∧ WellFormed (.bl ⟨true, 0⟩ 0 false) = false ∧
    WellFormed (.jr ⟨true, 0⟩ 1 false) = false ∧ WellFormed (.jlr ⟨true, 0⟩ 1 false) = false ∧
    WellFormed (.loop ⟨true, 0⟩ 0 1 false) = false := by decide
theorem test_wf_unit_guard : WellFormed (.ofUnit (.ia .add) (.x 1) ⟨true, 0⟩ false false) = false := by decide
/-- A vector does not convert to a float, nor a predicate (R53). -/
theorem test_wf_convert : WellFormed (.toWord (.v 1) (.f 2) ⟨false, 0⟩ false) = false ∧
    WellFormed (.toWord (.f 1) (.g 2) ⟨false, 0⟩ false) = false := by decide
theorem test_wf_unit_convert : WellFormed (.ofUnit (.va .add .w32) (.f 1) ⟨false, 0⟩ false false) = false := by decide
/-- A trigger port is the destination of the word of its operation alone (R55). -/
theorem test_wf_to_trigger : WellFormed (.toWord (.x 1) (.trig (.ia .add)) ⟨false, 0⟩ false) = false := by decide
/-- An operation is assigned with its types alone (R68). -/
theorem test_wf_type : WellFormed (.ofUnit (.va .andOp .w32) (.x 1) ⟨false, 0⟩ false false) = false ∧
    WellFormed (.ofUnit (.va .rcp .i8) (.x 1) ⟨false, 0⟩ false false) = false := by decide
theorem test_wf_ti : WellFormed (.ti (.trig (.va .clz .w64)) 0 false) = false := by decide
/-- The two transports of a T2: one half of the destinations, op 0 of a trigger, one vector bus, two destinations (R47, R50, R56). -/
theorem test_wf_t2_half : WellFormed (.t2 (.x 1) (.x 2) (.x 3) (.latch .iaA) false) = false := by decide
theorem test_wf_t2_op : WellFormed (.t2 (.x 1) (.latch .iaA) (.x 3) (.trig (.ia .sub)) false) = false := by decide
theorem test_wf_t2_bus : WellFormed (.t2 (.v 1) (.v 2) (.v 3) (.v 4) false) = false := by decide
theorem test_wf_t2_same : WellFormed (.t2 (.x 1) (.x 2) (.x 3) (.x 2) false) = false := by decide
theorem test_wf_t2_convert : WellFormed (.t2 (.v 1) (.f 2) (.x 3) (.x 2) false) = false ∧
    WellFormed (.t2 (.x 3) (.x 2) (.v 1) (.f 2) false) = false := by decide
theorem test_wf_ok : WellFormed (.t2 (.x 1) (.latch .iaA) (.x 2) (.trig (.ia .add)) false) = true := by decide

/-! ## Decoding: words written out in the specification -/

/-- A word decodes to an instruction. -/
def reads (w : BitVec 32) (i : Instr) : Bool := match decode32 w with
  | .ok j => decide (i = j)
  | .error _ => false
/-- A word is refused. -/
def refuses (w : BitVec 32) : Bool := match decode32 w with
  | .ok _ => false
  | .error _ => true
/-- No guard. -/
abbrev gd : Guard := ⟨false, 0⟩

/-- C2: R108's and R118's listings. -/
theorem test_dec_c2 : decode16 0x2408 = .cSub 8 2 false ∧ decode16 0xF184 = .cAddi 3 1 false ∧ decode16 0x928C = .cMul 5 3 false ∧
    decode16 0x1214 = .cAdd 4 5 false ∧ decode16 0x0180 = .cCp 3 0 false ∧ decode16 0x4000 = .cOr 0 0 false := by decide
/-- TO: R47's and R104's examples. -/
theorem test_dec_to : reads 0x07200281 (.toWord (.x 3) (.latch .iaA) ⟨true, 2⟩ false) = true ∧
    reads 0x63D68401 (.ofUnit (.va .add .w32) (.v 1) gd false false) = true ∧
    reads 0x0BC01C21 (.ofUnit (.ia .shr) (.x 5) gd true false) = true ∧ reads 0x92040003 (.toWord (.port .im) (.x 1) gd true) = true ∧
    reads 0x09040001 (.toWord (.x 4) (.g 1) gd false) = true ∧ reads 0xCC1C0001 (.toWord (.special .fst) (.x 7) gd false) = true := by decide
/-- T2 and TI: R104's and R106's examples (constant 11 of the sources is #3). -/
theorem test_dec_t2 : reads 0x02402C25 (.t2 (.x 1) (.latch .iaA) (.x 2) (.trig (.ia .add)) false) = true ∧
    reads 0x9057BC65 (.t2 (.port .ia) (.latch .imA) (.const 11) (.trig (.im .mul)) false) = true ∧
    reads 0x02601365 (.t2 (.x 1) (.latch .faA) (.x 1) (.latch .faB) false) = true := by decide
theorem test_dec_ti : reads 0xE001FF69 (.ti (.trig (.ia .add)) (-5) false) = true ∧
    reads 0xE427FFA9 (.ti (.trig (.fa .fexa)) (-3) false) = true ∧ reads 0xAC0000A9 (.ti (.latch .vxB) 5 false) = true ∧
    reads 0xEB7C0009 (.ti (.trig (.va .iota .w32)) 0 false) = true := by decide
/-- LI: R107's examples. -/
theorem test_dec_li : reads 0x3BFFFFED (.li 7 (-1) false) = true ∧ reads 0x4000_0C8D (.li 8 100 false) = true ∧
    reads 0x3440000D (.lh 6 0x20000 false) = true := by decide
/-- MEM: R103's listing, and a load by R72's table. -/
theorem test_dec_mem : reads 0x990C0013 (.std 4 6 0 true) = true ∧
    reads 0b00011_00111_00010_111111111000_100_0_1 (.ldd 7 2 (-8) false) = true := by decide
/-- BR: R111 to R113. -/
theorem test_dec_br : reads 0x10000415 (.bl gd 0x20 false) = true ∧ reads 0x300003F5 (.jr gd 31 false) = true ∧
    reads 0x20028415 (.loop gd 5 1 false) = true ∧ reads 0x01000555 (.b ⟨false, 1⟩ 0x2A false) = true := by decide
/-- SYS: R146 to R148, R158, R159, R164, R165, R194, R380 to R382. -/
theorem test_dec_sys : reads 0x0D000019 (.done false) = true ∧ reads 0x0E000019 (.reque false) = true ∧
    reads 0x01280219 (.pause 5 16 false) = true ∧ reads 0x06000299 (.bcs 0 20 false) = true ∧ reads 0x06280079 (.bcs 5 3 false) = true ∧
    reads 0x07000099 (.rms 4 false) = true ∧ reads 0x08000079 (.wnd 3 false) = true ∧ reads 0x09000019 (.wpop false) = true ∧
    reads 0x0A0000B9 (.glead 5 false) = true ∧ reads 0x0B000019 (.gfollow false) = true ∧ reads 0x0C000019 (.gend false) = true ∧
    reads 0x0F000139 (.trap 9 false) = true ∧ reads 0x10000019 (.tret false) = true ∧ reads 0x12000019 (.idle false) = true := by decide
/-- Illegal words: modes 5 to 7, a loop of more than 256 words, the reserved guard, an operation with no w form. -/
theorem test_dec_illegal : refuses 0x070000B9 = true ∧ refuses (0x20028415 ||| 0x00800000) = true ∧ refuses 0x07200201 = true ∧
    refuses 0x0BC00821 = true ∧ refuses 0xFFFFFFFF = true := by decide
/-- The units' words `to x5, …`, as the tables of R181, R215, R243, R258, R311, R345, R124, R378 give them, and a vector one (R208). -/
theorem test_dec_units : reads 0x0BC80001 (.ofUnit (.fa .fma) (.x 5) gd false false) = true ∧
    reads 0x0BC84C01 (.ofUnit (.fa .fexa) (.x 5) gd false false) = true ∧ reads 0x0BCC0401 (.ofUnit (.fd .fsqrt) (.x 5) gd false false) = true ∧
    reads 0x0BD02001 (.ofUnit (.sf .exd) (.x 5) gd false false) = true ∧ reads 0x63D81401 (.ofUnit (.vx .rsum) (.v 1) gd false false) = true ∧
    reads 0x0BDC1401 (.ofUnit (.mx .aread) (.x 5) gd false false) = true ∧ reads 0x0BE01C01 (.ofUnit (.ls .bmode) (.x 5) gd false false) = true := by
  decide
theorem test_dec_units2 : reads 0x0BE42401 (.ofUnit (.at .acas) (.x 5) gd false false) = true ∧
    reads 0x0BE43C01 (.ofUnit (.at .wdrop) (.x 5) gd false false) = true ∧ reads 0x0BE81001 (.ofUnit (.ms .dep) (.x 5) gd false false) = true ∧
    reads 0x0BE82001 (.ofUnit (.ms .mcast) (.x 5) gd false false) = true ∧ reads 0x0BEC0801 (.ofUnit (.ce .wseq) (.x 5) gd false false) = true ∧
    reads 0x0BF00C01 (.ofUnit (.tb .tset) (.x 5) gd false false) = true ∧ reads 0x0BF40401 (.ofUnit (.sy .wr) (.x 5) gd false false) = true := by
  decide

/-! ## Witnesses: states and operands that meet the hypotheses of the statements

`S0` is the machine after reset with one word of zeros placed where watch 0 of core 0 issues next; the others differ from it in what a
hypothesis names. -/

def S0 : State := { State.reset.placed 0 with schedule := [] }
/-- Registers of watch 0. -/
def regs (s : State) (l : List (Nat × Word)) : State := s.onWatch 0 fun w => { w with x := l.foldl (fun v e => v.setIfInBounds e.1 e.2) w.x }
/-- Operand latches of watch 0. -/
def latches (s : State) (l : List (Latch × Word)) : State := s.onWatch 0 fun w => l.foldl (fun w e => w.setLatch e.1 e.2) w
def w0 (s : State) (f : Watch → Watch) : State := s.onWatch 0 f
def c0 (s : State) (f : Core → Core) : State := s.onCore 0 f
def p0 (s : State) (f : Part → Part) : State := s.onPart 0 f
def fst' (s : State) (v : Word) : State := w0 s fun w => { w with fst := v }
/-- A leaf entry of a type with its field and address (R365), and a state whose core 0 translates 2^39 by it. -/
def leaf (ty aux pa : Nat) : Word := BitVec.ofNat 64 (pa / 2 ^ 16 * 2 ^ 28 + aux * 256 + ty * 4 + 3)
def page (s : State) (ty aux pa : Nat) : State := c0 s fun c => { c with utlb := [⟨0, 2 ^ 23, 2 ^ 16, leaf ty aux pa, 0⟩] }

/-- The turn of a watch, as a computation. -/
def turns (s : State) (k : Nat) : Bool :=
  decide (s.issuer = some k) && decide (k / 4 = s.cur) && decide ((s.watch k).gang = none) && decide ((s.watch k).nbr = none) &&
    decide ((s.watch k).fpTrap = none)
theorem turn_of {s : State} {k : Nat} (h : turns s k = true) : Turn s k := by
  simp only [turns, Bool.and_eq_true, decide_eq_true_eq] at h
  exact ⟨h.1.1.1.1, h.1.1.1.2, h.1.1.2, fun n hn => (by rw [h.1.2] at hn; cases hn), h.2⟩
/-- What holds of every entry of a table and of its default holds of what it reads as. -/
theorem get_all {α : Type} (P : α → Prop) (d : α) (t : Tbl α) (hd : P d) (h : ∀ e ∈ t, P e.2) (k : Nat) : P (Tbl.get d t k) := by
  induction t with
  | nil => exact hd
  | cons e t ih =>
    have ht := ih fun x hx => h x (.tail _ hx)
    simp only [Tbl.get] at ht ⊢
    split
    · exact h e (.head _)
    · exact ht

/-- What holds of the twelve links holds of every link. -/
theorem links_all (s : State) (P : Link → Prop) (h : ∀ i : Fin 12, P s.links[i]) (n : Nat) : P (s.linkAt n) := h ⟨n % 12, Nat.mod_lt _ (by decide)⟩

/-- For the words whose statements ask only for the turn of their watch: C2, `li`, `lh`, `t2`, `ti`, `b`, `bl`, `bcs`, `rms`, `isync`,
`roinv`, `pause`, `done`, `reque`, `gfollow` and the like. -/
theorem wit_turn : Turn S0 0 := turn_of (by decide)
theorem wit_guard : ((S0.watch 0).guard gd).getLsbD 0 = true ∧ ((S0.watch 0).guard ⟨false, 1⟩).getLsbD 0 = false := by decide
theorem wit_IntegerTriggers : Turn S0 0 ∧ ((S0.watch 0).guard gd).getLsbD 0 = true ∧ (UOp.ia .shr).hasW = true := ⟨wit_turn, by decide⟩
/-- `sf` at 23 beads, and at 24 with SX. -/
def sBeads (n : Nat) : State := w0 S0 fun w => { w with bc := n }
theorem wit_FloatTriggers : Turn (sBeads 23) 0 ∧ ((((sBeads 23).watch 0).guard gd).getLsbD 0 = true) ∧ (((ready (sBeads 23) 0).touchSrc 0 (.x 1)).watch 0).bc ≤ 23 := ⟨turn_of (by decide), by decide⟩
theorem wit_FloatTriggers_sx : Turn (fst' (sBeads 24) 0x1000000) 0 ∧
    (((ready (fst' (sBeads 24) 0x1000000) 0).touchSrc 0 (.x 1)).watch 0).fst.getLsbD 24 = true := ⟨turn_of (by decide), by decide⟩
/-- Vector operations: integers at 52 beads, w32 at 23. -/
theorem wit_VectorTriggers : Turn (sBeads 23) 0 ∧ vaPrec .mad .w32 23 false = false ∧ vaPrec .add .i64 52 false = false :=
  ⟨turn_of (by decide), by decide⟩
theorem wit_CrossLaneTriggers : Turn S0 0 ∧
    (∀ o : VxOp, o ∈ [VxOp.nbr, .tkclr, .tk, .tkrd, .perm] → vxPrec o (vxCtl (((((ready S0 0).touchSrc 0 (.v 1)).watch 0).vlatch .vxB).setWidth 64))
      (((ready S0 0).touchSrc 0 (.v 1)).watch 0).bc = false) := ⟨wit_turn, by decide⟩
theorem wit_IntegerLanes : vtyFloat .i8 = false ∧ 31 < 256 / vtyWidth .i8 ∧ vtyFloat .i64 = false ∧ 3 < 256 / vtyWidth .i64 := by decide
/-- Precision exhausted: `sf` at 24 beads with SX clear, a w32 vector at 24 and a cross-lane sum of w32. -/
def sPrec : State := w0 (sBeads 24) fun w => w.setVlatch .vxB 5
theorem wit_UnperformedTriggers : Turn sPrec 0 ∧ ((sPrec.watch 0).guard gd).getLsbD 0 = true ∧ ((sPrec.watch 0).guard ⟨false, 1⟩).getLsbD 0 = false ∧
    23 < (((ready sPrec 0).touchSrc 0 (.x 1)).watch 0).bc ∧ (((ready sPrec 0).touchSrc 0 (.x 1)).watch 0).fst.getLsbD 24 = false ∧
    vaPrec .add .w32 24 false = true ∧
    vxPrec .rsum (vxCtl (((((ready sPrec 0).touchSrc 0 (.x 1)).watch 0).vlatch .vxB).setWidth 64)) 24 = true := ⟨turn_of (by decide), by decide⟩
theorem wit_Conversions : (3 : Nat) < 4 ∧ (31 : Nat) < 32 := by decide
theorem wit_TransportWords : Turn S0 0 ∧ plainDst (.v 3) ∧ plainDst (.x 3) :=
  ⟨wit_turn, trivial, trivial⟩
/-- `to` to an f register: a window of one pip, where 2^-4 below 1 fits and 2^-5 does not; bound, and unbound with room. -/
def sWin (bound : Bool) (v : Word) : State :=
  w0 (regs S0 [(1, v)]) fun w => { w with windows := [⟨1, (Vector.replicate 16 none).set 2 (if bound then some 0 else none), false⟩] }
theorem wit_FloatTransport (b : Bool) : Turn (sWin b 0x3FF1000000000000) 0 ∧
    ((((ready (sWin b 0x3FF1000000000000) 0).touchSrc 0 (.x 1)).watch 0).windows = (((sWin b 0x3FF1000000000000).watch 0).windows)) ∧
    fits 1 (((ready (sWin b 0x3FF1000000000000) 0).read 0 (.x 1)).toScalar) = true ∧
    fits 1 (((ready (sWin b 0x3FF0800000000000) 0).read 0 (.x 1)).toScalar) = false ∧
    1 ≤ (((ready (sWin b 0x3FF1000000000000) 0).touchSrc 0 (.x 1)).coreAt 0).freePips := by cases b <;> exact ⟨turn_of (by decide), by decide⟩
theorem wit_ConstantTransports : Turn S0 0 ∧ plainDst (.v 1) ∧ plainDst (.latch .iaA) :=
  ⟨wit_turn, trivial, trivial⟩

/-! ### Branches and loops -/

theorem wit_Branches : Turn (regs S0 [(1, 0x101), (2, 0x100)]) 0 ∧ (((regs S0 [(1, 0x101), (2, 0x100)]).watch 0).endPass.xRead 1).getLsbD 0 = true ∧
    (((regs S0 [(1, 0x101), (2, 0x100)]).watch 0).endPass.xRead 2).getLsbD 0 = false ∧ (((regs S0 [(1, 0x101), (2, 0x100)]).watch 0).endPass.guard gd).getLsbD 0 = true ∧
    (((regs S0 [(1, 0x101), (2, 0x100)]).watch 0).endPass.guard ⟨false, 1⟩).getLsbD 0 = false := ⟨turn_of (by decide), by decide⟩
/-- A loop whose body is one 2-byte word of zeros, at the depth and within the body given. -/
def sLoop (l : List Loop) (n : Word) : State := w0 (regs S0 [(1, n)]) fun w => { w with img := { w.img with loops := l } }
def bodyLast (s : State) : Option (Nat × Nat) := match (ready s 0).body 0 1 0 (((s.watch 0).endPass).pc.toNat + 4) with
  | .ok (a, b, _) => some (a, b)
  | .error _ => none
theorem wit_LoopWord : Turn (sLoop [] 3) 0 ∧ bodyLast (sLoop [] 3) = some (2 ^ 38 + 4, 2 ^ 38 + 6) ∧ bodyLast (sLoop [] 0) = some (2 ^ 38 + 4, 2 ^ 38 + 6) ∧
    (((sLoop [] 3).watch 0).endPass.xRead 1 ≠ 0) := ⟨turn_of (by decide), by decide +kernel⟩
def lp (last : Nat) : Loop := ⟨2, BitVec.ofNat 64 (2 ^ 38), BitVec.ofNat 64 last, BitVec.ofNat 64 (last + 4)⟩
theorem wit_LoopWord_inner : Turn (sLoop [lp (2 ^ 38 + 4)] 3) 0 ∧ bodyLast (sLoop [lp (2 ^ 38 + 4)] 3) = some (2 ^ 38 + 4, 2 ^ 38 + 6) ∧
    bodyLast (sLoop [lp (2 ^ 38 + 2)] 3) = some (2 ^ 38 + 4, 2 ^ 38 + 6) ∧
    bodyLast (sLoop [lp (2 ^ 38 + 8), lp (2 ^ 38 + 8), lp (2 ^ 38 + 8)] 3) = some (2 ^ 38 + 4, 2 ^ 38 + 6) := ⟨turn_of (by decide), by decide +kernel⟩

/-! ### Loads and stores -/

/-- Watch 0 with a base in x2, a datum in x1, and bytes 11 22 … 88 in memory at 2^38 + 8. -/
def sMem (a : Nat) : State := (regs S0 [(1, 0x0102030405060708), (2, BitVec.ofNat 64 a), (3, 0xA1A2A3A4A5A6A7A8)]).putNat (placePa + 8) 8 0x8877665544332211
def plainLeaf : Word := 0x0000040000000003
/-- A load or store of 8 bytes by x2 goes to one place of memory. -/
def onMem (s : State) (acc : Acc) (va pa : Nat) (e : Word) : Prop :=
  Turn s 0 ∧ (s.watch 0).endPass.xRead 2 = BitVec.ofNat 64 va ∧ (ready s 0).resolveAll 0 acc va 8 = .ok [(.mem pa e, va, 0, 8)]
theorem wit_LoadWords : onMem (sMem (2 ^ 38 + 8)) .load (2 ^ 38 + 8) (2 ^ 30 + 8) plainLeaf ∧ Clear (ready (sMem (2 ^ 38 + 8)) 0) 0 [((2 ^ 30 + 8), 8)] ∧
    pteType plainLeaf ≠ 1 ∧ (ready (sMem (2 ^ 38 + 8)) 0).poisoned (2 ^ 30 + 8) 8 = false ∧ (2 ^ 30 + 8) / 64 = (2 ^ 30 + 8 + 7) / 64 :=
  ⟨⟨turn_of (by decide), by decide, rfl⟩, by decide⟩
/-- Four bytes in each of two lines of a page that boards do not hold (a pair's, type 2), both held by their slice; and a KEEP page. -/
def sPair : State := { page (sMem (2 ^ 39 + 60)) 2 0x800 (2 ^ 30) with
  slices := [(0, ⟨[(2 ^ 24, SliceLine.fresh), (2 ^ 24 + 1, SliceLine.fresh)], [], [], []⟩)] }
def twoPieces : List Piece := [(.mem (2 ^ 30 + 60) (leaf 2 0x800 (2 ^ 30)), 2 ^ 39 + 60, 0, 4), (.mem (2 ^ 30 + 64) (leaf 2 0x800 (2 ^ 30)), 2 ^ 39 + 64, 4, 4)]
theorem wit_LoadsAcross : Turn sPair 0 ∧ (sPair.watch 0).endPass.xRead 2 = 2 ^ 39 + 60 ∧
    (ready sPair 0).loadCheck 0 { size := 8, signed := false } (2 ^ 39 + 60) = .ok twoPieces ∧ Clear (ready sPair 0) 0 (twoPieces.map spanOfPiece) :=
  ⟨turn_of (by decide), by decide, rfl, by decide⟩
theorem wit_LoadsAcross_bytes : sPair.stores = [] ∧ sPair.updates = [] ∧ (∀ e ∈ sPair.slices, e.2.misses = []) ∧
    (ready sPair 0).poisoned (2 ^ 30 + 60) 4 = false ∧ (ready sPair 0).behindRetrain (2 ^ 30 + 64) = false ∧ ((ready sPair 0).tag? (2 ^ 24)).isSome = true ∧
    ((ready sPair 0).tag? (2 ^ 24 + 1)).isSome = true ∧ cacheable (leaf 2 0x800 (2 ^ 30)) = false := by decide
def sKeep (a : Nat) : State := page (sMem (2 ^ 39 + a)) 1 5 (2 ^ 30)
def sLines : State := page (sMem (2 ^ 39 + 60)) 0 0 (2 ^ 30)
theorem wit_StoresAcross : Turn sLines 0 ∧ (sLines.watch 0).endPass.xRead 2 = 2 ^ 39 + 60 ∧
    (ready sLines 0).resolveAll 0 .store (2 ^ 39 + 60) 8 =
      .ok [(.mem (2 ^ 30 + 60) (leaf 0 0 (2 ^ 30)), 2 ^ 39 + 60, 0, 4), (.mem (2 ^ 30 + 64) (leaf 0 0 (2 ^ 30)), 2 ^ 39 + 64, 4, 4)] ∧
    Clear (ready sLines 0) 0 [(2 ^ 30 + 60, 4), (2 ^ 30 + 64, 4)] ∧ spansMeet [(2 ^ 30 + 60, 4)] [(2 ^ 30 + 64, 4)] = false ∧ pteType (leaf 0 0 (2 ^ 30)) ≠ 1 ∧
    (ready sLines 0).cutOff (2 ^ 30 + 60) = false ∧ (ready sLines 0).pageHeld (2 ^ 30 + 60) = false := ⟨turn_of (by decide), by decide, rfl, by decide⟩
/-- A refused store: its second piece lies on no page; a store that meets a KEEP page, not aligned. -/
theorem wit_StoreTraps : Turn (sMem (2 ^ 39 + 0xFFFC)) 0 ∧ (ready (page (sMem (2 ^ 39 + 0xFFFC)) 0 0 (2 ^ 30)) 0).resolveAll 0 .store (2 ^ 39 + 0xFFFC) 8 =
      .error (5, 2 ^ 39 + 0x10000) ∧
    (ready (sKeep 60) 0).resolveAll 0 .store (2 ^ 39 + 60) 8 =
      .ok [(.mem (2 ^ 30 + 60) (leaf 1 5 (2 ^ 30)), 2 ^ 39 + 60, 0, 4), (.mem (2 ^ 30 + 64) (leaf 1 5 (2 ^ 30)), 2 ^ 39 + 64, 4, 4)] ∧
    pteType (leaf 1 5 (2 ^ 30)) = 1 ∧ (2 ^ 39 + 60) % 8 ≠ 0 := ⟨turn_of (by decide), rfl, rfl, by decide⟩
theorem wit_LoadWords_keep : onMem (sKeep 8) .load (2 ^ 39 + 8) (2 ^ 30 + 8) (leaf 1 5 (2 ^ 30)) ∧ pteType (leaf 1 5 (2 ^ 30)) = 1 ∧ (sKeep 8).keepq = [] ∧
    Clear (ready (sKeep 8) 0) 0 [((2 ^ 30 + 8), 8)] ∧ (ready (sKeep 8) 0).poisoned (2 ^ 30 + 8) 8 = false := ⟨⟨turn_of (by decide), by decide, rfl⟩, by decide⟩
/-- A KEEP page off its alignment, no page at all, and a hole of the local window. -/
theorem wit_LoadWords_traps : onMem (sKeep 4) .load (2 ^ 39 + 4) (2 ^ 30 + 4) (leaf 1 5 (2 ^ 30)) ∧ (2 ^ 39 + 4) % 8 ≠ 0 ∧
    Turn (sMem 64) 0 ∧ (ready (sMem 64) 0).resolveAll 0 .load 64 8 = .error (5, 64) ∧
    (ready (sMem 64) 0).resolveAll 0 .load 0xFE00000000080000 8 = .error (6, 0xFE00000000080000) ∧ Clear (ready (sMem 64) 0) 0 [(64, 8)] :=
  ⟨⟨turn_of (by decide), by decide, rfl⟩, by decide, turn_of (by decide), rfl, rfl, by decide⟩
/-- The last eight bytes of the local banks, and the first of another board's. -/
theorem wit_BankWords : Turn (sMem 0xFE0000000007FFF8) 0 ∧
    (ready (sMem 0xFE0000000007FFF8) 0).resolveAll 0 .load 0xFE0000000007FFF8 8 = .ok [(.bank 0 0x7FFF8, 0xFE0000000007FFF8, 0, 8)] ∧
    (ready (sMem 0xFD00000001000000) 0).resolveAll 0 .store 0xFD00000001000000 8 = .ok [(.bank 1 0, 0xFD00000001000000, 0, 8)] ∧
    Clear (ready (sMem 0xFE0000000007FFF8) 0) 0 [(0xFE0000000007FFF8, 8)] ∧
    (∀ x ∈ ((sMem 0xFD00000001000000).watch 0).endPass.windows, x.spilled = false) ∧
    Clear (ready (sMem 0xFD00000001000000) 0) 0 [(0xFD00000001000000, 8)] := ⟨turn_of (by decide), rfl, rfl, by decide, by decide, by decide⟩
/-- An acquire aligned, after an own store to its bytes, and one that is not; a read-only load of a line that the board holds. -/
def sOwn : State := c0 (sMem (2 ^ 38 + 8)) fun c => { c with wcb := [⟨(2 ^ 30 + 8) / 64, [(2 ^ 30 + 8, some 0x5A)], 0, 0, false⟩] }
def sRo : State := (sMem (2 ^ 38 + 8)).onBoard 0 fun b => { b with ro := [((2 ^ 30 + 8) / 64, 0x77 <<< 64)] }
theorem wit_AcquireAndReadOnly : onMem sOwn .load (2 ^ 38 + 8) (2 ^ 30 + 8) plainLeaf ∧ (2 ^ 38 + 8) % 8 = 0 ∧ onMem sRo .load (2 ^ 38 + 8) (2 ^ 30 + 8) plainLeaf ∧
    cacheable plainLeaf = true ∧ onMem (sMem (2 ^ 38 + 9)) .load (2 ^ 38 + 9) (2 ^ 30 + 9) plainLeaf ∧ (2 ^ 38 + 9) % 8 ≠ 0 ∧
    Clear (ready sOwn 0) 0 [((2 ^ 30 + 8), 8)] ∧ (ready sOwn 0).poisoned (2 ^ 30 + 8) 8 = false :=
  ⟨⟨turn_of (by decide), by decide, rfl⟩, by decide, ⟨turn_of (by decide), by decide, rfl⟩, by decide, ⟨turn_of (by decide), by decide, rfl⟩, by decide, by decide, by decide⟩
/-- A keeping load by a watch enrolled in the region, of a cell with two values and one with its one; the same words elsewhere. -/
def sTwo : State := w0 { sKeep 8 with cells := [(2 ^ 30 + 8, [⟨0x11, 3, 2, false, false, none⟩, ⟨0x22, 4, 2, false, false, none⟩])] } fun w =>
  { w with kenr := w.kenr.set 1 ⟨true, 5, 3, 0, [(3, 9)]⟩ }
theorem wit_KeepingLoads : Turn sTwo 0 ∧ sTwo.keepq = [] ∧ (2 ^ 39 + 8) % 8 = 0 ∧
    (ready sTwo 0).resolveAll 0 .keep (2 ^ 39 + 8) 8 = .ok [(.mem (2 ^ 30 + 8) (leaf 1 5 (2 ^ 30)), 2 ^ 39 + 8, 0, 8)] ∧
    (ready sTwo 0).poisoned (2 ^ 30 + 8) 8 = false ∧ (sTwo.watch 0).endPass.enrolled 5 = some 1 ∧
    (ready (sMem (2 ^ 38 + 8)) 0).resolveAll 0 .keep (2 ^ 38 + 8) 8 = .ok [(.mem (2 ^ 30 + 8) plainLeaf, 2 ^ 38 + 8, 0, 8)] := ⟨turn_of (by decide), rfl, by decide, rfl, by decide, by decide, rfl⟩
theorem wit_StoresToMemory : onMem (sMem (2 ^ 38 + 8)) .store (2 ^ 38 + 8) (2 ^ 30 + 8) plainLeaf ∧ (∀ x ∈ ((sMem (2 ^ 38 + 8)).watch 0).endPass.windows, x.spilled = false) ∧
    Clear (ready (sMem (2 ^ 38 + 8)) 0) 0 [((2 ^ 30 + 8), 8)] ∧ (ready (sMem (2 ^ 38 + 8)) 0).cutOff (2 ^ 30 + 8) = false :=
  ⟨⟨turn_of (by decide), by decide, rfl⟩, by decide⟩
/-- Stores to KEEP pages: not aligned; enrolled, one below the counter's limit; not enrolled, with four enrolments elsewhere. -/
def sEnr (n : Nat) : State := w0 (sKeep 8) fun w => { w with kenr := w.kenr.set 1 ⟨true, 5, 3, 0, [(3, n)]⟩ }
def sFull : State := w0 (sKeep 8) fun w => { w with kenr := .replicate 4 ⟨true, 6, 3, 0, []⟩ }
theorem wit_StoresToKeeping : onMem (sEnr 0xFFFFFE) .store (2 ^ 39 + 8) (2 ^ 30 + 8) (leaf 1 5 (2 ^ 30)) ∧ ((sEnr 0xFFFFFE).watch 0).endPass.enrolled 5 = some 1 ∧
    (((sEnr 0xFFFFFE).watch 0).enrol 1).clock.get 0 3 + 1 ≤ 0xFFFFFF ∧ Clear (ready (sEnr 0xFFFFFE) 0) 0 [((2 ^ 30 + 8), 8)] ∧
    onMem (sKeep 4) .store (2 ^ 39 + 4) (2 ^ 30 + 4) (leaf 1 5 (2 ^ 30)) ∧
    onMem sFull .store (2 ^ 39 + 8) (2 ^ 30 + 8) (leaf 1 5 (2 ^ 30)) ∧ (sFull.watch 0).endPass.enrolled 5 = none ∧
    (∀ q, q < 4 → ((sFull.watch 0).endPass.enrol q).valid = true) :=
  ⟨⟨turn_of (by decide), by decide, rfl⟩, by decide, by decide, by decide, ⟨turn_of (by decide), by decide, rfl⟩, ⟨turn_of (by decide), by decide, rfl⟩, by decide, by decide⟩
/-- A release, aligned and not, behind an own store in the buffer; no link retrains. -/
theorem wit_ReleaseAndNonTemporal : onMem sOwn .store (2 ^ 38 + 8) (2 ^ 30 + 8) plainLeaf ∧ sOwn.keepq = [] ∧ (∀ n, (sOwn.linkAt n).retrain = none) ∧
    (ready sOwn 0).cutOff (2 ^ 30 + 8) = false ∧ onMem (sMem (2 ^ 38 + 9)) .store (2 ^ 38 + 9) (2 ^ 30 + 9) plainLeaf :=
  ⟨⟨turn_of (by decide), by decide, rfl⟩, rfl, fun n => links_all _ (fun l => l.retrain = none) (by decide) n, by decide, ⟨turn_of (by decide), by decide, rfl⟩⟩

/-! ### CSRs, precision, windows, ordering -/

def sHm : State := p0 (w0 (regs S0 [(1, 0x7)]) fun w => { w with hm := true, tnext := 0x1234, img := { w.img with landed := 0x10 } }) fun p => { p with tvb := 0x101 }
theorem wit_CsrWords : Turn S0 0 ∧ (ready S0 0).csr? 0 0x001 = some 0 ∧ (ready S0 0).csr? 0 0x1FF = none ∧ (ready S0 0).csr? 0 0x103 = some 0 ∧
    (S0.watch 0).endPass.hm = false ∧ Turn sHm 0 ∧ (ready sHm 0).csr? 0 0x103 = some 0x1234 ∧ (sHm.watch 0).endPass.hm = true :=
  ⟨wit_turn, by decide, by decide, by decide, by decide, turn_of (by decide), by decide, by decide⟩
/-- Stacks of one, two, fifteen and sixteen windows. -/
def sStack (n : Nat) : State := w0 S0 fun w => { w with windows := (List.replicate (n - 1) ⟨1, .replicate 16 none, false⟩) ++ [⟨4, .replicate 16 none, false⟩], loads := [⟨0, .f 1 (n - 1), 0, 8, false, 0, 0, 0xFFFFFFFF, 0, 0⟩] }
theorem wit_BeadWords : (Turn (sStack 1) 0 ∧ ((sStack 1).watch 0).endPass.windows.length ≤ 1) ∧ (Turn (sStack 2) 0 ∧ 2 ≤ ((sStack 2).watch 0).endPass.windows.length) ∧
    (Turn (sStack 15) 0 ∧ ((sStack 15).watch 0).endPass.windows.length < 16) ∧ Turn (sStack 16) 0 ∧ 16 ≤ ((sStack 16).watch 0).endPass.windows.length :=
  ⟨⟨turn_of (by decide), by decide⟩, ⟨turn_of (by decide), by decide⟩, ⟨turn_of (by decide), by decide⟩, turn_of (by decide), by decide⟩
theorem wit_OrderingWords_fence : Turn S0 0 ∧ Unheld S0 0 ∧ (∀ n, (S0.linkAt n).lost = 0) :=
  ⟨wit_turn, ⟨by decide, rfl, rfl, fun n => links_all _ (fun l => l.retrain = none) (by decide) n, by decide⟩,
    fun n => links_all _ (fun l => l.lost = 0) (by decide) n⟩
/-- `isync` with no active body, and with the loop buffer holding one. -/
def sBuf : State := c0 (sLoop [lp (2 ^ 38 + 8)] 1) fun c => { c with loopTag := some (0, BitVec.ofNat 64 (2 ^ 38)), loopBuf := [(2 ^ 38, 0)], fetch := [⟨2 ^ 32, []⟩] }
theorem wit_OrderingWords_isync : Turn S0 0 ∧ (∀ j, (((ready S0 0).coreAt 0).watch j).img.loops = []) ∧ Turn sBuf 0 ∧
    ((ready sBuf 0).coreAt 0).loopTag = some (0, BitVec.ofNat 64 (2 ^ 38)) ∧
    (∃ l ∈ (((ready sBuf 0).coreAt 0).watch 0).img.loops, l.first = BitVec.ofNat 64 (2 ^ 38)) := by
  refine ⟨wit_turn, fun j => ?_, turn_of (by decide), by decide, by decide⟩
  have h : ∀ i : Fin 4, (((ready S0 0).coreAt 0).watches[i]).img.loops = [] := by decide
  exact h ⟨j % 4, Nat.mod_lt _ (by decide)⟩
/-- `isync` leaves the place in the order before which the fetches behind it wait for the loads. -/
theorem test_isync : (match exec (.isync false) (w0 S0 fun w => { w with ord := 5 }) with
    | .next t => (t.watch 0).syncOrd == 5 && decide ((t.watch 0).pc = (S0.watch 0).pc + 4)
    | _ => false) = true := by decide +kernel
/-- `wb`: an empty range, one too long, one in a window, and the last line of a block. -/
def sWb (lo n : Nat) : State := regs S0 [(1, BitVec.ofNat 64 lo), (2, BitVec.ofNat 64 n)]
theorem wit_OrderingWords_wb : Turn (sWb (2 ^ 38 + 0xFFC0) 64) 0 ∧ 2 ^ 32 < (((sWb 0 0x100000001).watch 0).endPass.xRead 2).toNat ∧
    meetsWindow 0xFE00000000000000 1 = true ∧ meetsWindow (2 ^ 38 + 0xFFC0) 64 = false ∧ (2 ^ 38 + 0xFFC0) / 2 ^ 16 = (2 ^ 38 + 0xFFC0 + 64 - 1) / 2 ^ 16 ∧
    (ready (sWb (2 ^ 38 + 0xFFC0) 64) 0).translate 0 0 (2 ^ 38 + 0xFFC0) = some (plainLeaf, 2 ^ 30) := ⟨turn_of (by decide), by decide⟩

/-! ### Words that park, traps and cancelling -/

/-- Watch 0 of core 1, at position 1 of its rod, issues; and a gang of the watches 0 of cores 0 and 1. -/
def sOne : State := { S0.onWatch 4 Watch.placed with cur := 1, cores := Tbl.set (S0.onWatch 4 Watch.placed).cores 1 { (S0.onWatch 4 Watch.placed).coreAt 1 with issuing := some 0 } }
def sGang : State := (S0.onWatch 0 fun w => { w with gang := some 0, gs := 2, gp := 0 }).onWatch 4 fun w => { w.placed with gang := some 0, gs := 2, gp := 1 }
theorem wit_ParkingAndGangEnd : Turn sOne 4 ∧ posOf (4 / 4) % 2 ^ (1 : BitVec 3).toNat ≠ 0 ∧ Turn S0 0 ∧ posOf 0 % 2 ^ (5 : BitVec 3).toNat = 0 ∧
    sGang.issuer = some 0 ∧ sGang.members 0 = [0, 4] ∧ [0, 4].Nodup ∧
    (∀ j ∈ [0, 4], (sGang.watch j).gang.isSome = true ∧ (sGang.watch j).nbr = none ∧ (sGang.watch j).fpTrap = none) :=
  ⟨turn_of (by decide), by decide, wit_turn, by decide⟩
def sTvb : State := p0 S0 fun p => { p with tvb := 0x201 }
theorem wit_TrapAndReturn : Turn sHm 0 ∧ (sHm.watch 0).endPass.hm = true ∧ (sHm.part? 0).map (·.run) = some .running ∧ Turn sTvb 0 ∧
    (sTvb.watch 0).endPass.hm = false ∧ (sTvb.watch 0).endPass.loadsOut = false ∧ (sTvb.tvb 0).getLsbD 0 = true := ⟨turn_of (by decide), by decide, by decide, turn_of (by decide), by decide⟩
/-- A trap into the handler; fatal in handler mode, and with no handler installed. -/
theorem wit_TakingTraps : (sTvb.watch 0).hm = false ∧ (sTvb.tvb 0).getLsbD 0 = true ∧ (sTvb.watch 0).loads = [] ∧ (sTvb.watch 0).loadsOut = false ∧ ((S0.onWatch 0 fun w => { w with loads := [⟨0, .x 1, 0, 8, false, 0, 1, 0xFFFFFFFF, 0, 0⟩] }).watch 0).loadsOut = true ∧
    ((sHm.watch 0).hm = true ∧ 1 ≠ 0x13) ∧ (S0.tvb 0).getLsbD 0 = false ∧ (S0.part? (S0.watch 0).part).map (·.run) = some .running := by decide
/-- A launch that runs, with two of its indices not placed; and handles with a reserved bit, of a free entry, of an old generation. -/
def aLaunch : Launch := ⟨true, 3, true, false, .replicate 8 0, 0, none, false, 5, [(0, 0, 1, 2)]⟩
def sLive : State := p0 (regs S0 [(1, handleOf 7 3), (2, handleOf 7 2), (3, 0x1000000)]) fun p => { p with launches := p.launches.set 7 aLaunch }
theorem wit_CancelWord : Turn sLive 0 ∧ ((ready sLive 0).part? 0).isSome = true ∧ bits ((sLive.watch 0).endPass.xRead 3) 63 24 ≠ 0 ∧
    bits ((sLive.watch 0).endPass.xRead 1) 63 24 = 0 ∧ (((sLive.part? 0).getD Part.fresh).launchAt 7).used = true ∧
    (((sLive.part? 0).getD Part.fresh).launchAt 7).gen = bits ((sLive.watch 0).endPass.xRead 1) 23 8 ∧
    (((sLive.part? 0).getD Part.fresh).launchAt 7).gen ≠ bits ((sLive.watch 0).endPass.xRead 2) 23 8 := ⟨turn_of (by decide), by decide⟩
/-- A launch that has not started. -/
theorem wit_CancelWord_waiting : (aLaunch.cancelled = false ∧ aLaunch.started = true) ∧
    ((((p0 S0 fun p => { p with launches := p.launches.set 7 { aLaunch with started := false } }).part? 0).getD Part.fresh).launchAt 7).started = false := by decide

/-! ### Triggers of the parked units: rods, tensors, boards -/

/-- `Performs`, as a computation. -/
def performs (s : State) (k : Nat) (g : Guard) (u : FUnit) : Bool :=
  turns s k && ((s.watch k).guard g).getLsbD 0 && decide ((ready s k).unfinished (k / 4) u < 8) && decide (s.keepq = []) &&
    decide ((s.watch k).path = [])
theorem performs_of {s : State} {k : Nat} {g : Guard} {u : FUnit} (h : performs s k g u = true) : Performs s k g u := by
  simp only [performs, Bool.and_eq_true, decide_eq_true_eq] at h
  exact ⟨turn_of h.1.1.1.1, h.1.1.1.2, h.1.1.2, h.1.2, h.2⟩
/-- A watch that already waits for `n` triggers of a unit. -/
def busy (n : Nat) (u : FUnit) : State := w0 S0 fun w => { w with img := { w.img with waits := (List.range n).map fun i => (i + 100, some u) } }
theorem wit_MacroTriggers : Performs S0 0 gd .mx ∧ Performs (busy 7 .mx) 0 gd .mx ∧ (((ready S0 0).touchSrc 0 (.x 1)).watch 0).latch .mxA ≤ 8 :=
  ⟨performs_of (by decide), performs_of (by decide), by decide⟩
/-- Rod 0 with a trigger of every core in its queue, the first with an operation of its own. -/
def trigs (o : MxOp) (d : Word) : List MxTrig := (rodCores 0).map fun c => ⟨c, 0, c, 0, 0, if c = 0 then o else .aclr, 0, 0, 0, d⟩
def sRod (l : List MxTrig) (q : List RodRun) : State := { S0 with rods := [(0, { Rod.fresh with waiting := l, running := q })], opnd := { Operand.zero with b := 0 } }
theorem wit_RodOperations : (∃ c ∈ rodCores S0.opnd.a, ∀ u ∈ (S0.rodAt S0.opnd.a).waiting, u.core ≠ c) ∧
    ((sRod (trigs .mmul 0) []).rodNext 0 = some (trigs .mmul 0) ∧ (∃ x ∈ (trigs .mmul 0).tail, x.op ≠ .mmul)) ∧
    ((sRod (trigs .aclr 0xFFFFFFFF) []).rodNext 0 = some (trigs .aclr 0xFFFFFFFF) ∧ ∀ x ∈ trigs .aclr 0xFFFFFFFF, x.op = .aclr ∧ x.d.toNat < 2 ^ 32) := by
  refine ⟨by decide, ⟨by decide, by decide⟩, by decide, by decide⟩
theorem wit_RodOperations_end : ((sRod [] [⟨1, []⟩]).rodAt 0).running[0]? = some ⟨1, []⟩ ∧ (sRod [] [⟨1, []⟩]).cycles < 1 ∧
    ((sRod [] [⟨0, []⟩]).rodAt 0).running[0]? = some ⟨0, []⟩ ∧ 0 ≤ (sRod [] [⟨0, []⟩]).cycles ∧
    ((busy 1 .mx).watch (0 * 4 + 0)).img.holds 100 = true := by decide
/-- A header of one dimension of 16 elements (R175). -/
def hdr (fmt len base dim stride : Nat) : Header :=
  BitVec.ofNat 512 (0x4A4C5444 + 2 ^ 32 + fmt * 2 ^ 40 + (if fmt = 3 then 5 else 0) * 2 ^ 48 + len * 2 ^ 56 + base * 2 ^ 64 + 2 ^ 192 + dim * 2 ^ 224) ||| (BitVec.ofNat 512 stride <<< 352)
/-- w32 elements, and elements of 1 + 5 + 5 bits, 11 apart. -/
def sTen (h : Header) (l : List (Nat × Word)) : State := latches (p0 (regs (sMem (2 ^ 38)) l) fun p => { p with tensors := [(3, some h)] }) [(.lsA, 3), (.lsC, 0x3FF8000000000000)]
theorem wit_ElementTriggers : Performs (sTen (hdr 2 0 (2 ^ 38) 16 32) [(1, 15)]) 0 gd .ls ∧
    ((ready (sTen (hdr 2 0 (2 ^ 38) 16 32) [(1, 15)]) 0).touchSrc 0 (.x 1)).tensor? 0 3 = some (hdr 2 0 (2 ^ 38) 16 32) ∧
    (hdr 2 0 (2 ^ 38) 16 32).ok = true ∧ (15 < (hdr 2 0 (2 ^ 38) 16 32).dim 0) ∧ ¬ (16 < (hdr 2 0 (2 ^ 38) 16 32).dim 0) ∧
    ((ready (sTen (hdr 2 0 (2 ^ 38) 16 32) [(1, 15)]) 0).touchSrc 0 (.x 1)).tensor? 0 4 = none := ⟨performs_of (by decide +kernel), by decide +kernel⟩
/-- A tensor whose element 15 is stored in bits of two bytes: what is read for it, and what is stored for it. -/
def sBits : State := sTen (hdr 3 5 (2 ^ 38) 16 11) [(1, 15)]
def rBits : State := (ready sBits 0).touchSrc 0 (.x 1)
theorem wit_ElementTriggers_store : Performs sBits 0 gd .ls ∧ (hdr 3 5 (2 ^ 38) 16 11).ok = true ∧ (hdr 3 5 (2 ^ 38) 16 11).bit [15, 0, 0, 0] % 8 = 5 ∧
    (let f := bitStore (8 * 2 ^ 38 + 165) 11 0x5A5 true;
      (match rBits.unitLoad 0 ((8 * 2 ^ 38 + 165) / 8) 2 true with
        | .ok (l, q) => decide (q.watch 0 = rBits.watch 0) && decide (l.length = 2)
        | .error _ => false) &&
      match (rBits.takeOrd 0).2.unitStore 0 (rBits.watch 0).ord f.1 ((8 * 2 ^ 38 + 165) / 8) f.2 [] with
        | .ok z => decide ((z.watch 0).ord = (rBits.watch 0).ord + 1)
        | .error _ => false) = true := ⟨performs_of (by decide +kernel), by decide +kernel, by decide +kernel, by decide +kernel⟩
/-- A store of an element where no page is. -/
theorem wit_ElementTriggers_fault : Performs (sTen (hdr 2 0 64 16 32) [(1, 15)]) 0 gd .ls ∧
    (let r := (ready (sTen (hdr 2 0 64 16 32) [(1, 15)]) 0).touchSrc 0 (.x 1)
     match r.unitLoad 0 124 4 false, (r.takeOrd 0).2.unitStore 0 (r.watch 0).ord (bitStore 992 32 1 false).1 124 (bitStore 992 32 1 false).2 [] with
      | .error (5, _), .error (5, _) => true
      | _, _ => false) = true := ⟨performs_of (by decide +kernel), by decide +kernel⟩
theorem wit_ElementTriggers_bits : 5 % 8 + 11 ≤ 8 * [0, 0].length ∧ (4 < 5 % 8 ∨ 5 % 8 + 11 ≤ 4) := by decide
/-- Pins: of a line the board holds, at a quota that is reached, of one it does not hold, and given back. -/
def sPin (q : Nat) (pins : List (Nat × Nat)) : State :=
  w0 ((regs (sMem (2 ^ 38)) [(1, BitVec.ofNat 64 (2 ^ 38 + 8))]).onBoard 0 fun b => { b with ways := [(2 ^ 24, ⟨3, 0, 0, if pins = [] then [] else [0], 0xFFFF, 0⟩)] }) fun w => { w with quota := q, pins := pins }
theorem wit_PinTriggers : Performs (sPin 1 []) 0 gd .ls ∧ inWindow (((ready (sPin 1 []) 0).read 0 (.x 1)).toScalar).toNat = false ∧
    ((ready (sPin 1 []) 0).touchSrc 0 (.x 1)).translate 0 0 (2 ^ 38 + 8) = some (plainLeaf, 2 ^ 30) ∧
    ((ready (sPin 1 []) 0).touchSrc 0 (.x 1)).paOf 0 plainLeaf (2 ^ 30) (2 ^ 38 + 8) false / 64 = 2 ^ 24 ∧ cacheable plainLeaf = true ∧
    ((((ready (sPin 1 []) 0).touchSrc 0 (.x 1)).boardAt 0).way? (2 ^ 24)).isSome = true ∧ ((((ready (sPin 1 []) 0).touchSrc 0 (.x 1)).watch 0).pins.length < 1) ∧
    ((((ready (sPin 0 []) 0).touchSrc 0 (.x 1)).watch 0).quota ≤ 0) ∧ (0, 2 ^ 24) ∈ (((ready (sPin 1 [(0, 2 ^ 24)]) 0).touchSrc 0 (.x 1)).watch 0).pins ∧
    cacheable (leaf 1 5 0) = false ∧ ((ready (sMem 64) 0).touchSrc 0 (.x 1)).translate 0 0 64 = none := ⟨performs_of (by decide), by decide⟩
/-- A board with no WAY bank has no way to give; a line that its slice holds fills the board's cache. -/
def rPin (w : Bool) : State := (ready { ((sPin 1 []).onBoard 0 fun b => { b with
    ways := if w then [(2 ^ 24, ⟨3, 0, 0, [], 0xFFFF, 0⟩)] else []
    banks := if w then b.banks else b.banks.map fun k => { k with mode := 1 } }) with
  slices := [(0, ⟨[(2 ^ 24, SliceLine.fresh)], [], [], []⟩)] } 0).touchSrc 0 (.x 1)
theorem wit_PinTriggers_full : ((rPin false).boardAt 0).way? (2 ^ 24) = none ∧ ((rPin false).boardAt 0).victimBank (2 ^ 24) = none := by decide +kernel
theorem wit_PinTriggers_pin : (rPin true).inMiss (2 ^ 24) = false ∧ ((rPin true).needLine (2 ^ 24) false).fills plainLeaf (2 ^ 24 * 64) = true ∧
    (((rPin true).needLine (2 ^ 24) false).boardAt 0).way? (2 ^ 24) = some ⟨3, 0, 0, [], 0xFFFF, 0⟩ := by decide +kernel
/-- Prefetches: empty, of the greatest length with fifteen of its board's under way and with sixteen. -/
def sPfr (n len : Nat) : State := latches { regs (sMem (2 ^ 38)) [(1, BitVec.ofNat 64 (2 ^ 38 + 8))] with prefetches := List.replicate n ⟨9, 0, 1, 0, 0, 3⟩ } [(.lsB, BitVec.ofNat 64 len)]
theorem wit_PinTriggers_pfr : Performs (sPfr 15 (2 ^ 32)) 0 gd .ls ∧ ¬ 2 ^ 32 < ((((ready (sPfr 15 (2 ^ 32)) 0).touchSrc 0 (.x 1)).watch 0).latch .lsB).toNat ∧
    ¬ 16 ≤ (((ready (sPfr 15 (2 ^ 32)) 0).touchSrc 0 (.x 1)).prefetches.filter fun p => boardOf (p.core / 4) = boardOf (0 / 4)).length ∧
    16 ≤ (((ready (sPfr 16 (2 ^ 32)) 0).touchSrc 0 (.x 1)).prefetches.filter fun p => boardOf (p.core / 4) = boardOf (0 / 4)).length ∧
    ((((ready (sPfr 0 0) 0).touchSrc 0 (.x 1)).watch 0).latch .lsB).toNat = 0 ∧ 2 ^ 32 < ((((ready (sPfr 0 (2 ^ 32 + 1)) 0).touchSrc 0 (.x 1)).watch 0).latch .lsB).toNat :=
  ⟨performs_of (by decide), by decide⟩
/-- A bank in FIFO mode with its head and tail slots in given states, its address in x1 and flags in the latch. -/
def sFifo (b : Bank) (base : Nat) (a : Word) (taken : List (Nat × Nat × Nat)) : State :=
  latches (w0 ((regs S0 [(1, BitVec.ofNat 64 base)]).onBank 0 2 fun _ => b) fun w => { w with taken := taken }) [(.lsA, a)]
def aFifo (h t : FSlot) : Bank := { Bank.fresh with mode := 2, z := 3, head := 1, tail := 63, slots := Tbl.put .free (Tbl.put .free [] 1 h) 63 t }
def fifoAt : Nat := 0xFE00000000010000
theorem wit_FifoTriggers : Performs (sFifo (aFifo .complete .free) fifoAt 2 []) 0 gd .ls ∧
    bankOf 0 (BitVec.ofNat 64 fifoAt) = some (0, 2, 0xFE00000000000000) ∧ bankOf 0 0xFE00000000080000 = none ∧
    (((ready (sFifo (aFifo .complete .free) fifoAt 2 []) 0).touchSrc 0 (.x 1)).boardAt 0).bank 2 = aFifo .complete .free ∧
    (aFifo .complete .free).slot 63 = .free ∧ (aFifo .complete .free).pushes = [] ∧ (aFifo .complete .free).slot 1 = .complete ∧ (aFifo .complete .free).takes = [] ∧
    (aFifo .free .complete).slot 63 ≠ .free ∧ (aFifo .free .complete).slot 1 ≠ .complete := ⟨performs_of (by decide), by decide⟩
theorem wit_FifoTriggers_more : Performs (sFifo (aFifo (.taken 0 1) .free) fifoAt 3 [(0, 2, 1)]) 0 gd .ls ∧
    ((((ready (sFifo (aFifo (.taken 0 1) .free) fifoAt 3 [(0, 2, 1)]) 0).touchSrc 0 (.x 1)).watch 0).taken.find? fun x => x.1 = 0 && x.2.1 = 2) = some (0, 2, 1) ∧
    bankOf 0 0xFD00000001010000 = some (1, 2, 0xFD00000001000000) ∧ (S0.reaches 0 1) = true ∧ (S0.reaches 0 16) = false ∧
    bankOf 0 0xFD00000010010000 = some (16, 2, 0xFD00000010000000) ∧
    bits (3 : Word) 1 0 = 3 ∧ (0x72 : Word) &&& ~~~0x73 = 0 := ⟨performs_of (by decide), by decide⟩

/-! ### Atomics, reconciles and writer slots -/

/-- The datum in x1, the address and operand in the latches; bytes at 2^38 + 8, a KEEP page at 2^39. -/
def sAt (d a b : Word) : State := latches (page (regs (sMem (2 ^ 38)) [(1, d)]) 1 5 (2 ^ 30)) [(.atA, a), (.atB, b), (.atC, 9)]
def rAt (s : State) : State := (ready s 0).touchSrc 0 (.x 1)
def enr (s : State) (n : Nat) : State := w0 s fun w => { w with kenr := w.kenr.set 1 ⟨true, 5, 3, 0, [(3, n)]⟩ }
def keepLeaf : Word := leaf 1 5 (2 ^ 30)
theorem wit_AtomicTriggers : Performs (sAt 3 0x4000000008 5) 0 gd .at ∧ bits (3 : Word) 63 3 = 0 ∧ atSized .aadd 3 ∧ ¬ (bits (8 : Word) 63 3 = 0) ∧
    (0x4000000008 : Word).toNat % 2 ^ 3 = 0 ∧ (0x4000000004 : Word).toNat % 2 ^ 3 ≠ 0 ∧
    (rAt (sAt 3 0x4000000008 5)).resolve 0 .atomic 0x4000000008 = .ok (.mem (2 ^ 30 + 8) plainLeaf) ∧ atFits .aadd 3 5 (placeType (.mem (2 ^ 30 + 8) plainLeaf)) ∧
    (rAt (sAt 3 64 5)).resolve 0 .atomic 64 = .error 5 ∧ (rAt (sAt 2 0xFE00000000080000 0)).resolve 0 .load 0xFE00000000080000 = .error 6 ∧
    inWindow 0xFE00000000080000 = true ∧ ¬ atFits .ldsib 2 4 0 ∧ atFits .ldsib 2 3 0 :=
  ⟨performs_of (by decide), by decide, show (3 : Nat) ≤ 3 by decide, by decide, by decide, by decide, rfl, trivial, rfl, rfl, by decide,
    fun h => absurd (show (4 : Word).toNat < 4 from h) (by decide), show (3 : Word).toNat < 4 by decide⟩
theorem wit_AtomicTriggers_keep : Performs (enr (sAt 3 0x8000000008 5) 0xFFFFFE) 0 gd .at ∧
    (rAt (enr (sAt 3 0x8000000008 5) 0xFFFFFE)).resolve 0 .atomic 0x8000000008 = .ok (.mem (2 ^ 30 + 8) keepLeaf) ∧ pteType keepLeaf = 1 ∧
    ((rAt (enr (sAt 3 0x8000000008 5) 0xFFFFFE)).writerOf 0 5 true).isSome = true ∧ (rAt (enr (sAt 3 0x8000000008 5) 0xFFFFFF)).writerOf 0 5 true = none ∧
    atFits .recon 3 0x21 1 := ⟨performs_of (by decide), rfl, by decide, by decide, by decide, rfl, by decide⟩
/-- A snap: its destination in the last 64 bytes of the banks, and one that is no bank. -/
theorem wit_AtomicTriggers_snap : Performs (sAt 6 0x4000000000 0xFE0000000007FFC0) 0 gd .at ∧ atFits .snap 6 0xFE0000000007FFC0 0 ∧
    (rAt (sAt 6 0x4000000000 0xFE0000000007FFC0)).resolve 0 .store 0xFE0000000007FFC0 = .ok (.bank 0 0x7FFC0) ∧
    (rAt (sAt 6 0x4000000000 0xFE00000000800000)).resolve 0 .store 0xFE00000000800000 = .error 6 ∧ atFits .snap 6 0xFE00000000800000 0 ∧
    (rAt (sAt 3 0xFE0000000007FFF8 0)).resolve 0 .atomic 0xFE0000000007FFF8 = .ok (.bank 0 0x7FFF8) := 
  ⟨performs_of (by decide), ⟨by decide, by decide, by decide, by decide⟩, rfl, rfl, ⟨by decide, by decide, by decide, by decide⟩, rfl⟩
/-- Writer slots: off KEEP pages; a region with a free slot; with none; a watch with four enrolments; enrolled and not. -/
def limit (s : State) (n : Nat) : State := s.onRegion 0 5 fun g => { g with limit := n }
def full4 (s : State) : State := w0 s fun w => { w with kenr := .replicate 4 ⟨true, 6, 3, 0, []⟩ }
def sSlot : State := sAt 0 0x8000000008 0
theorem wit_SlotTriggers : Performs sSlot 0 gd .at ∧ ((ready sSlot 0).read 0 (.x 1)).toScalar = 0 ∧
    (rAt sSlot).resolve 0 .load 0x8000000008 = .ok (.mem (2 ^ 30 + 8) keepLeaf) ∧ placeType (.mem (2 ^ 30 + 8) plainLeaf) ≠ 1 ∧
    (match (rAt sSlot).enrolIn 0 5 with | .ok (j, _) => decide (j = 0) | _ => false) = true ∧
    (match (rAt (limit sSlot 0)).enrolIn 0 5 with | .error .noSlot => true | _ => false) = true ∧
    (match (rAt (full4 sSlot)).enrolIn 0 5 with | .error .full => true | _ => false) = true ∧
    ((rAt sSlot).watch 0).enrolled 5 = none ∧ ((rAt (enr sSlot 0)).watch 0).enrolled 5 = some 1 := ⟨performs_of (by decide), by decide, rfl, by decide⟩
/-- One request at its home. -/
def sReq (o : AtOp) (pa n : Nat) (b : Word) (keep : Option Nat) (board : Bool) (f : State → State) : State :=
  let s := f (w0 (sMem (2 ^ 38)) fun w => { w with img := { w.img with waits := [(40, some .at)] }, kenr := w.kenr.set 1 ⟨true, 5, 3, 0, [(3, 7)]⟩ })
  { s with atomq := [⟨40, 0, 1, 0x100, o, 0x8000000008, pa, n, b, 9, 0, keep, if o = .recon then some 3 else none, board, false⟩], slices := [(0, ⟨[(2 ^ 24, SliceLine.fresh)], [], [], []⟩)] }
def two (s : State) : State := { s with cells := [(2 ^ 30 + 8, [⟨0x11, 3, 2, false, false, none⟩, ⟨0x22, 4, 2, false, false, none⟩])] }
def bank0 (m : Nat) (l : Bool) (s : State) : State := s.onBank 0 0 fun b => { b with mode := m, locked := l }
/-- A request at its home: of a line that its slice holds, at a bank; and one whose line is absent, recorded. -/
theorem wit_AtomicApply_home : Performed1 (sReq .aadd (2 ^ 30 + 8) 8 5 none false id) ⟨40, 0, 1, 0x100, .aadd, 0x8000000008, 2 ^ 30 + 8, 8, 5, 9, 0, none, none, false, false⟩ ∧
    Performed1 (sReq .aadd (storeAddr 0 8) 8 5 none true (bank0 1 false)) ⟨40, 0, 1, 0x100, .aadd, 0x8000000008, storeAddr 0 8, 8, 5, 9, 0, none, none, true, false⟩ :=
  ⟨⟨rfl, by decide, by decide⟩, rfl, by decide, by intro x hx; cases hx⟩
def sAbsent : State := { sReq .aadd (2 ^ 30 + 8) 8 5 none false id with slices := [] }
theorem wit_AtomicApply_miss : sAbsent.behindRetrain (2 ^ 30 + 8) = false ∧ (sAbsent.recordMiss ((2 ^ 30 + 8) / 64) false (.atomic 40)).1 = true := by decide +kernel
theorem wit_AtomicApply : (sReq .aadd (2 ^ 30 + 8) 8 5 none false id).atomq[0]?.isSome = true ∧ ((sReq .aadd (2 ^ 30 + 8) 8 5 none false id).watch 0).img.holds 40 = true ∧
    (sReq .aadd (2 ^ 50) 8 5 none false id).cutOff (2 ^ 50) = true ∧ (sReq .aadd (2 ^ 30 + 8) 8 5 none false id).poisoned (2 ^ 30 + 8) 8 = false ∧
    (sReq .aadd (2 ^ 30 + 8) 8 5 none false fun s => { s with ecc := [2 ^ 30 + 15] }).poisoned (2 ^ 30 + 8) 8 = true ∧
    (sReq .aadd (2 ^ 30 + 8) 8 5 none false fun s => { s with ecc := [2 ^ 30 + 15] }).cutOff (2 ^ 30 + 8) = false ∧ atPlain .aadd = true ∧
    (∀ c ∈ (cellsOf (2 ^ 30 + 8) 8).map (sReq .aadd (2 ^ 30 + 8) 8 5 (some 5) false id).cellVals, c.length ≤ 1) ∧
    (∃ c ∈ (cellsOf (2 ^ 30 + 8) 8).map (sReq .aadd (2 ^ 30 + 8) 8 5 (some 5) false two).cellVals, 1 < c.length) ∧
    ((sReq .aadd (storeAddr 0 8) 8 5 none true (bank0 1 false)).boardAt 0).bank 0 = { Bank.fresh with mode := 1 } := by decide
theorem wit_AtomicApply_recon : ((cellsOf (2 ^ 30 + 8) 4).map (sReq .recon (2 ^ 30 + 8) 4 0 (some 5) false two).cellVals).map List.length = [2] ∧
    ((sReq .recon (2 ^ 30 + 8) 4 0 (some 5) false two).watch 0).enrolled 5 = some 1 ∧ ((sReq .recon (2 ^ 30 + 8) 4 0 (some 6) false two).watch 0).enrolled 6 = none ∧
    ((cellsOf (2 ^ 30 + 8) 4).map (sReq .recon (2 ^ 30 + 8) 4 0 (some 5) false id).cellVals).map List.length = [1] ∧
    (ascending ((sReq .ldsib (2 ^ 30 + 8) 4 1 (some 5) false two).cellVals (2 ^ 30 + 8))).reverse.length = 2 ∧
    (sReq .snap (2 ^ 30) 64 0xFE00000000000000 none false (bank0 1 false)).resolve 0 .store 0xFE00000000000000 = .ok (.bank 0 0) :=
  ⟨by decide, by decide, by decide, by decide, by decide, rfl⟩

/-! ### Messages, launches, engines, the tensor table -/

/-- Latches of `ms`, the datum in x1; words at 2^38 + 8. -/
def sMs (a b c d : Word) : State := latches (regs (sMem (2 ^ 38)) [(1, d)]) [(.msA, a), (.msB, b), (.msC, c)]
theorem wit_MessageTriggers : Performs (sMs 5 0x4000000008 0 7) 0 gd .ms ∧ (rAt (sMs 5 0 0 7)).holdsCore 0 5 = true ∧ (rAt (sMs 5 0 0 7)).holdsCore 0 2 = false ∧
    (5 : Word) &&& ~~~0x73FFF = 0 ∧ bits (5 : Word) 18 16 = 0 ∧ bits (0x50005 : Word) 18 16 = 5 ∧ bits (0x60005 : Word) 18 16 = 6 ∧
    (match (rAt (sMs 0x50005 0x4000000008 0 7)).unitLoad 0 0x4000000008 40 with
      | .ok (l, q) => decide (l.length = 40 ∧ q.watch 0 = (rAt (sMs 0x50005 0x4000000008 0 7)).watch 0 ∧ (q.coreAt 0).seq = ((rAt (sMs 0x50005 0x4000000008 0 7)).coreAt 0).seq) && !q.meshFull 0
      | .error _ => false) = true ∧ (rAt (sMs 5 0x4000000008 0 7)).meshFull 0 = false := ⟨performs_of (by decide), by decide +kernel⟩
/-- An object type of two slots of 16 or of 64 bytes, installed. -/
def typed (s : State) (sz : Nat) : State := p0 s fun p => { p with types := [(7, some ⟨0, 0x4000000100, BitVec.ofNat 64 (2 + sz * 64)⟩)] }
def depOk (s : State) : Bool := match (rAt s).typeOf 0 7 with
  | none => false
  | some t => let w := (rAt s).watch 0
    let (a, b, c) := (w.latch .msA, w.latch .msB, w.latch .msC)
    decide (b &&& ~~~0xF3F = 0) && oidOk a && decide (bits b 5 0 < t.slots) && (!b.getLsbD 11 || decide (t.size = 64)) &&
      (rAt s).holdsCore 0 (oidCore a) && decide (c.toNat % (if t.size = 16 then 16 else 32) = 0)
def dep (sz : Nat) (a b c : Word) : State := typed (sMs a b c 7) sz
theorem wit_MessageTriggers_dep : (rAt (sMs 0x1070010 1 0 7)).typeOf 0 (oidType 0x1070010) = none ∧ Performs (dep 0 0x1070010 1 0x4000000010) 0 gd .ms ∧
    oidType 0x1070010 = 7 ∧ depOk (dep 0 0x1070010 1 0x4000000010) = true ∧ depOk (dep 0 0x1070010 2 0x4000000010) = false ∧
    depOk (dep 0 0x1070010 0x301 0x4000000010) = true ∧ depOk (dep 0 0x1070010 0x301 0x4000000001) = false ∧ depOk (dep 0 0x1070010 0x801 0x4000000010) = false ∧ depOk (dep 2 0x1070010 0x801 0x4000000020) = true ∧
    (match (rAt (dep 0 0x1070010 1 0x4000000010)).unitLoad 0 0x4000000010 16 with | .ok (l, _) => l.length | .error _ => 0) = 16 :=
  ⟨by decide, performs_of (by decide), by decide⟩
/-- Launch descriptors: misaligned; one word of zeros, malformed; a well-formed one; a store that is full, and one without an entry below 7. -/
def sDesc (f : State → State) : State := f ((((sMs 0 0 0 0x4000000040).putWord (2 ^ 30 + 64) 0x4000000000).putWord (2 ^ 30 + 64 + 40) 1))
def full256 (n : Nat) (s : State) : State := p0 s fun p => { p with launches := (List.range n).map fun i => (i, aLaunch) }
def descOf (s : State) : Option Bool := match (rAt s).unitLoad 0 0x4000000040 64 with
  | .ok (l, q) => some (Desc.bad (Vector.ofFn fun i => wordAt l i.val) ((q.part? 0).getD Part.fresh))
  | .error _ => none
def usedAt (s : State) (e : Nat) : Bool := (((s.part? 0).getD Part.fresh).launchAt e).used
theorem wit_LaunchTriggers : Performs (sDesc id) 0 gd .ms ∧ ((0x4000000041 : Word).toNat % 64 ≠ 0) ∧ descOf (sMs 0 0 0 0x4000000040) = some true ∧
    descOf (sDesc id) = some false ∧ (List.range 256).all (usedAt (full256 256 (sDesc id))) = true ∧
    (List.range 7).all (usedAt (full256 7 (sDesc id))) = true ∧ usedAt (full256 7 (sDesc id)) 7 = false := ⟨performs_of (by decide), by decide +kernel⟩
/-- `mcast` of the last 64 bytes of the banks, to this board and its neighbour on the right; the board on the left is outside the partition. -/
def sCast (mask d : Word) : State := (sMs 0xFE0000000007FFC0 64 mask d).onBank 0 15 fun b => { b with mode := 1 }
theorem wit_LaunchTriggers_mcast : Performs (sCast 0x100 0x7FFC0) 0 gd .ms ∧ (0xFE0000000007FFC0 : Nat) / 2 ^ 24 = 0xFE00000000 ∧
    (0xFE0000000007FFC0 : Nat) % 2 ^ 24 + 64 ≤ 0x80000 ∧ bits (0x100 : Word) 63 9 = 0 ∧ (0x100 : Word).getLsbD 8 = true ∧
    (rAt (sCast 0x100 0x7FFC0)).reaches 0 0 = true ∧ ((List.range 8).filter fun i => neighbour 0 i = none).length ≠ 0 ∧
    (match (rAt (sCast 0x100 0x7FFC0)).unitLoad 0 0xFE0000000007FFC0 64 with
      | .ok (l, q) => decide (l.length = 64) && !((q.boardAt 0).bank 15).locked && decide (((q.boardAt 0).bank 15).mode = 1)
      | .error _ => false) = true := ⟨performs_of (by decide), by decide⟩

/-- An access answers what is said, as a computation. -/
def okIs {ε α : Type} [DecidableEq α] (x : Except ε α) (a : α) : Bool := match x with
  | .ok b => decide (b = a)
  | .error _ => false
theorem ok_of {ε α : Type} [DecidableEq α] {x : Except ε α} {a : α} (h : okIs x a = true) : x = .ok a := by
  cases x with
  | ok b => simp only [okIs, decide_eq_true_eq] at h; rw [h]
  | error e => cases h

/-- In memory: a group of boards 0 and 1 at +40H; a die's header at +80H and a barrier entry at +C0H; a board's header at +100H (its `done` as
given) and a chain entry at +140H. The latches of `ms` hold `m`, those of `ce` the entry and `h`. -/
def va (off : Nat) : Word := BitVec.ofNat 64 (2 ^ 38 + off)
def sEng (m h d : Word) (done : Word := 0) : State :=
  let s := latches (regs S0 [(1, d)]) [(.msA, m), (.ceA, va 0x140), (.ceB, h)]
  [(0x40, 0x201), (0x48, 0x400), (0x78, va 0x80), (0x98, 0x10000), (0xC0, 0x1300000000000000), (0x100, done), (0x140, 0x0A00000000000000)].foldl
    (fun s e => s.putWord (2 ^ 30 + e.1) e.2) s
def grouped (s : State) : State := p0 s fun p => { p with groups := [(3, some ⟨va 0x80, 1, [0, 1]⟩)] }
def anEntry : ChEntry := ⟨va 0x140, 1, (.replicate 6 0 : Vector Word 6).set 0 0x0A00000000000000, none, none, .captured, 0, 0, 0, false, 0, none, 0⟩
def chain (e n : Nat) (h : Word) (g : Option Nat) (s : State) : State := { s with chains := [⟨h, 0, e, 0, n, 0, .replicate n anEntry, g, false⟩] }
def grpWith (d : Word) (s : State) : Nat := match (rAt s).unitLoad 0 (2 ^ 38 + 0x40) 64 with
  | .error _ => 0
  | .ok (l, q) => if q.groupOf 0 (wordAt l) = none ∨ 16 ≤ d.toNat ∨ (wordAt l 7).toNat % 64 ≠ 0 then 1 else if q.groupBusy 0 d.toNat then 2
    else if (q.engPut 0 0 false (wordAt l 7).toNat (leBytes 24 0 ++ leBytes 8 (2 ^ 16) ++ leBytes 32 0)).1 = 0 then 3 else 0
theorem wit_GroupTriggers : Performs (sEng (va 0x40) 0 3) 0 gd .ms ∧ (va 0x41).toNat % 64 ≠ 0 ∧ grpWith 16 (sEng (va 0x40) 0 3) = 1 ∧
    grpWith 15 (sEng (va 0x40) 0 3) = 3 ∧ grpWith 3 (chain 1024 1 (va 0x80) (some 3) (sEng (va 0x40) 0 3)) = 2 := ⟨performs_of (by decide +kernel), by decide +kernel⟩
def collWith (s : State) (eng : Nat) : Bool := match (rAt s).part? 0 with
  | none => false
  | some p => match p.groups.get none 3 with
    | none => false
    | some g => (rAt s).rankIn g 0 = some 0 && ((rAt s).engWords 0 0 g.header.toNat).isSome && ((rAt s).capture 0 eng (va 0xC0) 0).isSome
theorem wit_GroupTriggers_coll : Performs (grouped (sEng 3 0 (va 0xC0))) 0 gd .ms ∧ collWith (grouped (sEng 3 0 (va 0xC0))) 1024 = true ∧
    (16 ≤ (16 : Word).toNat) ∧ (rAt (grouped (sEng 3 0 (va 0xC0)))).rankIn ⟨0, 1, [1, 2]⟩ 0 = none ∧
    (let s := rAt (chain 1024 64 0 none (grouped (sEng 3 0 (va 0xC0))));
      (s.chains.map fun c => (c.entries.filter fun e => s.engineOf c e = 1024).length).sum) = 64 :=
  ⟨performs_of (by decide +kernel), by decide +kernel⟩
def tailReach (s : State) : State := (rAt s).engReach 0 0 false (2 ^ 38 + 0x100) 64
def tailWith (s : State) (d : Word) : Nat := match (tailReach s).engWords 0 0 (2 ^ 38 + 0x100) with
  | none => 0
  | some hw => if !(tailReach s).reaches 0 (hw 3).toNat then 0 else match (tailReach s).followNext 0 (hw 3).toNat d 256 (va 0x140) with
    | (.error _, _) | (.ok none, _) => 0
    | (.ok (some l), z) => match l.mapM fun v => z.capture 0 (hw 3).toNat v 0 with
      | none => 0
      | some es => es.length + ((z.chains.filter (·.eng = (hw 3).toNat)).map fun c => c.entries.length).sum
theorem wit_ChainTriggers_tail : Performs (sEng 0 (va 0x100) (va 0x140)) 0 gd .ce ∧ (va 0x101).toNat % 64 ≠ 0 ∧
    (∀ x ∈ (chain 0 256 0 none (sEng 0 (va 0x100) (va 0x140))).ceWaits, x.ticket < (sEng 0 (va 0x100) (va 0x140)).ticket) ∧
    (∀ c ∈ (chain 0 256 0 none (sEng 0 (va 0x100) (va 0x140))).chains, c.entries ≠ []) ∧
    (rAt (sEng 0 (va 0x100) (va 0x140))).engWaits 0 0 (va 0x100).toNat = false ∧
    tailWith (sEng 0 (va 0x100) (va 0x140)) (va 0x140) = 1 ∧ tailWith (chain 0 256 0 none (sEng 0 (va 0x100) (va 0x140))) (va 0x140) = 257 :=
  ⟨performs_of (by decide +kernel), by decide +kernel⟩
/-- A `tail` whose last entry is not reached, one of a chain that has been halted, one of a header that names no engine, and one whose header lies
on no page. -/
theorem wit_ChainTriggers_tail_ends : (((tailReach (sEng 0 (va 0x100) (va 0x140))).followNext 0 0 (va 0x180) 256 (va 0x140)).1 matches .ok none) = true ∧
    (((tailReach (chain 0 1 (va 0x100) none (sEng 0 (va 0x100) (va 0x140)))).openChain 0 0 (va 0x100) fun _ => 0).halted = false) ∧
    (({ tailReach (sEng 0 (va 0x100) (va 0x140)) with chains := [⟨va 0x100, 0, 0, 0, 1, 0, [anEntry], none, true⟩] } : State).openChain 0 0 (va 0x100) fun _ => 0).halted = true ∧
    ((tailReach (sEng 0 (va 0x80) (va 0x140))).engWords 0 0 (va 0x80).toNat).map (fun hw => decide (1024 ≤ (hw 3).toNat)) = some true ∧
    ((rAt (sEng 0 64 (va 0x140))).engReach 0 0 false 64 64).engWords 0 0 64 = none := by decide +kernel
/-- `seq`, `wseq` (its number reached, and not) and `halt` of a header in memory: no entry left; one that has not started; marked as a die's. -/
def sSeq (d : Word) (f : State → State) : State := f (latches (sEng 0 0 d 5) [(.ceA, va 0x100)])
theorem wit_ChainTriggers_seq : Performs (sSeq (va 0x100) id) 0 gd .ce ∧
    (rAt (sSeq (va 0x100) id)).resolveAll 0 .load (va 0x100).toNat 8 = .ok [(.mem (2 ^ 30 + 0x100) plainLeaf, (va 0x100).toNat, 0, 8)] ∧ pteType plainLeaf ≠ 1 ∧
    (rAt (sSeq (va 0x100) id)).poisoned (2 ^ 30 + 0x100) 8 = false ∧ (rAt (sSeq 5 id)).homeNat (2 ^ 30 + 0x100) 8 = 5 ∧
    ((rAt (sSeq (va 0x100) id)).engWords 0 0 (va 0x100).toNat).map (fun hw => (hw 3).getLsbD 16) = some false ∧
    ((rAt (sSeq (va 0x80) id)).engWords 0 0 (va 0x80).toNat).map (fun hw => (hw 3).getLsbD 16) = some true ∧
    (rAt (sSeq (va 0x100) id)).chain? 0 (va 0x100) = none ∧ ((rAt (sSeq (va 0x100) (chain 0 1 (va 0x100) none))).chain? 0 (va 0x100)).isSome = true :=
  ⟨performs_of (by decide +kernel), ok_of (by decide +kernel), by decide +kernel⟩
def paired (f : Option Flip) (s : State) : State := p0 s fun p => { p with pairs := [(3, ⟨va 0x10000, 0x10000, 2 ^ 31, 2 ^ 32, f⟩)] }
def aPair : Pair := ⟨va 0x10000, 0x10000, 2 ^ 31, 2 ^ 32, none⟩
def night (s : State) : State :=
  { s with chains := [⟨0, 0, 0, 0, 1, 0, [{ anEntry with st := .running, words := #v[0x0108000000000000, 0, 0, va 0x1FFFF, 1, 0] }], none, false⟩] }
theorem wit_ChainTriggers_pub : bits (0x43 : Word) 5 0 = 3 ∧ (rAt (sSeq 0 id)).pair? 0 3 = none ∧
    (rAt (sSeq 0 (paired none))).pair? 0 3 = some aPair ∧ (rAt (sSeq 0 (paired (some ⟨9, 0, 0, 0⟩)))).pair? 0 3 = some { aPair with flip := some ⟨9, 0, 0, 0⟩ } ∧
    (rAt (sSeq 0 fun s => night (paired none s))).nightBusy 0 aPair none = true ∧ (rAt (sSeq 0 (paired none))).nightBusy 0 aPair none = false := by decide +kernel

/-! ### The tensor table and CSRs by number -/

/-- A header of 8-bit elements, one dimension of 4, at +40H, and a table whose entry 1,023 holds it, or whose every entry does. -/
def hdr1 : Header := BitVec.ofNat 512 (0x4A4C5444 + 2 ^ 32 + 2 ^ 38 * 2 ^ 64 + 1 * 2 ^ 192 + 4 * 2 ^ 224 + 8 * 2 ^ 352)
def sTb (d a b : Word) (f : State → State) : State := f ((latches (regs S0 [(1, d)]) [(.tbA, a), (.tbB, b)]).putNat (2 ^ 30 + 0x40) 64 hdr1.toNat)
def bound (l : List Nat) (s : State) : State := p0 s fun p => { p with tensors := l.map fun i => (i, some hdr1) }
def tbWith (s : State) : Bool := match (rAt s).unitLoad 0 (2 ^ 38 + 0x40) 64 with
  | .error _ => false
  | .ok (l, q) => Header.ok (BitVec.ofNat 512 (leNat l)) && decide (q.tensor? 0 1023 = none)
theorem wit_TableTriggers : Performs (sTb 1023 (va 0x40) 0 id) 0 gd .tb ∧ tbWith (sTb 1023 (va 0x40) 0 id) = true ∧ (1024 ≤ (1024 : Word).toNat) ∧
    (rAt (sTb 1023 (va 0x40) 0 (bound [1023]))).tensor? 0 1023 = some hdr1 ∧ (rAt (sTb 1023 (va 0x40) 0 id)).tensor? 0 1023 = none ∧
    Header.ok (0 : BitVec 512) = false ∧ (Header.setField hdr1 26 1 255).ok = true ∧ (Header.setField hdr1 16 8 4).ok = false ∧
    (rAt (sTb 1023 (va 0x40) 0 (bound [1023]))).resolveAll 0 .store (va 0x40).toNat 64 = .ok 
      [(.mem (2 ^ 30 + 0x40) plainLeaf, (va 0x40).toNat, 0, 32), (.mem (2 ^ 30 + 0x60) plainLeaf, (va 0x60).toNat, 32, 32)] ∧
    (rAt (sTb 1023 (va 0x40) 0 (bound [1023]))).cutOff (2 ^ 30 + 0x40) = false :=
  ⟨performs_of (by decide +kernel), by decide +kernel, by decide +kernel, by decide +kernel, by decide +kernel, by decide +kernel, by decide +kernel, by decide +kernel, ok_of (by decide +kernel), by decide +kernel⟩
theorem get_map {α : Type} (h : α) (l : List Nat) (j : Nat) (hj : j ∈ l) : Tbl.get none (l.map fun i => (i, some h)) j = some h := by
  induction l with
  | nil => cases hj
  | cons a t ih =>
    simp only [List.map_cons, Tbl.get]
    split
    · rfl
    · rename_i hn
      rcases List.mem_cons.1 hj with rfl | hj
      · simp at hn
      · exact ih hj
theorem wit_TableTriggers_full (j : Nat) (hj : j < 1024) :
    ((rAt (sTb (BitVec.allOnes 64) (va 0x40) 0 (bound (List.range 1024)))).tensor? 0 (BitVec.ofNat 64 j)).isSome = true := by
  have h : ∀ s : State, (s.part? (s.watch 0).part).map (·.tensors) = some ((List.range 1024).map fun i => (i, some hdr1)) →
      (s.tensor? 0 (BitVec.ofNat 64 j)).isSome = true := by
    intro s hs
    have e : (BitVec.ofNat 64 j).toNat = j := by simp; omega
    cases hp : s.part? (s.watch 0).part with
    | none => rw [hp] at hs; cases hs
    | some p =>
      rw [hp, Option.map_some, Option.some.injEq] at hs
      simp only [State.tensor?, hp, e, hj, if_true, hs]
      rw [get_map _ _ _ (List.mem_range.2 hj)]; rfl
  exact h _ (by decide +kernel)
/-- Number 511, which is not assigned, one that only a handler writes, in user mode and in a handler, and one that any may. -/
def sSy (n : Word) (h : Bool) : State := w0 (regs S0 [(1, n)]) fun w => { w with hm := h }
theorem wit_TableTriggers_csr : Performs (sSy 0x103 false) 0 gd .sy ∧ Performs (sSy 0x103 true) 0 gd .sy ∧ (rAt (sSy 511 false)).csr? 0 511 = none ∧
    ((rAt (sSy 0x103 false)).csr? 0 0x103).isSome = true ∧ ((rAt (sSy 0x103 true)).watch 0).hm = true ∧ ((rAt (sSy 0x103 false)).watch 0).hm = false :=
  ⟨performs_of (by decide +kernel), performs_of (by decide +kernel), by decide +kernel⟩
/-- `done` of the header is read as an acquire, before the word waits and once it does; no link holds it; a chain that has been halted. -/
def doneIs (s : State) : Bool := match s.readDone 0 (va 0x100) with
  | .ok (v, _) => decide (v = 5)
  | .error _ => false
theorem wit_ChainTriggers_done : doneIs (rAt (sSeq (va 0x100) id)) = true ∧
    doneIs (({ rAt (sSeq (va 0x100) id) with ticket := 1 }).onWatch 0 fun w => { w with ord := w.ord + 1, img := w.img.await 0 (some .ce) }) = true ∧
    ((rAt (sSeq (va 0x100) id)).drainOver 0 (2 ^ 30 + 0x100) 8).inMiss (2 ^ 24 + 4) = false ∧ (rAt (sSeq (va 0x100) id)).behindRetrain (2 ^ 30 + 0x100) = false ∧
    (rAt (sSeq (va 0x100) id)).engWaits 0 0 (va 0x100).toNat = false ∧
    ({ rAt (sSeq 0 id) with chains := [⟨va 0x100, 0, 0, 0, 1, 0, [anEntry], none, true⟩] } : State).chains.any (fun c => c.halted) = true := by decide +kernel

/-! ### Markers, results that land, tasks, gangs -/

def calm (w : Watch) : Bool := decide (w.fst &&& 0x3F0000 = 0) && decide (w.fpTrap = none) && decide (w.img.faults = []) && (w.loads ++ w.img.regs).all fun l => match l.reg with
  | .f _ _ => false
  | _ => true
theorem calm_of {w : Watch} (h : calm w = true) : Calm w := by
  simp only [calm, Bool.and_eq_true, decide_eq_true_eq, List.all_eq_true] at h
  have hr : ∀ l ∈ w.loads ++ w.img.regs, ∀ r d, l.reg ≠ .f r d := fun l hl r d e => by
    have := h.2 l hl
    rw [e] at this
    cases this
  exact ⟨h.1.1.1, h.1.1.2, h.1.2, fun l hl => hr l (List.mem_append_left _ hl), fun l hl => hr l (List.mem_append_right _ hl)⟩
def released (s : State) (k : Nat) (a : After) : Bool :=
  decide (subjectOf s = k) && decide (s.ceWaits = []) && decide ((s.watch k).gang = none) && decide (s.live (s.watch k).part = true) &&
    decide ((s.coreAt (k / 4)).gated = false) && decide ((s.watch k).settled = true) && decide ((s.watch k).after = a)
theorem released_of {s : State} {k : Nat} {a : After} (h : released s k a = true) : Released s k a := by
  simp only [released, Bool.and_eq_true, decide_eq_true_eq] at h
  exact ⟨h.1.1.1.1.1.1, h.1.1.1.1.1.2, h.1.1.1.1.2, h.1.1.1.2, h.1.1.2, h.1.2, h.2⟩
/-- Watch 0 parked, with two results of `ms` and one of `ls`, to go on as said; and one that still waits. -/
def parkRes : List ParkRes := [⟨0, .ms, 7, 0, 0, 0⟩, ⟨2, .ls, 9, 12, 0, 0⟩, ⟨1, .ms, 8, 1, 0, 0⟩]
def sParked (a : After) (f : Watch → Watch) : State :=
  w0 S0 fun w => f { w with st := .parked, after := a, img := { w.img with results := parkRes, latch := .replicate 28 1 } }
theorem wit_MarkerRelease : ((sParked .marker fun w => { w with img := { w.img with waits := [(3, none)] } }).watch 0).settled = false := by decide
theorem wit_MarkerRelease_marker : ∀ n ∈ [0, 5], Released (sParked .marker fun w => { w with pauseCnt := n }) 0 .marker ∧
    Calm ((sParked .marker fun w => { w with pauseCnt := n }).watch 0) ∧ ((sParked .marker fun w => { w with pauseCnt := n }).watch 0).cancelled = false ∧
    (parkRes.map (·.ord)).Nodup ∧ ∀ r ∈ parkRes, 7 ≤ unitNo r.unit := by
  intro n hn
  simp only [List.mem_cons, List.not_mem_nil, or_false] at hn
  rcases hn with rfl | rfl <;> exact ⟨released_of (by decide), calm_of (by decide), by decide⟩
def sTret : State := sParked .tret fun w => { w with hm := true, saved := some { Image.fresh with slot := 3 }, tnext := 0x4000000100, img := Image.fresh }
theorem wit_MarkerRelease_tret : Released sTret 0 .tret ∧ Calm (sTret.watch 0) ∧ (sTret.watch 0).abn = false ∧ (sTret.watch 0).marker = false ∧
    (sTret.watch 0).savedAfter = .marker ∧ (sTret.watch 0).faultsDue = false ∧ (sTret.watch 0).img.csrs = [] := ⟨released_of (by decide), calm_of (by decide), by decide⟩
/-- Paused to the present cycle, and to the next. -/
def sPaused (n : Nat) : State := w0 S0 fun w => { w with st := .paused, pauseEnd := S0.cycles + n }
theorem wit_MarkerRelease_pause : subjectOf (sPaused 0) = 0 ∧ (S0.watch 0).gang = none ∧ ((sPaused 0).watch 0).pauseEnd ≤ (sPaused 0).cycles ∧
    (sPaused 1).cycles < ((sPaused 1).watch 0).pauseEnd ∧ ((sPaused 0).watch 0).st = .paused ∧ (sPaused 0).live ((sPaused 0).watch 0).part = true := by decide
def aFlight (u : FUnit) (due : Nat) : Flight := ⟨due, u, 5, 6, none, none, 0, 0, 0⟩
def sFlying (u : FUnit) (due : Nat) : State := w0 S0 fun w => { w with st := .issuing, img := { w.img with slot := 4, flights := [aFlight u due] } }
theorem wit_Landings : subjectOf (sFlying .sf 4) = 0 ∧ ((sFlying .sf 4).watch 0).st = .issuing ∧ ((sFlying .sf 4).watch 0).fpTrap = none ∧ unitNo .sf < 5 ∧
    (aFlight .sf 4).due ≤ ((sFlying .va 4).watch 0).img.slot ∧ ((sFlying .va 5).watch 0).img.slot < (aFlight .va 5).due ∧ ((sFlying .va 4).watch 0).gang = none := by decide
def aLoad (r : LReg) (need : Nat) : PLoad := ⟨2, r, 0x80, 1, true, 0, need, 0xFFFFFFFF, 0, 0⟩
def sLoading (r : LReg) (need : Nat) : State := w0 S0 fun w => { w with loads := [⟨5, .x 9, 0, 8, false, 0, 1, 0xFFFFFFFF, 0, 0⟩, aLoad r need] }
def atC (n : Nat) (s : State) : State := { s with opnd := { s.opnd with c := n } }
theorem wit_Landings_loads : ((atC 1 (sLoading (.x 3) 0)).watch 0).loads[(atC 1 (sLoading (.x 3) 0)).opnd.c]? = some (aLoad (.x 3) 0) ∧ (aLoad (.x 3) 1).need ≠ 0 ∧
    ((atC 1 (sLoading (.v 3) 0)).watch 0).loads[1]? = some (aLoad (.v 3) 0) ∧ (S0.watch 0).img.flights = [] ∧
    (∀ q ∈ ((sLoading (.x 3) 0).watch 0).loads, q = aLoad (.x 3) 0 ∨ (aLoad (.x 3) 0).ord ≤ q.ord) := by decide
/-- A line that is not in the fetch buffer, and is in memory; one that cannot be fetched; one that is in the buffer. -/
def sFetch (pc : Word) (l : List FetchLine) : State := c0 (w0 S0 fun w => { w with pc := pc }) fun c => { c with fetch := l }
def fetchIs (s : State) : Bool := match s.fetchLine 0 ((s.watch 0).pc.toNat + 64 * (s.opnd.c % 2)) with
  | .ok _ => true
  | .error _ => false
theorem wit_Landings_fetch : (sFetch 0x4000000000 []).buffered 0 (2 ^ 38) = none ∧ fetchIs (sFetch 0x4000000000 []) = true ∧ fetchIs (sFetch 64 []) = false ∧
    (sFetch 64 []).buffered 0 64 = none ∧ ((sFetch 0x4000000000 [⟨2 ^ 32, []⟩]).buffered 0 (2 ^ 38)).isSome = true := by decide
def sPass (p last n : Nat) : State := w0 S0 fun w => { w with passDue := some p, img := { w.img with loops := [⟨BitVec.ofNat 64 n, 0x4000000000, BitVec.ofNat 64 last, 0x4000000010⟩] } }
theorem wit_Landings_loop : ((sPass 12 12 1).watch 0).passDue = some 12 ∧ ((sPass 12 12 1).watch 0).img.loops = [⟨1, 0x4000000000, 12, 0x4000000010⟩] ∧
    ((sPass 12 14 2).watch 0).img.loops = [⟨2, 0x4000000000, 14, 0x4000000010⟩] ∧ ((sPass 12 12 2).watch 0).gang = none := by decide

def aTask : Task := ⟨.task, 1, 1, 0, 0, 0, 0x4000000040, #v[1, 2, 3, 4], 0, 0, 0, 0, 0⟩
/-- A launch with one cursor to place; core 0's slots but the last taken; a core with a free watch 1 and an entry queued, or running ones. -/
def sIndex : State := (p0 { S0 with opnd := { S0.opnd with b := 7 } } fun p => { p with launches := p.launches.set 7 { aLaunch with toPlace := [(0, 0, 1, 2)] } }).onCore 0
  fun c => { c with slots := (List.range 63).map fun i => (i, .running aTask) }
theorem wit_Dispatch : (sIndex.part? sIndex.opnd.a).isSome = true ∧ sIndex.opnd.c ≠ 1 ∧ sIndex.live sIndex.opnd.a = true ∧ sIndex.slotFor 0 = some 63 ∧
    ((((sIndex.part? 0).getD Part.fresh).launchAt 7).toPlace.find? fun e => (sIndex.slotFor e.1).isSome) = some (0, 0, 1, 2) := by decide
def sReady (k : EKind) : State := c0 S0 fun c => { c with slots := [(5, .queued { aTask with kind := k }), (63, .queued { aTask with kind := k, cls := 3 })] }
theorem wit_Dispatch_task : (((sReady .task).coreAt 0).watch 1).st = .free ∧ (((sReady .task).coreAt 0).watch 1).readyAt = none ∧
    (((sReady .task).coreAt 0).watch 0).st ≠ .free ∧ (sReady .task).chosen 0 = some (63, { aTask with cls := 3 }) ∧
    (sReady .index).chosen 0 = some (63, { aTask with kind := .index, cls := 3 }) ∧
    ((sReady .task).coreAt 0).slot 63 = .queued { aTask with cls := 3 } ∧ EKind.task ≠ .wake ∧ (sReady .task).live aTask.part = true ∧ ((sReady .task).coreAt 0).gated = false := by decide
def sSoon (n : Nat) : State := w0 S0 fun w => { w with st := .free, readyAt := some (S0.cycles + n) }
theorem wit_Dispatch_ready : ((sSoon 0).watch 0).readyAt = some (sSoon 0).cycles ∧ ((sSoon 1).watch 0).readyAt = some ((sSoon 1).cycles + 1) ∧
    (sSoon 0).live ((sSoon 0).watch 0).part = true ∧ ((sSoon 0).watch 0).gang = none := by decide
def atB (n : Nat) (s : State) : State := { s with opnd := { s.opnd with b := n } }
theorem wit_Dispatch_aging : ((atB 63 (sReady .task)).coreAt (atB 63 (sReady .task)).opnd.a).slot 63 = .queued { aTask with cls := 3 } ∧
    ((atB 5 (sReady .task)).coreAt 0).slot 5 = .queued aTask := by decide
/-- A watch that ends its task, in slot 5, as said. -/
def sEnd (a : After) : State := c0 (w0 (sParked a fun w => { w with img := Image.fresh }) fun w => { w with slotNo := 5, launch := 7 }) fun c =>
  { c with slots := [(5, .running { aTask with launch := 7 })] }
theorem wit_TaskEnd (a : After) (h : a = .done ∨ a = .idle ∨ a = .reque) : Released (sEnd a) 0 a ∧ Calm ((sEnd a).watch 0) ∧
    ((sEnd a).coreAt 0).slot ((sEnd a).watch 0).slotNo = .running { aTask with launch := 7 } ∧ ((sEnd a).part? ((sEnd a).watch 0).part).isSome = true ∧
    ((sEnd a).watch 0).part = aTask.part ∧ ((sEnd a).watch 0).launch = 7 ∧ ((sEnd a).watch 0).claim = 0 ∧
    (((sEnd a).watch 0).pins = [] ∧ ((sEnd a).watch 0).taken = [] ∧ ((sEnd a).watch 0).appended = [] ∧ ((sEnd a).watch 0).path = [] ∧
      (((sEnd a).watch 0).saved.map (·.waits)).getD [] = []) ∧ ((sEnd a).watch 0).cancelled = false ∧
    ((sEnd a).watch 0).abn = false ∧ (sEnd a).noticed 0 0 7 aTask.gen = false := by
  rcases h with rfl | rfl | rfl <;> exact ⟨released_of (by decide), calm_of (by decide), by decide⟩
theorem wit_Quiet (a : After) : Quiet (sEnd a) 0 := ⟨⟨rfl, rfl, by intro e he; cases he⟩, by cases a <;> decide, rfl, rfl, rfl⟩
/-- After `idle` the interrupted task's load waits. -/
theorem wit_TaskEnd_waits : ((((sEnd .idle).onWatch 0 fun w => { w with saved := some { Image.fresh with waits := [(3, none)] } }).watch 0).saved.map (·.waits)).getD [] ≠ [] ∧
    Released ((sEnd .idle).onWatch 0 fun w => { w with saved := some { Image.fresh with waits := [(3, none)] } }) 0 .idle := ⟨by decide, released_of (by decide)⟩
/-- The leader of a claim of two cores, with a follower on the next; the two as a gang at its end. -/
def sClaim : State :=
  (((w0 S0 fun w => { w with st := .parked, after := .glead, claim := 2 }).onWatch 5 fun w => { w with st := .parked, after := .gfollow }).onCore 0
    fun c => { c with claims := [0] }).onCore 1 fun c => { c with claims := [0], follows := [5] }
theorem wit_Gangs : (sClaim.watch 0).settled = true ∧ (sClaim.watch 0).after = .glead ∧ (sClaim.watch 0).gang = none ∧ (sClaim.watch 0).cancelled = false ∧
    sClaim.live (sClaim.watch 0).part = true ∧ posOf 0 + (sClaim.watch 0).claim ≤ 32 ∧
    (∀ c ∈ [0, 1], (sClaim.coreAt c).claims.head? = some 0 ∧ (sClaim.coreAt c).gated = false ∧ ∀ i, i < 4 → (sClaim.watch (c * 4 + i)).gang = none) ∧
    ((List.range 2).map fun i => rodCore (rodOf 0) (posOf 0 + i)) = [0, 1] ∧ [0, 1].mapM (sClaim.recruit 0) = some [0, 5] ∧
    (∀ j ∈ [0, 5], calm (sClaim.watch j) = true ∧ (sClaim.watch j).pauseCnt = 0) := by decide
def sGend : State := [0, 5].foldl (fun s k => s.onWatch k fun w => { w with st := .parked, after := .gend, gang := some 0, gs := 2, gp := k / 4 }) S0
theorem wit_Gangs_end : subjectOf sGend = 0 ∧ sGend.ceWaits = [] ∧ sGend.members 0 = [0, 5] ∧ sGend.live (sGend.watch 0).part = true ∧ (sGend.watch 0).after = .gend ∧
    (∀ j ∈ [0, 5], (sGend.watch j).settled = true ∧ calm (sGend.watch j) = true ∧ (sGend.watch j).gang = some 0 ∧ (sGend.watch j).pauseCnt = 0 ∧
      (sGend.watch j).cancelled = false ∧ (sGend.coreAt (j / 4)).gated = false) := by decide
def sAsks (st : WSt) (lend : Nat) (n : Nat) : State :=
  (w0 S0 fun w => { w with nbr := some ⟨S0.cycles, 1, 2, 3, false⟩, nbt := BitVec.ofNat 16 n, img := { w.img with flights := [aFlight .vx 9] } }).onWatch 6 fun w =>
    { w with st := st, nlend := BitVec.ofNat 16 lend }
theorem wit_Gangs_neighbour : ((sAsks .ready 8 0).watch 0).nbr = some ⟨S0.cycles, 1, 2, 3, false⟩ ∧ ((sAsks .ready 8 0).watch 0).img.flights = [] ++ [aFlight .vx 9] ∧ 1 * 4 + 2 = 6 ∧ ((sAsks .ready 8 0).watch 6).nlend.getLsbD 3 = true ∧
    ((sAsks .ready 8 0).watch 6).st = .ready ∧ ((sAsks .parked 8 0).watch 6).st = .parked ∧ ((sAsks .ready 4 0).watch 6).nlend.getLsbD 3 = false ∧
    (sAsks .ready 8 0).cycles = S0.cycles + ((sAsks .ready 8 0).watch 0).nbt.toNat ∧ (sAsks .ready 8 1).cycles < S0.cycles + ((sAsks .ready 8 1).watch 0).nbt.toNat ∧
    S0.cycles + ((sAsks .ready 8 0).watch 0).nbt.toNat < ({ sAsks .ready 8 0 with cycles := S0.cycles + 1 } : State).cycles ∧
    (sAsks .ready 8 0).live ((sAsks .ready 8 0).watch 0).part = true := by decide
theorem wit_Dispatch_chosen : (5, .queued aTask) ∈ ((sReady .task).coreAt 0).slots ∧ (sReady .task).eligible 0 (.queued aTask) = some aTask := by decide

/-! ### Messages on arrival, memory on its way, banks, keeping memory -/

/-- A message of a kind from core 5 to core 2 of the watch 0, which awaits its status, and the machine with it at the head of the messages:
its core's slots free from `n` on, a partition whose overflow area has room for `ovf`, and messages in it. -/
def aMsg (kind dst since : Nat) : Msg := ⟨9, #v[msgHeader 4 0 0 0 1 7 2 1 kind 5 dst, 0x1070010, 1, 2, 3, 4, 5, 6], 0, 7, 3, 0, 2, boardOf 2, since⟩
def waiting (u : FUnit) (s : State) : State := w0 s fun w => { w with img := { w.img with waits := [(9, some u)] } }
def sMsg (n ovf : Nat) (held : List Msg) (m : Msg) : State :=
  let s := waiting .ms { S0 with msgs := [m], wakes := [m], cycles := 5000 }
  ((p0 s fun p => { p with ovf := ovf }).onCore 2 fun c => { c with slots := (List.range n).map fun i => (i, .running aTask) }).onBoard (boardOf 2)
    fun b => { b with overflow := held }
/-- Messages that have come to their routers stay there. -/
theorem wit_mesh : (sMsg 63 1 [] (aMsg 1 2 0)).mesh = sMsg 63 1 [] (aMsg 1 2 0) := by decide +kernel
theorem wit_Arrivals : Arrives (sMsg 63 1 [] (aMsg 1 2 0)) (sMsg 63 1 [] (aMsg 1 2 0)).msgs (aMsg 1 2 0) ∧ (aMsg 3 2 0).kind < 4 ∧ (aMsg 3 2 0).dcore = 2 ∧
    ((sMsg 63 1 [] (aMsg 1 2 0)).watch 0).img.holds 9 = true ∧ ((sMsg 63 1 [] (aMsg 1 2 0)).coreAt 2).freeSlot = some 63 ∧
    ((sMsg 64 1 [] (aMsg 1 2 0)).coreAt 2).freeSlot = none ∧ (sMsg 64 1 [] (aMsg 1 2 0)).overflowRoom (aMsg 1 2 0) = true ∧
    (sMsg 64 0 [] (aMsg 1 2 0)).overflowRoom (aMsg 1 2 0) = false ∧ (aMsg 1 2 3976).since + 1024 ≤ 5000 ∧ ¬((aMsg 1 2 3977).since + 1024 ≤ 5000) ∧
    (sMsg 63 1 [aMsg 1 2 0] (aMsg 1 2 0)).overflowRoom (aMsg 1 2 0) = false :=
  ⟨⟨by decide, by decide, by decide, by decide, by decide⟩, by decide⟩
theorem wit_Arrivals_later : ((({ sMsg 63 1 [aMsg 1 2 0] (aMsg 1 2 0) with opnd := { S0.opnd with a := 2 } }).boardAt (boardOf 2)).overflow.find? (·.dcore = 2)) = some (aMsg 1 2 0) ∧
    (sMsg 63 0 [] (aMsg 5 2 0)).wakes[(S0.opnd.a)]? = some (aMsg 5 2 0) ∧ (sMsg 64 0 [] (aMsg 5 2 0)).overflowRoom (aMsg 5 2 0) = false ∧
    (sMsg 63 0 [] (aMsg 5 2 0)).live (aMsg 5 2 0).part = true := by decide
/-- A deposit into slot 1 of an object of two slots at 400H of its board's store, in unlocked PAD banks, its record as given. -/
def aDep (kind aux : Nat) : Msg := { aMsg 4 2 0 with words := #v[msgHeader 4 aux 0 kind 1 7 2 1 4 5 2, 0x1070010, 1, 2, 3, 4, 5, 6] }
def sDep (kind aux sz : Nat) (rec0 : Word) (f : State → State) : State :=
  f ((typed (waiting .ms { S0 with deposits := [aDep kind aux] }) sz).onBank (oidBoard 0x1070010) 0 (fun b => { b with mode := 1 }) |>.putWord
    (storeAddr (oidBoard 0x1070010) (oidOff 0x1070010)) rec0)
def hold (s : State) : State := { s with snaps := [⟨0, 0, 0, 0, [0x1070010], 0, 0, 0, true, []⟩] }
def aType (sz : Nat) : TypeEnt := ⟨0, 0x4000000100, BitVec.ofNat 64 (2 + sz * 64)⟩
theorem wit_Deposits : (sDep 0 0 0 0 id).deposits[0]? = some (aDep 0 0) ∧ (sDep 0 0 0 0 id).live 0 = true ∧ (sDep 0 0 0 0 id).windowDue 0 = false ∧
    ((sDep 0 0 0 0 id).watch 0).img.holds 9 = true ∧ (aDep 0 0).kind = 4 ∧ (sDep 0 0 0 0 hold).holding 0 0x1070010 = true ∧
    (sDep 0 0 0 0 id).holding 0 0x1070010 = false ∧ (sDep 0 0 0 0 fun s => p0 s fun p => { p with types := [] }).typeOf 0 7 = none ∧
    (sDep 0 0 0 0 id).typeOf 0 7 = some (aType 0) ∧ (sDep 0 0 0 0 id).recordOk 0x1070010 (aType 0) = true ∧
    (sDep 0 0 0 0 fun s => s.onBank (oidBoard 0x1070010) 0 fun b => { b with mode := 2 }).recordOk 0x1070010 (aType 0) = false ∧
    ((sDep 0 0 0 0x20000 id).record 0x1070010 0).getLsbD 17 = true ∧ ((sDep 3 1 2 0x10000 id).record 0x1070010 0).getLsbD 17 = false ∧
    (aDep 3 1).slot < (aType 2).slots ∧ (aDep 3 1).wake = false ∧ (aType 2).size = 64 ∧ (aDep 3 1).dkind = 3 ∧ (aDep 0 0).dkind = 0 := by decide
/-- A store of core 0 to two bytes, behind an unapplied one of its core to one of them, and alone; applied everywhere. -/
def aStore (t : Nat) (done : Bool) : StoreFl := ⟨t, 0, [(2 ^ 30, 1), (2 ^ 30 + 1, 2)], done, [], false, none, false, 0, false⟩
def sStores (l : List StoreFl) (i : Nat) : State := { S0 with stores := l, opnd := { S0.opnd with a := i } }
theorem wit_StoresOnTheWay : (((c0 { S0 with opnd := { S0.opnd with b := 7 } } fun c => { c with wcb := [⟨7, [(448, some 1)], 0, 0, false⟩] }).coreAt 0).wcb.find? (·.line = 7)).isSome = true ∧
    (sStores [aStore 3 false, aStore 4 false] 1).stores[1]? = some (aStore 4 false) ∧
    (∃ g ∈ (sStores [aStore 3 false, aStore 4 false] 1).stores.take 1, g.core = 0 ∧ g.applied = false ∧ ∃ x ∈ g.bytes, ∃ y ∈ (aStore 4 false).bytes, x.1 = y.1) ∧
    (∀ g ∈ (sStores [aStore 3 true, aStore 4 false] 1).stores.take 1, g.core = 0 → g.applied = false → ∀ x ∈ g.bytes, ∀ y ∈ (aStore 4 false).bytes, x.1 ≠ y.1) ∧
    (∀ g ∈ (sStores [aStore 3 true, aStore 4 false] 1).stores, g.ticket = 4 → g = aStore 4 false) ∧ (sStores [aStore 3 true, aStore 4 false] 1).linkHeld (aStore 4 false) = false ∧
    ((aStore 4 false).bytes.map Prod.fst).Nodup := by decide
def sUpdate : State := { S0.onBoard 0 fun b => { b with ways := [(2 ^ 24, ⟨3, 0, 0, [], 0xFFFF, 0⟩)] } with
  updates := [⟨5, 0, [(2 ^ 30, 7), (2 ^ 30 + 1, 8)], 0⟩], stores := [⟨9, 1, [(2 ^ 30 + 1, 9)], false, [], false, none, false, 0, false⟩] }
theorem wit_StoresOnTheWay_update : (sUpdate.updates[0]?).isSome = true ∧ ((sUpdate.boardAt 0).way? (2 ^ 24)).isSome = true ∧
    (∃ f ∈ sUpdate.stores, boardOf f.core = 0 ∧ f.applied = false ∧ ∃ x ∈ f.bytes, x.1 = 2 ^ 30 + 1) ∧ (([(2 ^ 30, 7), (2 ^ 30 + 1, 8)] : List (Nat × Byte)).map Prod.fst).Nodup := by decide
theorem wit_StoresOnTheWay_walk : S0.partOf 0 = some 0 ∧ (2 ^ 38 : Nat) < 2 ^ 56 ∧ (S0.walk (2 ^ 38) 4 ((S0.part? 0).getD Part.fresh).root) = some (plainLeaf, 2 ^ 30) := by decide
/-- An access to bank 2 of board 0, which is as given. -/
def sBankq (acc : BankAcc) (b : Bank) (n : Nat) : State :=
  waiting .ls { w0 (S0.onBank 0 2 fun _ => b) fun w => { w with loads := [⟨3, .x 4, 0, 8, false, 0, 1, 0xFFFFFFFF, 0, 0⟩] } with
    bankq := List.replicate n ⟨9, 0, 3, 0, 0xFE0000000001FFF8, 0, 0x17FF8, 0, 8, acc, 0⟩ ++ [⟨9, 0, 3, 0, 0xFE0000000001FFF8, 0, 0x17FF8, 0, 8, acc, 0⟩], opnd := { S0.opnd with a := n } }
theorem wit_BankEvents : (∃ x ∈ (sBankq .load Bank.fresh 1).bankq.take 1, x.watch = 0) ∧ (∀ x ∈ (sBankq .load Bank.fresh 0).bankq.take 0, x.watch ≠ 0) ∧
    ((sBankq .load Bank.fresh 0).watch 0).img.holds 9 = true ∧ ((sBankq .load { Bank.fresh with mode := 1 } 0).boardAt 0).bank (0x17FF8 / 0x8000) = { Bank.fresh with mode := 1 } ∧
    Bank.fresh.locked = false ∧ Bank.fresh.mode = 0 := by decide
def sWaiters (b : Bank) : State := waiting .ls (({ S0 with opnd := { S0.opnd with b := 2 } }).onBank 0 2 fun _ => { b with pushes := [⟨0, 9, 3, 0⟩], takes := [⟨0, 9, 3, 0⟩] })
theorem wit_BankEvents_fifo : ((sWaiters (aFifo .complete .free)).watch 0).img.holds 9 = true ∧
    (((sWaiters (aFifo .complete .free)).boardAt 0).bank 2).pushes = [⟨0, 9, 3, 0⟩] ∧ (aFifo .complete .free).mode = 2 ∧ (aFifo .complete .free).slot (aFifo .complete .free).tail = .free ∧
    (aFifo .complete .free).slot (aFifo .complete .free).head = .complete ∧ (aFifo .free .complete).slot 63 ≠ .free ∧ (aFifo .free .complete).slot 1 ≠ .complete := by decide
def sMode (b : Bank) (m : Nat) (pins : List Nat) : State :=
  waiting .ls ((({ S0 with opnd := { S0.opnd with b := 2 } }).onBank 0 2 fun _ => { b with changes := [⟨m, 0, 0, 9, 3⟩] }).onBoard 0 fun b => { b with ways := [(2 ^ 24, ⟨2, 0, 0, pins, 0xFFFF, 0⟩)] })
theorem wit_BankEvents_mode : (((sMode (aFifo .complete .free) 1 []).boardAt 0).bank 2).slots ≠ [] ∧ (((sMode { Bank.fresh with mode := 2 } 1 []).boardAt 0).bank 2).slots = [] ∧
    (((sMode Bank.fresh 1 []).boardAt 0).bank 2).changes = [⟨1, 0, 0, 9, 3⟩] ∧ (((sMode Bank.fresh 1 []).boardAt 0).bank 2).mode = 0 ∧
    (∃ e ∈ ((sMode Bank.fresh 1 [0]).boardAt 0).ways, e.2.bank = 2 ∧ e.2.pins ≠ []) ∧ (∀ e ∈ ((sMode Bank.fresh 1 []).boardAt 0).ways, e.2.bank = 2 → e.2.pins = []) ∧
    ((sMode Bank.fresh 1 []).watch 0).img.holds 9 = true := by decide
def sPrefetch : State := { S0 with prefetches := [⟨9, 0x4000000038, 8, 0x4000000100, 0, 3⟩] }
theorem wit_BankEvents_prefetch : (sPrefetch.prefetches[0]?).isSome = true ∧ (sPrefetch.part? 0).isSome = true ∧ sPrefetch.translate 0 0 (2 ^ 38) = some (plainLeaf, 2 ^ 30) ∧
    inWindow (2 ^ 38) = false ∧ pteType plainLeaf ≠ 1 ∧ pteType plainLeaf ≠ 4 ∧ (0x4000000038 : Word).toNat % 64 + 8 ≤ 64 ∧
    sPrefetch.walk (0x4000000100 : Word).toNat 4 ((sPrefetch.part? 0).getD Part.fresh).root = some (plainLeaf, 2 ^ 30) := by decide
/-- A stamped store of a cell with `n` values that the writer's clock does not cover, the clock cached at the home or not. -/
def aKeepReq : KeepReq := ⟨9, 0, 3, 0, 0x8000000008, [(2 ^ 30 + 8, 1), (2 ^ 30 + 9, 2), (2 ^ 30 + 10, 3), (2 ^ 30 + 11, 4)], List.replicate 4 0xFF, 0, 5, 3, 8, 0, [(3, 7)], false, false, false, 0, 0, false, 0⟩
def sKeepq (n : Nat) (cached : Bool) (q : KeepReq) : State :=
  let s := waiting .ls { S0 with keepq := [q], cells := [(2 ^ 30 + 8, (List.range n).map fun i => ⟨0x11, 10 + i, 2, false, false, none⟩)], cycles := 5000 }
  if cached then { s with clocks := [⟨s.keepHome (2 ^ 30 + 8), 0, 5, 3, 0, [(3, 7)]⟩] } else s
theorem wit_KeepingStores : (sKeepq 3 true aKeepReq).keepq[0]? = some aKeepReq ∧ ((sKeepq 3 true aKeepReq).watch 0).img.holds 9 = true ∧
    (sKeepq 3 false aKeepReq).homeClock ((sKeepq 3 false aKeepReq).keepHome (2 ^ 30 + 8)) aKeepReq = none ∧
    (sKeepq 3 true aKeepReq).homeClock ((sKeepq 3 true aKeepReq).keepHome (2 ^ 30 + 8)) aKeepReq = some [(3, 7)] ∧
    (((sKeepq 3 true aKeepReq).cellVals (2 ^ 30 + 8)).filter fun v => v.mark = true ∨ Tbl.get 0 [(3, 7)] v.slot < v.cnt).length = 3 ∧
    (((sKeepq 4 true aKeepReq).cellVals (2 ^ 30 + 8)).filter fun v => v.mark = true ∨ Tbl.get 0 [(3, 7)] v.slot < v.cnt).length = 4 ∧
    (sKeepq 3 true aKeepReq).poolUse ((sKeepq 3 true aKeepReq).keepHome (2 ^ 30 + 8)) + 4 ≤ poolSize ((sKeepq 3 true aKeepReq).keepHome (2 ^ 30 + 8)) ∧
    ((sKeepq 3 false aKeepReq).clocks.filter fun c => c.home = (sKeepq 3 false aKeepReq).keepHome (2 ^ 30 + 8)).length < cacheSize ((sKeepq 3 false aKeepReq).keepHome (2 ^ 30 + 8)) := by decide
theorem wit_KeepingStores_retry : (sKeepq 4 true { aKeepReq with due := 5000, tries := 6 }).keepq[0]? = some { aKeepReq with due := 5000, tries := 6 } ∧
    (5000 : Nat) ≤ (sKeepq 4 true aKeepReq).cycles ∧ (sKeepq 4 true aKeepReq).cycles < 5001 ∧ 7 ≤ ({ aKeepReq with due := 5000, tries := 7 } : KeepReq).tries := by decide
/-- The line is held by its slice; or absent, and so recorded. -/
def inSlice (s : State) : State := { s with slices := [(0, ⟨[(2 ^ 24, SliceLine.fresh)], [], [], []⟩)] }
theorem wit_StoresOnTheWay_home : Ready (inSlice (sStores [aStore 4 false] 0)) (2 ^ 24) ∧ (aStore 4 false).atHome = false ∧
    (((sStores [aStore 4 false] 0).recordMiss (2 ^ 24) false (.store 4)).1 = true) ∧ (aStore 4 true).applied = true ∧ (aStore 4 true).sharers = [] :=
  ⟨.inr (by decide), by decide +kernel⟩
theorem wit_KeepingStores_home : Ready (inSlice (sKeepq 3 true aKeepReq)) ((2 ^ 30 + 8) / 64) ∧ aKeepReq.masks = List.replicate 4 0xFF ∧ aKeepReq.attach = false ∧
    aKeepReq.wantPush = false ∧ aKeepReq.due = 0 ∧ ({ aKeepReq with wantPush := true } : KeepReq).wantPush = true ∧ aKeepReq.pushed = false ∧
    (∀ x ∈ (sKeepq 3 true aKeepReq).keepq, x.watch = 0 → x.ticket < 9 → ∀ b ∈ x.bytes, b.1 < 2 ^ 30 + 8 ∨ 2 ^ 30 + 12 ≤ b.1) ∧
    ((sKeepq 3 true aKeepReq).recordMiss ((2 ^ 30 + 8) / 64) true (.keep 9)).1 = true := ⟨.inr (by decide), by decide +kernel⟩
/-- A bank with an error in the bytes read; a store of the board behind a link that retrains, its line in the bank that changes. -/
theorem wit_BankEvents_more : ({ sBankq .load { Bank.fresh with mode := 1 } 0 with ecc := [storeAddr 0 0x17FFB] } : State).errorIn (storeAddr 0 0x17FF8) 8 = true ∧
    (sBankq .load { Bank.fresh with mode := 1 } 0).errorIn (storeAddr 0 0x17FF8) 8 = false ∧
    (let s := ({ sMode Bank.fresh 1 [] with stores := [⟨4, 0, [(2 ^ 50, 1)], false, [], false, none, false, 0, false⟩] }.onBoard 0 fun b =>
        { b with ways := [(2 ^ 44, ⟨2, 0, 0, [], 0xFFFF, 0⟩)] }).onLink 0 fun l => { l with up := true, retrain := some 0 }
     ∃ f ∈ s.stores, boardOf f.core = 0 ∧ f.applied = false ∧ s.linkHeld f = true ∧ ∃ x ∈ f.bytes, ∃ e ∈ (s.boardAt 0).ways, e.2.bank = 2 ∧ e.1 = x.1 / 64) ∧
    ((sMode Bank.fresh 1 []).stores = [] ∧ (sMode Bank.fresh 1 []).updates = [] ∧ ∀ i, i < 4 → ((sMode Bank.fresh 1 []).coreAt (4 * 0 + i)).wcb = []) ∧
    (∀ i, i < 8 → sPrefetch.pageHeld (2 ^ 30 + 0x100 + i) = false) := by decide
theorem wit_Still : Still sPrefetch := ⟨rfl, rfl, by intro e he; cases he⟩

/-! ### Entries of chains, collectives -/

/-- Watch 0's partition with a chain of board 0 whose header is at +100H: entries as given; core 0's board holds the translation of memory. -/
def ent (seq kind : Nat) (flags w2 w3 w4 w5 : Word) : ChEntry :=
  ⟨va 0x140, seq, #v[BitVec.ofNat 64 (kind * 2 ^ 56) ||| flags, 0, w2, w3, w4, w5], none, none, .captured, 0, 0, 0, false, 0, none, 0⟩
def tlbBoth (s : State) : State := [0, 1].foldl (fun s b => s.onBoard b fun x => { x with tlb := [⟨0, 2 ^ 8, 2 ^ 30, plainLeaf, 0⟩] }) s
def sChain (es : List ChEntry) (f : State → State := id) : State :=
  f { tlbBoth (sEng 0 0 0) with chains := [⟨va 0x100, 0, 0, 0, es.length, 0, es, none, false⟩] }
theorem named_of {s : State} {c : Chain} {e : ChEntry}
    (h : (decide (s.chainAt s.opnd.a = some c) && decide (c.entries[s.opnd.b]? = some e) && s.chains.all fun x => decide (x.entries ≠ [])) = true) : Named s c e := by
  simp only [Bool.and_eq_true, decide_eq_true_eq, List.all_eq_true] at h
  exact ⟨h.1.1, h.1.2, h.2⟩
theorem badPa_tier {s : State} {e : Word} {a : Nat} (h : s.paKind a = .tier) : s.badPa e a = false := by unfold State.badPa; rw [h]
/-- A page that a board's buffer maps to memory is written, and read where it is not poisoned. -/
theorem place_tr {u : State} {p b : Nat} {night : Bool} {v : Nat} (hv : 2 ^ 38 ≤ v ∧ v < 2 ^ 38 + 2 ^ 30)
    (hT : u.engTranslate p b v = some (plainLeaf, 2 ^ 30)) : u.engPlace p b night v = .ok (.mem (2 ^ 30 + (v - 2 ^ 38)) plainLeaf) := by
  have hw : inWindow v = false := by simp only [inWindow]; simp; omega
  have hp : u.paOf p plainLeaf (2 ^ 30) v night = 2 ^ 30 + (v - 2 ^ 38) := by
    have hm : v % 2 ^ 30 = v - 2 ^ 38 := by omega
    have h30 : bits plainLeaf 63 28 * 2 ^ 16 = 2 ^ 30 := by decide
    simp only [State.paOf]; rw [if_neg (by decide), hm, h30]
  have hk : u.paKind (2 ^ 30 + (v - 2 ^ 38)) = .tier := by simp only [State.paKind]; rw [if_pos (by omega), if_pos (by omega)]
  have hb : u.badPa plainLeaf (2 ^ 30 + (v - 2 ^ 38)) = false := badPa_tier hk
  unfold State.engPlace; rw [hw, hT]
  simp only [hp, hb, Bool.false_eq_true, if_false]
theorem place_tlb {u : State} {p b : Nat} {night : Bool} {v : Nat} (hb : b < 1024) (hv : 2 ^ 38 ≤ v ∧ v < 2 ^ 38 + 2 ^ 30)
    (ht : tlbFind (u.boardAt b).tlb p v = some (plainLeaf, 2 ^ 30)) : u.engPlace p b night v = .ok (.mem (2 ^ 30 + (v - 2 ^ 38)) plainLeaf) :=
  place_tr hv (by unfold State.engTranslate; rw [if_neg (by omega), if_pos hb, ht])
theorem link_tier {u : State} {a : Nat} (h : u.paKind a = .tier) : u.linksOf a = [] := by unfold State.linksOf; rw [h]
theorem noMiss {u : State} (h : u.slices = []) (l : Nat) : u.inMiss l = false := by unfold State.inMiss State.sliceAt; rw [h]; rfl
/-- No store is on its way and no line in miss; no notify page is bound: as computations. -/
def stillIs (u : State) : Bool := decide (u.stores = []) && decide (u.updates = []) && decide (u.slices = [])
theorem still_of {u : State} (h : stillIs u = true) : Still u := by
  simp only [stillIs, Bool.and_eq_true, decide_eq_true_eq] at h
  exact ⟨h.1.1, h.1.2, by rw [h.2]; intro e he; cases he⟩
def noPages (l : Tbl (Option Part)) : Bool := l.all fun x => (x.2.map fun q => decide (q.pages = [])).getD true
theorem noPage_of {u : State} (h : noPages u.parts = true) (pa n : Nat) : NoPage u pa n := by
  simp only [noPages, List.all_eq_true] at h
  intro x hx q hq g hg
  have := h x hx
  rw [hq] at this
  simp only [Option.map_some, Option.getD_some, decide_eq_true_eq] at this
  rw [this] at hg
  cases hg
theorem writes_tlb {u : State} {p b : Nat} {night : Bool} {v n : Nat} (hb : b < 1024) (hv : 2 ^ 38 ≤ v ∧ v < 2 ^ 38 + 2 ^ 30) (hn : n ≤ 0x8000 - v % 0x8000)
    (ht : tlbFind (u.boardAt b).tlb p v = some (plainLeaf, 2 ^ 30)) (hs : Still u) (hp : noPages u.parts = true) : WritesAt u p b night v n (2 ^ 30 + (v - 2 ^ 38)) := by
  have hk : u.paKind (2 ^ 30 + (v - 2 ^ 38)) = .tier := by simp only [State.paKind]; rw [if_pos (by omega), if_pos (by omega)]
  exact ⟨hs, noPage_of hp _ _, by omega, hn, link_tier hk, plainLeaf, place_tlb hb hv ht, .inl (by decide)⟩
theorem reads_tlb {u : State} {p b : Nat} {v n : Nat} (hb : b < 1024) (hv : 2 ^ 38 ≤ v ∧ v < 2 ^ 38 + 2 ^ 30) (hn : n ≤ 0x8000 - v % 0x8000)
    (ht : tlbFind (u.boardAt b).tlb p v = some (plainLeaf, 2 ^ 30)) (hq : u.poisoned (2 ^ 30 + (v - 2 ^ 38)) n = false) (hm : u.slices = []) :
    ReadsAt u p b v n (2 ^ 30 + (v - 2 ^ 38)) := by
  have hk : u.paKind (2 ^ 30 + (v - 2 ^ 38)) = .tier := by simp only [State.paKind]; rw [if_pos (by omega), if_pos (by omega)]
  exact ⟨by omega, hn, hq, by unfold State.behindRetrain; rw [link_tier hk]; rfl, fun l _ _ => noMiss hm l, plainLeaf, place_tlb hb hv ht⟩
/-- FILL and COPY of five bytes, to memory and to a FIFO bank of other slots; a source that cannot be read; a prefetch. -/
def chainOf (es : List ChEntry) : Chain := ⟨va 0x100, 0, 0, 0, es.length, 0, es, none, false⟩
def fill : ChEntry := ent 1 5 0 0x0807060504030201 (va 0x200) 5 0
def copy (src : Word) : ChEntry := ent 1 1 0 src (va 0x200) 5 0
def toFifo (k : Nat) : ChEntry := ent 1 k 0 (va 0x240) 0xFE00000000010000 5 0
def fifo2 (s : State) : State := s.onBank 0 2 fun _ => aFifo .complete .free
theorem wit_DataEntries : Named (sChain [fill]) (chainOf [fill]) fill ∧ (sChain [fill]).mayStart (chainOf [fill]) fill = true ∧
    (sChain [fill]).fifoTarget (chainOf [fill]) fill = none ∧ WritesAt (sChain [fill]) 0 0 false (va 0x200).toNat 5 (2 ^ 30 + 0x200) ∧
    Named (sChain [copy (va 0x240)]) (chainOf [copy (va 0x240)]) (copy (va 0x240)) ∧ ReadsAt (sChain [copy (va 0x240)]) 0 0 (va 0x240).toNat 5 (2 ^ 30 + 0x240) ∧
    Named (sChain [copy 64]) (chainOf [copy 64]) (copy 64) ∧ (match (sChain [copy 64]).engRead 0 0 false 64 5 with | .error x => x.1 | .ok _ => 0) = 19 ∧
    Named (sChain [toFifo 1] fifo2) (chainOf [toFifo 1]) (toFifo 1) ∧ Named (sChain [toFifo 5] fifo2) (chainOf [toFifo 5]) (toFifo 5) ∧
    (sChain [toFifo 1] fifo2).fifoTarget (chainOf [toFifo 1]) (toFifo 1) = some (0, 2, 0xFE00000000000000) ∧
    5 ≠ (((sChain [toFifo 1] fifo2).boardAt 0).bank 2).slotSize ∧ (ent 1 11 0 (va 0x240) 0 5 0).kind = 11 :=
  ⟨named_of (by decide +kernel), by decide +kernel, by decide +kernel, writes_tlb (by decide) (by decide) (by decide) (by decide +kernel) (still_of (by decide +kernel)) (by decide +kernel), named_of (by decide +kernel),
    reads_tlb (by decide) (by decide) (by decide) (by decide +kernel) (by decide +kernel) (by decide +kernel), named_of (by decide +kernel), by decide +kernel, named_of (by decide +kernel),
    named_of (by decide +kernel), by decide +kernel⟩
/-- Tensors of one element of w16, at +200H and +240H; a list of one index at +280H, with a value of it. -/
def tensorsOf (e : ChEntry) : ChEntry := { e with src := some (hdr 1 0 (2 ^ 38 + 0x200) 1 16), dst := some (hdr 1 0 (2 ^ 38 + 0x240) 1 16) }
def gather (k : Nat) : ChEntry := tensorsOf (ent 1 k 0 0 (va 0x280) (1 + 2 ^ 32) 0)
def sGather (k : Nat) (i : Nat) : State := sChain [gather k] fun s => s.putNat (2 ^ 30 + 0x280) 4 i
theorem wit_DataEntries_tensors : (∀ k ∈ [2, 3, 4, 6], Named (sGather k 0) (chainOf [gather k]) (gather k) ∧ (sGather k 0).mayStart (chainOf [gather k]) (gather k) = true ∧
      (gather k).kind = k) ∧ (sGather 2 0).inFifo (chainOf [gather 2]) (hdr 1 0 (2 ^ 38 + 0x200) 1 16) = false ∧
    (fifo2 (sGather 2 0)).inFifo (chainOf [gather 2]) (hdr 1 0 0xFE00000000010000 1 16) = true ∧ (∀ d, d < 4 → (hdr 1 0 (2 ^ 38 + 0x240) 1 16 ||| (BitVec.ofNat 512 (2 ^ 32 + 2 ^ 64 + 2 ^ 96) <<< 224)).dim d = 1) ∧
    (∀ i ∈ [((0 : Nat), (0 : Int)), (1, 1), (0xFFFFFFFF, -1), (0x80000000, -2147483648)], okIs ((sGather 3 i.1).indexAt (chainOf [gather 3]) (gather 3) 0).1 i.2 = true) ∧
    (hdr 1 0 (2 ^ 38 + 0x240) 1 16).rows = 1 ∧ (hdr 1 0 (2 ^ 38 + 0x240) 1 16).dim (hdr 1 0 (2 ^ 38 + 0x240) 1 16).kdim = 1 ∧
    (hdr 1 0 (2 ^ 38 + 0x240) 1 16).bit [0, 0, 0, 0] % 8 = 0 ∧ (hdr 1 0 (2 ^ 38 + 0x240) 1 16).width = 16 := by
  refine ⟨?_, by decide +kernel⟩
  intro k hk
  simp only [List.mem_cons, List.not_mem_nil, or_false] at hk
  rcases hk with rfl | rfl | rfl | rfl <;> exact ⟨named_of (by decide +kernel), by decide +kernel⟩
theorem wit_DataEntries_places : ReadsAt (sGather 2 0) 0 0 (2 ^ 38 + 0x200) 2 (2 ^ 30 + 0x200) ∧ WritesAt (sGather 2 0) 0 0 false (2 ^ 38 + 0x240) 2 (2 ^ 30 + 0x240) :=
  ⟨reads_tlb (by decide) (by decide) (by decide) (by decide +kernel) (by decide +kernel) (by decide +kernel), writes_tlb (by decide) (by decide) (by decide) (by decide +kernel) (still_of (by decide +kernel)) (by decide +kernel)⟩
/-- FENCE alone and behind an entry that is open; WAIT for the value that a cell holds and for one more; PUBLISH of a pair; SNAP of one object. -/
def one (k : Nat) (w2 w3 w4 w5 : Word) : ChEntry := ent 1 k 0 w2 w3 w4 w5
def snapE (o : Word) (s : State) : State := (typed (fifo2 s) 0).putWord (2 ^ 30 + 0x280) o
theorem wit_OrderingEntries : Named (sChain [one 9 0 0 0 0]) (chainOf [one 9 0 0 0 0]) (one 9 0 0 0 0) ∧
    (sChain [one 9 0 0 0 0]).mayStart (chainOf [one 9 0 0 0 0]) (one 9 0 0 0 0) = true ∧
    (sChain [{ fill with st := .running }, { one 9 0 0 0 0 with seq := 2 }]).mayStart (chainOf [{ fill with st := .running }, { one 9 0 0 0 0 with seq := 2 }]) { one 9 0 0 0 0 with seq := 2 } = true ∧
    Named (sChain [one 10 (va 0x98) 0x10000 0 0]) (chainOf [one 10 (va 0x98) 0x10000 0 0]) (one 10 (va 0x98) 0x10000 0 0) ∧
    ReadsAt (sChain [one 10 (va 0x98) 0x10000 0 0]) 0 0 (va 0x98).toNat 8 (2 ^ 30 + 0x98) ∧ ((sChain [one 10 (va 0x98) 0x10000 0 0]).homeWord (2 ^ 30 + 0x98)).toNat = 0x10000 :=
  ⟨named_of (by decide +kernel), by decide +kernel, by decide +kernel, named_of (by decide +kernel),
    reads_tlb (by decide) (by decide) (by decide) (by decide +kernel) (by decide +kernel) (by decide +kernel), by decide +kernel⟩
theorem wit_OrderingEntries_pairs : Named (sChain [one 8 3 0 0 7] (paired none)) (chainOf [one 8 3 0 0 7]) (one 8 3 0 0 7) ∧
    (sChain [one 8 3 0 0 7] (paired none)).mayStart (chainOf [one 8 3 0 0 7]) (one 8 3 0 0 7) = true ∧ (sChain [one 8 4 0 0 7] (paired none)).pair? 0 (one 8 4 0 0 7 |>.word 2).toNat = none ∧
    (sChain [one 8 3 0 0 7] (paired none)).pair? 0 3 = some aPair ∧ (sChain [one 8 3 0 0 7] (paired none)).nightBusy 0 aPair (some (va 0x100, 1)) = false ∧
    (sChain [one 8 3 0 0 7] fun s => paired none (night s)).nightBusy 0 aPair (some (va 0x100, 1)) = true ∧
    (sChain [one 8 3 0 0 7] (paired (some ⟨9, 0, 0, 0⟩))).pair? 0 3 = some { aPair with flip := some ⟨9, 0, 0, 0⟩ } ∧
    Named (sChain [one 7 (va 0x280) (va 0x300) (1 + 2 ^ 38) 0] (snapE 0x1070010)) (chainOf [one 7 (va 0x280) (va 0x300) (1 + 2 ^ 38) 0]) (one 7 (va 0x280) (va 0x300) (1 + 2 ^ 38) 0) ∧
    ((sChain [one 7 (va 0x280) (va 0x300) (1 + 2 ^ 39) 0] (snapE 0x1070010)).snapIds (chainOf [one 7 (va 0x280) (va 0x300) (1 + 2 ^ 39) 0]) (one 7 (va 0x280) (va 0x300) (1 + 2 ^ 39) 0)).1 = .ok [0x1070010] ∧
    (match ((sChain [one 7 (va 0x280) (va 0x300) (1 + 2 ^ 38) 0] (snapE 0x1070010)).snapIds (chainOf [one 7 (va 0x280) (va 0x300) (1 + 2 ^ 38) 0]) (one 7 (va 0x280) (va 0x300) (1 + 2 ^ 38) 0)).1 with
      | .error x => x.1 | .ok _ => 0) = 3 :=
  ⟨named_of (by decide +kernel), by decide +kernel, by decide +kernel, by decide +kernel, by decide +kernel, by decide +kernel, by decide +kernel, named_of (by decide +kernel), ok_of (by decide +kernel), by decide +kernel⟩
/-- Two members' entries of one collective of a kind, and their chain, of group 3. -/
def member (k r : Nat) : ChEntry := { ent 1 k 0 (va (0x280 + 64 * r)) (va (0x200 + 64 * r)) 8 0 with member := r, st := .running }
def collChain (es : List ChEntry) : Chain := ⟨va 0x80, 0, 1024, 0, 1, 0, es, some 3, false⟩
def sColl (es : List ChEntry) : State := { grouped (tlbBoth (sEng 0 0 0)) with chains := [collChain es], opnd := { Operand.zero with b := 1 } }
/-- Two ranks' data for a collective: `n` blocks each. -/
def collData (s : State) (blocks : Nat) : List (List Byte) := [s.homeBytes (2 ^ 30 + 0x280) (blocks * 8), s.homeBytes (2 ^ 30 + 0x2C0) (blocks * 8)]
theorem coll_writes {k : Nat} {u : State} {inside : Nat → Prop} (hu : SameBut (sColl [member k 0, member k 1]) u inside) (r : Nat) (hr : r = 0 ∨ r = 1)
    (h0 : tlbFind (((sColl [member k 0, member k 1]).boardAt r)).tlb 0 (2 ^ 38 + (0x200 + 64 * r)) = some (plainLeaf, 2 ^ 30)) (n : Nat) (hn : n ≤ 64) :
    WritesAt u 0 r false (2 ^ 38 + (0x200 + 64 * r)) n (2 ^ 30 + (0x200 + 64 * r)) := by
  have h := writes_tlb (u := u) (p := 0) (b := r) (night := false) (v := 2 ^ 38 + (0x200 + 64 * r)) (n := n) (by omega) (by omega) (by omega) (by rw [(hu.2.2.2.2 r).1]; exact h0) hu.1
    (by rw [hu.2.2.1]; show noPages (grouped (tlbBoth (sEng 0 0 0))).parts = true; decide +kernel)
  rwa [Nat.add_sub_cancel_left] at h
/-- What the statements of the four kinds ask for, of this state. -/
theorem wit_Collectives (k : Nat) (hk : k = 0x10 ∨ k = 0x11 ∨ k = 0x12 ∨ k = 0x13) :
    (sColl [member k 0, member k 1]).chainAt 0 = some (collChain [member k 0, member k 1]) ∧
    (sColl [member k 0, member k 1]).collSet (collChain [member k 0, member k 1]) 1 = some (⟨va 0x80, 1, [0, 1]⟩, [member k 0, member k 1]) ∧
    (∀ x ∈ (sColl [member k 0, member k 1]).chains, x.entries ≠ []) ∧ (∀ e ∈ [member k 0, member k 1], e.kind = k ∧ e.st = .running) ∧
    (∀ (n : Nat), n ∈ [0, 1, 2] → ∀ r ∈ [0, 1], okIs ((sColl [member k 0, member k 1]).engRead 0 r false (2 ^ 38 + (0x280 + 64 * r)) (n * 8))
      ((collData (sColl [member k 0, member k 1]) n).getD r []) = true) ∧
    (∀ (inside : Nat → Prop) u, SameBut (sColl [member k 0, member k 1]) u inside → ∀ r, r = 0 ∨ r = 1 → ∀ n, n ≤ 16 →
      WritesAt u 0 r false (2 ^ 38 + (0x200 + 64 * r)) n (2 ^ 30 + (0x200 + 64 * r))) := by
  rcases hk with rfl | rfl | rfl | rfl <;>
    exact ⟨by decide +kernel, by decide +kernel, by decide +kernel, by decide +kernel, by decide +kernel, fun _ u hu r hr n hn =>
      coll_writes hu r hr (by rcases hr with rfl | rfl <;> decide +kernel) n (by omega)⟩
theorem wit_Collectives_lengths : let d := collData (sColl [member 0x10 0, member 0x10 1])
    (d 1).flatten.length = 16 ∧ (combine 0 0 ((d 2).map (block 8 1))).length = 8 ∧ ((d 2).map (block 8 0)).flatten.length = 16 ∧
      ((2 ^ 30 + 0x200 : Nat) + 16 ≤ 2 ^ 30 + 0x240) := by decide +kernel
/-- A collective that may start, one with unlike entries, and one whose entries run already; the end of an entry. -/
theorem wit_Collectives_start : (∀ e ∈ [{ member 0x10 0 with st := .captured }, { member 0x10 1 with st := .captured }],
      (sColl [{ member 0x10 0 with st := .captured }, { member 0x10 1 with st := .captured }]).mayStart (collChain [{ member 0x10 0 with st := .captured }, { member 0x10 1 with st := .captured }]) e = true) ∧
    (∃ e ∈ [member 0x10 0, member 0x10 1], (sColl [member 0x10 0, member 0x10 1]).mayStart (collChain [member 0x10 0, member 0x10 1]) e = false) ∧
    (member 0x10 0).kind ≠ (member 0x11 1).kind := by decide +kernel
/-- A group of packages, whose rank here is 1: its member's source is read, its destination written. -/
def collPeers : Chain := ⟨va 0x80, 0, 1024, 0, 1, 0, [member 0x10 1], some 3, false⟩
def sPeers : State :=
  let s := p0 (tlbBoth (sEng 0 0 0)) fun p => { p with groups := [(3, some ⟨va 0x80, 2, [4, 9]⟩)] }
  { s with fw := { s.fw with peers := [4] }, chains := [collPeers], opnd := { Operand.zero with b := 1 } }
theorem wit_Collectives_peers : sPeers.chainAt 0 = some collPeers ∧ sPeers.collSet collPeers 1 = some (⟨va 0x80, 2, [4, 9]⟩, [member 0x10 1]) ∧
    okIs (sPeers.engRead 0 1024 false (2 ^ 38 + 0x2C0) 8) (sPeers.homeBytes (2 ^ 30 + 0x2C0) 8) = true ∧
    WritesAt sPeers 0 1024 false (2 ^ 38 + 0x240) 16 (2 ^ 30 + 0x240) ∧ sPeers.opnd.c ≠ 1 ∧ (sColl [member 0x10 0, member 0x10 1]).opnd.c ≠ 1 :=
  ⟨by decide +kernel, by decide +kernel, by decide +kernel, ⟨still_of (by decide +kernel), noPage_of (by decide +kernel) _ _, by decide, by decide, by decide,
    plainLeaf, place_tr (by decide) (by decide +kernel), .inl (by decide)⟩, by decide, by decide +kernel⟩
def doneEntry : ChEntry := { fill with st := .worked, code := 255, flags := 1, late := true }
theorem wit_Collectives_end : (sChain [doneEntry]).chainAt 0 = some (chainOf [doneEntry]) ∧ (chainOf [doneEntry]).group = none ∧ doneEntry.seq = (chainOf [doneEntry]).done + 1 ∧
    (sChain [doneEntry]).ceWaits = [] ∧ doneEntry.code < 256 ∧ doneEntry.seq < 2 ^ 32 ∧ fill.st ≠ .worked ∧
    (∀ (inside : Nat → Prop) u, SameBut (sChain [doneEntry]) u inside → WritesAt u 0 0 false (2 ^ 38 + 0x170) 8 (2 ^ 30 + 0x170) ∧
      WritesAt u 0 0 false (2 ^ 38 + 0x178) 8 (2 ^ 30 + 0x178) ∧ WritesAt u 0 0 false (2 ^ 38 + 0x110) 8 (2 ^ 30 + 0x110) ∧
      WritesAt u 0 0 false (2 ^ 38 + 0x100) 8 (2 ^ 30 + 0x100)) ∧
    doneEntry.addr.toNat + 48 = 2 ^ 38 + 0x170 ∧ (chainOf [doneEntry]).header.toNat = 2 ^ 38 + 0x100 ∧
    [2 ^ 30 + 0x170, 2 ^ 30 + 0x178, 2 ^ 30 + 0x110, 2 ^ 30 + 0x100].Pairwise (fun p q : Nat => p + 8 ≤ q ∨ q + 8 ≤ p) := by
  refine ⟨by decide +kernel, by decide, by decide, by decide +kernel, by decide, by decide, by decide, ?_, by decide, by decide, by decide⟩
  intro _ u hu
  have hp : noPages u.parts = true := by rw [hu.2.2.1]; decide +kernel
  have h0 : ∀ v, tlbFind ((sChain [doneEntry]).boardAt 0).tlb 0 v = some (plainLeaf, 2 ^ 30) → tlbFind (u.boardAt 0).tlb 0 v = some (plainLeaf, 2 ^ 30) :=
    fun v h => by rw [(hu.2.2.2.2 0).1]; exact h
  exact ⟨writes_tlb (by decide) (by decide) (by decide) (h0 _ (by decide +kernel)) hu.1 hp, writes_tlb (by decide) (by decide) (by decide) (h0 _ (by decide +kernel)) hu.1 hp, writes_tlb (by decide) (by decide) (by decide) (h0 _ (by decide +kernel)) hu.1 hp,
    writes_tlb (by decide) (by decide) (by decide) (h0 _ (by decide +kernel)) hu.1 hp⟩

/-! ### Timed events, work that goes on -/

/-- A flip at the present time and at the next tick; a snap that is held and has no task, and one whose wake task runs. -/
def flipAt (n : Nat) (seq : Nat) : State := { sChain [{ one 8 3 0 0 7 with st := .running }] (paired (some ⟨S0.bell + n, 0, va 0x100, seq⟩)) with opnd := { Operand.zero with b := 3 } }
theorem wit_TimedEvents : (flipAt 0 1).pair? 0 3 = some { aPair with flip := some ⟨S0.bell, 0, va 0x100, 1⟩ } ∧ S0.bell ≤ (flipAt 0 1).bell ∧ (flipAt 1 1).bell < S0.bell + 1 ∧
    (∀ x ∈ (flipAt 0 1).chains, x.entries ≠ []) := by decide +kernel
def aSnap (held : Bool) : Snap := ⟨0, 0, va 0x100, 1, [0x1070010], va 0x300, 0, 0, held, []⟩
def snapEntry : ChEntry := { one 7 (va 0x280) (va 0x300) (1 + 2 ^ 39) 0 with st := .running }
def sSnap (held : Bool) : State := { sChain [snapEntry] (snapE 0x1070010) with snaps := [aSnap held] }
theorem wit_TimedEvents_snap : (sSnap true).snaps[0]? = some (aSnap true) ∧ (sSnap true).wakeRunning (aSnap true) = false ∧ (sSnap true).windowDue 0 = false ∧
    ((sSnap true).onCore 1 fun c => { c with slots := [(0, .running { aTask with kind := .wake, oid := 0x1070010 })] }).wakeRunning (aSnap true) = true ∧
    (sSnap true).chain? 0 (va 0x100) = some (chainOf [snapEntry]) ∧ (sSnap true).typeOf 0 (oidType 0x1070010) = some (aType 0) ∧ (sSnap true).live 0 = true ∧ (aSnap true).deferred = [] ∧
    WritesAt (sSnap true) 0 0 snapEntry.night (va 0x300).toNat (64 + (aType 0).slots * (aType 0).size) (2 ^ 30 + 0x300) :=
  ⟨by decide +kernel, by decide +kernel, by decide +kernel, by decide +kernel, by decide +kernel, by decide +kernel, by decide +kernel, rfl, writes_tlb (by decide) (by decide) (by decide) (by decide +kernel) (still_of (by decide +kernel)) (by decide +kernel)⟩
def sSplit (n : Nat) : State := { S0 with split := some ⟨0, 1, ⟨0, [0], []⟩, ⟨0, [1], []⟩, [3], S0.bell + n, 7⟩ }
theorem wit_TimedEvents_split : ((sSplit 0).split).map (·.t) = some (sSplit 0).bell ∧ ((sSplit 1).split).map (·.t) = some ((sSplit 1).bell + 1) ∧ (0 : Nat) ≠ 1 ∧
    7 ∉ (sSplit 0).fw.taken ∧ stillIs (sSplit 0) = true := by decide
def sRemap (l : List Remap) (i : Nat) : State := { S0 with remaps := l, opnd := { Operand.zero with a := i }, cells := [(2 ^ 30 + 8, [⟨0x11, 3, 2, false, false, none⟩])] }
theorem wit_TimedEvents_remap : (∃ x ∈ (sRemap [⟨0, 2 ^ 30, .read⟩, ⟨0, 2 ^ 30 + 8, .read⟩] 1).remaps.take 1, x.addr / 64 = (2 ^ 30 + 8) / 64) ∧
    (sRemap [⟨1, 2 ^ 30 + 8, .write [(2 ^ 30 + 8, 1)]⟩] 0).remaps[0]? = some ⟨1, 2 ^ 30 + 8, .write [(2 ^ 30 + 8, 1)]⟩ ∧ (sRemap [] 0).poisoned (2 ^ 30 + 8) 8 = false ∧
    (([(2 ^ 30 + 8, 1)] : List (Nat × Byte)).map Prod.fst).Nodup ∧ ((sRemap [] 0).cellVals ((2 ^ 30 + 8) / 4 * 4)).length = 1 ∧ stillIs (sRemap [] 0) = true ∧ (sRemap [] 0).pageHeld (2 ^ 30 + 8) = false := by decide
/-- Notices not taken and taken; launches of no use, unfinished, and at their end, with a cell and a continuation. -/
def sNotice (n : Nat) (e : List (Nat × Nat)) : State :=
  c0 (p0 S0 fun p => { p with notices := [⟨e, S0.bell⟩] }) fun c => { c with notices := n, slots := [(5, .queued { aTask with launch := 7, gen := 3 })] }
theorem wit_WorkGoesOn : (sNotice 0 []).partOf 0 = some 0 ∧ ((sNotice 1 []).coreAt 0).notices ≥ (((sNotice 1 []).part? 0).getD Part.fresh).notices.length ∧
    (((sNotice 0 [(7, 3)]).part? 0).getD Part.fresh).notices[((sNotice 0 [(7, 3)]).coreAt 0).notices]? = some ⟨[(7, 3)], S0.bell⟩ ∧
    ((sNotice 0 [(7, 3)]).coreAt 0).slots = [(5, .queued { aTask with launch := 7, gen := 3 })] ∧ (sNotice 0 []).wakes = [] ∧ ((sNotice 0 []).boardAt (boardOf 0)).overflow = [] := by decide
def sLaunchEnd (n : Nat) (cell cont : Nat) : State :=
  atB 7 (p0 S0 fun p => { p with launches := [(7, { aLaunch with counter := n, desc := (Vector.replicate 8 0).set 6 (BitVec.ofNat 64 cell) |>.set 7 (BitVec.ofNat 64 cont) })] })
theorem wit_WorkGoesOn_launch : ((((sLaunchEnd 0 (2 ^ 38 + 8) 0x40).part? 0).getD Part.fresh).launchAt 7).counter = 0 ∧
    Desc.cell (((((sLaunchEnd 0 (2 ^ 38 + 8) 0x40).part? 0).getD Part.fresh).launchAt 7).desc) = 2 ^ 38 + 8 ∧
    ((((sLaunchEnd 1 0 0).part? 0).getD Part.fresh).launchAt 7).counter ≠ 0 ∧ ((((sLaunchEnd 1 0 0).part? 0).getD Part.fresh).launchAt 6).used = false ∧
    ((sLaunchEnd 0 (2 ^ 38 + 8) 0x40).walk (2 ^ 38 + 8) 4 (((sLaunchEnd 0 (2 ^ 38 + 8) 0x40).part? 0).getD Part.fresh).root) = some (plainLeaf, 2 ^ 30) ∧
    (((sLaunchEnd 0 0 0).part? 0).getD Part.fresh).run = .running := by decide
/-- One more launch of the graph, not started, whose one predecessor is the first. -/
def waiter : Launch := { aLaunch with counter := 2, started := false, idx := some 4, desc := #v[0x0400000000000000, 0, 0, 0, 0, 0x7FF8000000000002, 0xFC00000000000000, 0] }
def sNext (c : Bool) : State := atB 7 (p0 S0 fun p => { p with launches := [(7, { aLaunch with counter := 0, idx := some 1, cancelled := c }), (8, waiter)] })
theorem wit_WorkGoesOn_next (c : Bool) : let q := ((sNext c).part? 0).getD Part.fresh
    (q.launchAt 7).used = true ∧ (q.launchAt 7).started = true ∧ (q.launchAt 7).counter = 0 ∧ (q.launchAt 8).used = true ∧ (q.launchAt 8).started = false ∧
    (q.launchAt 8).graph = (q.launchAt 7).graph ∧ (q.graphAt (q.launchAt 7).graph).cancelled = false ∧ (q.launchAt 8).cancelled = false ∧ (q.launchAt 7).idx = some 1 ∧
    (q.launchAt 8).idx.isSome = true ∧ (∀ x, x < 256 → x ≠ 8 → x ≠ 7 → (q.launchAt x).used = false) := by cases c <;> decide +kernel
theorem wit_WorkGoesOn_preds : Desc.preds waiter.desc = [1] := by decide
theorem wit_WorkGoesOn_alone : (∀ x, x < 256 → x ≠ 7 → ((((sLaunchEnd 0 (2 ^ 38 + 8) 0x40).part? 0).getD Part.fresh).launchAt x).used = false) ∧
    (aLaunch.started = true) ∧ stillIs (sLaunchEnd 0 (2 ^ 38 + 8) 0x40) = true ∧ noPages (sLaunchEnd 0 (2 ^ 38 + 8) 0x40).parts = true ∧ pteType plainLeaf ≠ 1 := by decide +kernel
def sCont : State := p0 S0 fun p => { p with conts := [⟨.replicate 8 0, 3⟩] }
theorem wit_WorkGoesOn_continuation : ((sCont.part? 0).getD Part.fresh).conts = [⟨.replicate 8 0, 3⟩] ∧ ((sCont.part? 0).getD Part.fresh).freeEntry = some 0 := by decide
/-- A machine whose firmware runs, the host's links up, its completion ring with one place; what a command's answer asks for of it. -/
def withRing (s : State) : State :=
  { s with links := .replicate 12 ⟨true, none, 0, 0, 0, 0⟩, fw := { s.fw with fwst := 1, fseen := 0xFFFFFFFF, cpb := 0x5004, fcomp := 14, cph := 0xFFFFFFFF } }
def roomIs (s : State) (n : Nat) : Bool :=
  stillIs s && decide (s.fw.fwst = 1) && ((List.range 4).all fun l => (s.linkAt l).up && (s.linkAt l).retrain.isNone) && noPages s.parts &&
    decide (ringSize s.fw.cpb = some n) && decide (s.fw.waiting = []) && decide ((s.fw.fcomp + 2 ^ 32 - s.fw.cph) % 2 ^ 32 < n)
theorem room_of {s : State} {n : Nat} (h : roomIs s n = true) : RingRoom s n := by
  simp only [roomIs, Bool.and_eq_true, decide_eq_true_eq, List.all_eq_true, List.mem_range] at h
  obtain ⟨⟨⟨⟨⟨⟨h1, h2⟩, h3⟩, h4⟩, h5⟩, h6⟩, h7⟩ := h
  exact ⟨still_of h1, h2, fun l hl => ⟨(h3 l hl).1, Option.isNone_iff_eq_none.1 (h3 l hl).2⟩, noPage_of h4 _ _, h5, h6, h7⟩
/-- An open phase whose close command is taken. -/
def sPhase : State := p0 (withRing { S0 with fw := { S0.fw with taken := [7] } }) fun p => { p with phaseOpen := true, phaseClosed := some 7 }
theorem wit_WorkGoesOn_phase : RingRoom sPhase 16 ∧ ((sPhase.part? 0).getD Part.fresh).phaseOpen = true ∧ (∀ g, g < 64 → (((sPhase.part? 0).getD Part.fresh).graphAt g).used = false) ∧
    ((sPhase.part? 0).getD Part.fresh).conts = [] ∧ sPhase.chains = [] ∧ 7 ∈ sPhase.fw.taken ∧ sPhase.opnd.c ≠ 1 := ⟨room_of (by decide +kernel), by decide +kernel⟩
def sWindow (n : Nat) (f : Part → Part) : State := p0 { S0 with bell := n } fun p => f { p with win := 10 }
theorem wit_WorkGoesOn_window : (sWindow 1023 id).windowDue 0 = false ∧ (sWindow 1024 id).windowDue 0 = true ∧ (((sWindow 1024 id).part? 0).getD Part.fresh).ended = none ∧
    (((sWindow 1280 fun p => { p with ended := some (0, 1280, []) }).part? 0).getD Part.fresh).ended = some (0, 1280, []) ∧ (sWindow 1279 id).bell < 1280 := by decide

/-! ### Stops, switches, power -/

def part0 (s : State) : Part := (s.part? 0).getD Part.fresh
def sDusk (n : Nat) : State := p0 S0 fun p => { p with job := some ⟨7, 0, false⟩, dusk := n }
def sArmed (n : Nat) : State := p0 S0 fun p => { p with armed := some (S0.bell + n, 7) }
def sStopped (n : Nat) (r : Run) : State :=
  w0 (p0 S0 fun p => { p with run := r, resume := some (S0.bell + n, 7), saved := some ⟨[], [], [], [(2 ^ 30, 1)], [], []⟩ }) fun w => { w with st := .halted, prior := .issuing }
theorem wit_StopsAndPower : (part0 (sDusk 0)).run = .running ∧ (part0 (sDusk 0)).job = some ⟨7, 0, false⟩ ∧ (part0 (sDusk 0)).dusk = 0 ∧ (part0 (sDusk 0)).jobs = [] ∧
    (part0 (sDusk 1)).dusk ≠ 0 ∧ (part0 (sArmed 0)).armed = some ((sArmed 0).bell, 7) ∧ (part0 (sArmed 1)).armed = some ((sArmed 1).bell + 1, 7) ∧ (part0 (sArmed 0)).run = .running ∧
    (part0 (sStopped 0 (.stopped 4))).resume = some ((sStopped 0 (.stopped 4)).bell, 7) ∧ (part0 (sStopped 0 (.stopped 4))).run = .stopped 4 ∧
    ((sStopped 0 (.stopped 4)).watch 0).st = .halted ∧ (part0 (sStopped 1 .switched)).run = .switched ∧ (part0 (sStopped 0 .switched)).short = 0 ∧
    (p0 (sStopped 0 .switched) fun p => { p with short := 1 }).part? 0 ≠ none := by decide
theorem wit_StopsAndPower_alone : (∀ e ∈ (sStopped 0 .switched).parts, e.1 = 0) ∧ (sArmed 0).keepq = [] ∧ (sArmed 0).bankq = [] ∧ (sArmed 0).atomq = [] ∧
    ((sArmed 0).coreAt 0).wcb = [] ∧ (sArmed 0).cores.any (·.1 = 0) = true ∧ (∀ m, m < 16 → (((sArmed 0).boardAt 0).bank m).changes = []) ∧
    stillIs (sArmed 0) = true ∧ stillIs (sStopped 0 .switched) = true ∧ (sArmed 0).linkLoads = [] ∧ (∀ l, l < 12 → ((sArmed 0).linkAt l).retrain = none) ∧ (∀ k, k < 4 → ((sArmed 0).watch k).path = []) ∧
    (∀ e ∈ (sArmed 0).cores, e.1 = 0) ∧ (part0 (p0 (sArmed 0) fun p => { p with run := .leaving })).run = .leaving := by decide
def sQuiet (n : Nat) (g : Bool) : State :=
  c0 (w0 { S0 with cycles := n } fun w => { w with st := .free, readyAt := none }) fun c => { c with idle := 0, gated := g, issuing := none }
theorem wit_StopsAndPower_gates : (sQuiet 2048 false).quiet 0 = true ∧ ((sQuiet 2048 false).coreAt 0).idle + 2048 ≤ (sQuiet 2048 false).cycles ∧ ¬ ((sQuiet 2047 false).coreAt 0).idle + 2048 ≤ (sQuiet 2047 false).cycles ∧
    (w0 (sQuiet 2048 true) fun w => { w with st := .ready }).quiet 0 = false ∧ ((sQuiet 2048 true).coreAt 0).gated = true ∧ ((sQuiet 2048 false).coreAt 0).gated = false ∧
    (1 : Nat) < ({ S0 with clock := 2 } : State).clock := by decide
theorem wit_StopsAndPower_due : (0, (sQuiet 2048 false).coreAt 0) ∈ (sQuiet 2048 false).cores ∧
    (let s : State := w0 (sQuiet 4800 true) fun w => { w with st := .halted }
     (0, s.coreAt 0) ∈ s.cores ∧ s.wakes? 0 = true ∧ (s.coreAt 0).gated = true) ∧
    100 < ({ S0 with opnd := { Operand.zero with a := 101 } } : State).opnd.a ∧ S0.fw.record.cap < ({ S0 with opnd := { Operand.zero with b := 2801 } } : State).opnd.b ∧
    ¬ (100 < S0.opnd.a ∨ S0.fw.record.cap < S0.opnd.b) := by decide

/-! ### Commands of the firmware -/

/-- The command that comes next of the ring, at the last number before the count starts again, and a machine that takes it. -/
def ring (s : State) (op part : Nat) (w : Vector Word 7) : State := { withRing s with opnd := { Operand.zero with cmd := ⟨0, part, 0, op, w⟩ } }
def nextIs (s : State) (op n : Nat) : Bool :=
  roomIs s n && decide (s.opnd.cmd.op = op) && decide (s.opnd.cmd.seq = (s.fw.fseen + 1) % 2 ^ 32) && decide (s.opnd.cmd.seq ∉ s.fw.taken)
theorem next_of {s : State} {op n : Nat} (h : nextIs s op n = true) : Next s op n := by
  simp only [nextIs, Bool.and_eq_true, decide_eq_true_eq] at h
  have r := room_of h.1.1.1
  exact ⟨r.runs, h.1.1.2, h.1.2, h.2, r⟩
def cleanIs (s : State) (m : List Word) : Bool :=
  decide (s.opnd.cmd.rsv = 0) && (List.range 7).all fun i => decide (Vector.at0 s.opnd.cmd.w i &&& ~~~((m[i]?).getD 0) = 0)
theorem clean_of {s : State} {m : List Word} (h : cleanIs s m = true) : Clean s m := by
  simp only [cleanIs, Bool.and_eq_true, decide_eq_true_eq, List.all_eq_true, List.mem_range] at h
  exact ⟨h.1, h.2⟩
theorem device_of {s : State} {op : Nat} {m : List Word} (h : (nextIs s op 16 && cleanIs s m && decide (s.opnd.cmd.part = 255)) = true) : ToDevice s op 16 m := by
  simp only [Bool.and_eq_true, decide_eq_true_eq] at h
  exact ⟨next_of h.1.1, clean_of h.1.2, h.2⟩
theorem part_of {s : State} {op : Nat} {m : List Word} (h : (nextIs s op 16 && cleanIs s m && decide (s.opnd.cmd.part = 0) && (s.part? 0).isSome) = true) :
    ToPart s op 16 m (part0 s) := by
  simp only [Bool.and_eq_true, decide_eq_true_eq] at h
  obtain ⟨⟨⟨h1, h2⟩, h3⟩, h4⟩ := h
  obtain ⟨q, hq⟩ := Option.isSome_iff_exists.1 h4
  refine ⟨next_of h1, clean_of h2, by omega, ?_⟩
  rw [h3, part0, hq]; rfl
/-- The forms that are refused: a reserved field, a word outside its mask, no such partition, a device command to one. -/
theorem wit_CommandForm : Next (ring S0 0x15 1 (.replicate 7 0)) 0x15 16 ∧ (ring S0 0x15 1 (.replicate 7 0)).part? 1 = none ∧
    Next (ring S0 0x01 0 (.replicate 7 0)) 0x01 16 ∧ (.query, 0x01, [3, 63, 0, 0, 0, 0, ones]) ∈ deviceCommands ∧
    (.duskadd, 0x15, [ones]) ∈ partitionCommands ∧ Vector.at0 #v[(0 : Word), 1, 0, 0, 0, 0, 0] 1 &&& ~~~(([ones][1]?).getD 0) ≠ 0 ∧ S0.fw.fwst ≠ 1 :=
  ⟨next_of (by decide), by decide, next_of (by decide), by decide⟩
/-- PCREATE of rod 127, with no bank in a mode but WAY; rod 0, which a partition has; no partition number free. -/
def withDomain (s : State) : State := { s with domains := [(0, ⟨0, [0], []⟩)], granules := [(0, 0), (3, 0)] }
def create (s : State) (w1 w2 : Word) : State := ring (withDomain s) 0x02 255 #v[w1, w2, 0x00010000, 0x10000, 0x201, 0x1F, 0x2000]
def fullParts (s : State) : State := { s with parts := (List.range 128).map fun i => (i, some { Part.fresh with rods := [0] }) }
/-- The table of bank modes: bank 0 of each of 16 boards is PAD and reserved. -/
def tables (s : State) : State := (List.range 16).foldl (fun s i => s.putWord (hostAddr (0x2000 + 16 * i)) 0x81) s
def create127 : State := tables (create S0 0 0x8000000000000000)
theorem wit_PartitionCreate : ToDevice create127 0x02 16 [ones, ones, 0xF1FF0FFF, ones, ones, 0x31F, ones] ∧
    ((List.range 128).filter fun r => (create127.opnd.cmd.word (1 + r / 64)).getLsbD (r % 64)) = [127] ∧ create127.rodOn 127 = true ∧
    create127.usedRods = [0] ∧ attrsOk 0x1F = true ∧ bufferOk 0x2000 = true ∧ create127.domains.get Domain.fresh 0 = ⟨0, [0], []⟩ ∧
    (∀ x ∈ ((List.range 1024).filter fun b => (boardRods b).any [127].contains).zipIdx, tableOk (create127.homeBytes (hostAddr (0x2000 + 16 * x.2)) 16) true = true) ∧
    ((List.range 128).all fun p => ((fullParts create127).part? p).isSome) = true ∧ create127.part? 1 = none ∧ (create127.part? 0).isSome = true :=
  ⟨device_of (by decide +kernel), by decide +kernel⟩
theorem wit_PartitionWork : ToPart (ring S0 0x03 0 (.replicate 7 0)) 0x03 16 [] (part0 (ring S0 0x03 0 (.replicate 7 0))) ∧
    ToPart (ring (sDusk 5) 0x03 0 (.replicate 7 0)) 0x03 16 [] (part0 (ring (sDusk 5) 0x03 0 (.replicate 7 0))) ∧ (part0 (sDusk 5)).job.isSome = true ∧ (part0 S0).job = none ∧
    ToPart (ring S0 0x04 0 #v[0, 0, 0, 0, 0, 0x30A, 0]) 0x04 16 [0, 0, 0, 0, 0, 0x31F] (part0 (ring S0 0x04 0 #v[0, 0, 0, 0, 0, 0x30A, 0])) ∧ ¬ bits (0x30A : Word) 4 0 < 10 ∧
    bits (0x309 : Word) 4 0 < 10 ∧ ToPart (ring S0 0x05 0 #v[9, 0x00FFFFFFFFFFFFF8, 0, 0, 0, 0, 0]) 0x05 16 [ones, ones] (part0 (ring S0 0x05 0 #v[9, 0x00FFFFFFFFFFFFF8, 0, 0, 0, 0, 0])) ∧
    (bits (0x00FFFFFFFFFFFFF8 : Word) 63 56 = 0 ∧ (0x00FFFFFFFFFFFFF8 : Word).toNat % 8 = 0) ∧ (0x00FFFFFFFFFFFFFC : Word).toNat % 8 ≠ 0 ∧ (part0 S0).run = .running ∧
    (part0 (sArmed 0)).run = .running ∧ (part0 (sStopped 0 .switched)).run ≠ .running :=
  ⟨part_of (by decide), part_of (by decide), by decide, by decide, part_of (by decide), by decide, by decide, part_of (by decide), by decide, by decide, by decide, by decide, by decide⟩
def inPhase (s : State) : State := p0 s fun p => { p with job := some ⟨7, 0, false⟩, phaseOpen := true }
theorem wit_PartitionPhase : ToPart (ring (sDusk 5) 0x06 0 (.replicate 7 0)) 0x06 16 [1] (part0 (ring (sDusk 5) 0x06 0 (.replicate 7 0))) ∧ (part0 (sDusk 5)).phaseOpen = false ∧
    ToPart (ring (inPhase S0) 0x06 0 #v[1, 0, 0, 0, 0, 0, 0]) 0x06 16 [1] (part0 (ring (inPhase S0) 0x06 0 #v[1, 0, 0, 0, 0, 0, 0])) ∧ (part0 (inPhase S0)).phaseClosed = none ∧
    ((0 : Word) = 0 ∧ ¬ (part0 S0).job.isSome = true) := ⟨part_of (by decide), by decide, part_of (by decide), by decide, by decide⟩
/-- GRAPH of one launch, NOTIFY: their descriptor at +40H, well-formed and without predecessors (four fields of 63), in graph 63. -/
def aDesc (s : State) (w : Word) : State := (((tlbBoth (inPhase s)).putWord (2 ^ 30 + 0x40) 0xFC00004000000000).putWord (2 ^ 30 + 0x68) w).putWord (2 ^ 30 + 0x70) 0xFC00000000000000
def sGraph (w : Word) : State := ring (aDesc S0 w) 0x07 0 #v[0x13F, va 0x40, 1, 0, 0, 0, 0]
def sNotify : State := ring (aDesc S0 0x7FF8000000000003) 0x0C 0 #v[va 0x1000, va 0x40, 0, 0, 0, 0, 0]
def descBad (s : State) : Bool := Desc.bad (s.desc (2 ^ 30 + 0x40)) (part0 s)
theorem wit_PartitionGraph : ToPart (sGraph 0x7FF8000000000003) 0x07 16 [0x13F, ones, 0x7F, 0, 0, 0, ones] (part0 (sGraph 0x7FF8000000000003)) ∧
    ReadsAt (sGraph 0x7FF8000000000003) 0 0 (va 0x40).toNat 64 (2 ^ 30 + 0x40) ∧ (part0 (sGraph 0)).board = 0 ∧ ((part0 (sGraph 0)).graphAt 63).used = false ∧
    descBad (sGraph 0x7FF8000000000003) = false ∧ Desc.preds ((sGraph 0x7FF8000000000003).desc (2 ^ 30 + 0x40)) = [] ∧ descBad (sGraph 0) = true ∧
    (part0 (sGraph 0)).freeEntry = some 0 ∧ (part0 (sGraph 0)).phaseCancelled = false :=
  ⟨part_of (by decide +kernel), reads_tlb (by decide) (by decide) (by decide) (by decide +kernel) (by decide +kernel) (by decide +kernel), by decide +kernel⟩
theorem wit_PartitionNotify : ToPart sNotify 0x0C 16 [ones, ones] (part0 sNotify) ∧ ReadsAt sNotify 0 0 (va 0x40).toNat 64 (2 ^ 30 + 0x40) ∧
    sNotify.engPlace 0 0 false (va 0x1000).toNat = .ok (.mem (2 ^ 30 + 0x1000) plainLeaf) ∧ ((part0 sNotify).graphAt 0).used = false ∧ (part0 sNotify).pages = [] ∧
    Apart sNotify 16 (2 ^ 30 + 0x1000) 24 :=
  ⟨part_of (by decide +kernel), reads_tlb (by decide) (by decide) (by decide) (by decide +kernel) (by decide +kernel) (by decide +kernel), place_tlb (by decide) (by decide) (by decide +kernel),
    by decide +kernel, by decide +kernel, .inl (by decide +kernel)⟩
def sCancel (h : Word) : State := ring sLive 0x08 0 #v[0, h, 0, 0, 0, 0, 0]
theorem wit_PartitionCancel : ToPart (sCancel (handleOf 7 3)) 0x08 16 [3, ones] (part0 (sCancel (handleOf 7 3))) ∧ bits (handleOf 7 3) 63 24 = 0 ∧
    ((part0 (sCancel 0)).launchAt 7).used = true ∧ ((part0 (sCancel 0)).launchAt 7).gen = bits (handleOf 7 3) 23 8 ∧ bits (0x1000000 : Word) 63 24 ≠ 0 ∧
    ((part0 (sCancel 0)).launchAt 7).gen ≠ bits (handleOf 7 2) 23 8 ∧ ((part0 (sCancel 0)).launchAt 7).cancelled = false := ⟨part_of (by decide), by decide⟩
/-- A split of the partition's domain waits for its time; a phase that is cancelled; a launch that a cancel finds not started. -/
def sWaiting : State := ring { p0 S0 (fun p => { p with job := some ⟨7, 0, false⟩ }) with split := some ⟨(part0 S0).domain, 1, ⟨0, [0], []⟩, ⟨0, [1], []⟩, [3], S0.bell, 7⟩ } 0x06 0 (.replicate 7 0)
def sOff (w : Word) : State := ring (p0 (aDesc S0 w) fun p => { p with phaseCancelled := true }) 0x07 0 #v[0x13F, va 0x40, 1, 0, 0, 0, 0]
theorem wit_PartitionMore : ToPart sWaiting 0x06 16 [1] (part0 sWaiting) ∧ sWaiting.opnd.cmd.word 1 = 0 ∧ (sWaiting.split.map fun r => decide (r.d = (part0 sWaiting).domain)) = some true ∧
    sWaiting.phaseWaits = true ∧ (ring S0 0x06 0 (.replicate 7 0)).phaseWaits = false ∧ (ring S0 0x09 0 (.replicate 7 0)).mapWaits = false ∧
    ToPart (sOff 0x7FF8000000000003) 0x07 16 [0x13F, ones, 0x7F, 0, 0, 0, ones] (part0 (sOff 0x7FF8000000000003)) ∧ (part0 (sOff 0)).phaseCancelled = true ∧
    Desc.cell ((sOff 0x7FF8000000000003).desc (2 ^ 30 + 0x40)) = 0 ∧
    ToPart (ring (p0 S0 fun p => { p with launches := [(7, { aLaunch with started := false })] }) 0x08 0 #v[0, handleOf 7 3, 0, 0, 0, 0, 0]) 0x08 16 [3, ones]
      (part0 (ring (p0 S0 fun p => { p with launches := [(7, { aLaunch with started := false })] }) 0x08 0 #v[0, handleOf 7 3, 0, 0, 0, 0, 0])) :=
  ⟨part_of (by decide +kernel), by decide +kernel, by decide +kernel, by decide +kernel, by decide +kernel, by decide +kernel, part_of (by decide +kernel), by decide +kernel, by decide +kernel, part_of (by decide +kernel)⟩
/-- MAP and UNMAP of the page at 2^38 + 2^30 (level 2), its table entry in the table at 12000H; an address off its level's span. -/
def sMap (op : Nat) (a w level : Word) : State := ring S0 op 0 #v[a, w, level, 0, 0, 0, 0]
theorem wit_MemoryMap : ToPart (sMap 0x09 0x4040000000 0x0000080000000003 2) 0x09 16 [ones, ones, 7] (part0 (sMap 0x09 0x4040000000 0x0000080000000003 2)) ∧
    ToPart (sMap 0x0A 0x4040000000 0 2) 0x0A 16 [ones, ones, 7] (part0 (sMap 0x0A 0x4040000000 0 2)) ∧
    (0x4040000000 : Word).toNat % levelSpan 2 = 0 ∧ (0x4020000000 : Word).toNat % levelSpan 2 ≠ 0 ∧ (sMap 0x09 0 0 0).entryFits 2 0x0000080000000003 = true ∧
    ((sMap 0x09 0x4040000000 0x0000080000000003 2).tableAt 0x4040000000 2 4 0x10000).isSome = true ∧ (part0 (sMap 0x09 0 0 0)).root = 0x10000 ∧
    (sMap 0x09 0x8000000000 0 0).tableAt 0x8000000000 0 4 0x10000 = none ∧ S0.keepq = [] ∧ S0.bankq = [] ∧ S0.atomq = [] ∧ S0.stores = [] ∧ S0.updates = [] ∧
    (∀ e ∈ S0.cores, e.2.wcb = []) ∧ Core.fresh.wcb = [] ∧ Apart (sMap 0x09 0 0 0) 16 0x12808 8 :=
  ⟨part_of (by decide), part_of (by decide), by decide, by decide, by decide, by decide, by decide, by decide, by decide, by decide, by decide, by decide, by decide, by decide,
    by decide, .inl (by decide +kernel)⟩
/-- TYPE: an image at +40H that is well-formed, with 48 slots of 64 bytes. -/
def sType (w2 : Word) : State := ring (((tlbBoth S0).putWord (2 ^ 30 + 0x40) 0x4000000100).putWord (2 ^ 30 + 0x48) 0x0B0) 0x0B 0 #v[0xFF, w2, 0, 0, 0, 0, 0]
theorem wit_MemoryType : ToPart (sType (va 0x40)) 0x0B 16 [0xFF, ones] (part0 (sType (va 0x40))) ∧ ReadsAt (sType (va 0x40)) 0 0 (va 0x40).toNat 64 (2 ^ 30 + 0x40) ∧
    imageOk (fun j => if j < 8 then (sType 0).homeWord (2 ^ 30 + 0x40 + 8 * j) else 0) = true ∧ imageOk (fun j => if j < 8 then (sType 0).homeWord (2 ^ 30 + 0x80 + 8 * j) else 0) = false ∧
    (va 0x44).toNat % 8 ≠ 0 :=
  ⟨part_of (by decide +kernel), reads_tlb (by decide) (by decide) (by decide) (by decide +kernel) (by decide +kernel) (by decide +kernel), by decide +kernel⟩
def sPairCmd (f : State → State) (w : Vector Word 7) : State := ring (f S0) 0x0D 0 w
theorem wit_MemoryPair : ToPart (sPairCmd id #v[63, va 0x10000, 0x10000, 0x80000000, 0x100000000, 0, 0]) 0x0D 16 [0x13F, ones, ones, ones, ones] (part0 (sPairCmd id #v[63, va 0x10000, 0x10000, 0x80000000, 0x100000000, 0, 0])) ∧
    (sPairCmd id (.replicate 7 0)).pair? 0 63 = none ∧ (va 0x10000).toNat % 2 ^ 16 = 0 ∧ ((0x8000 : Word).toNat % 2 ^ 16 ≠ 0) ∧
    ToPart (sPairCmd (paired none) #v[0x103, 0, 0, 0, 0, 0, 0]) 0x0D 16 [0x13F, ones, ones, ones, ones] (part0 (sPairCmd (paired none) #v[0x103, 0, 0, 0, 0, 0, 0])) ∧
    (0x103 : Word).getLsbD 8 = true ∧ ((sPairCmd (paired none) (.replicate 7 0)).pair? 0 3).map (·.flip) = some none ∧
    (((sPairCmd (paired (some ⟨9, 0, 0, 0⟩)) (.replicate 7 0)).pair? 0 3).map fun r => r.flip.isSome) = some true :=
  ⟨part_of (by decide), by decide, by decide, by decide, part_of (by decide), by decide, by decide, by decide⟩
/-- KLIST and KRESET of region 5, with one cell of two values, and with none. -/
def sKlist (op n : Nat) : State :=
  ring { p0 S0 fun p => { p with regions := [(5, { Region.fresh with cells := [2 ^ 30 + 8], scan := true })] } with
    cells := [(2 ^ 30 + 8, (List.range n).map fun i => ⟨0x11, i, 2, false, false, none⟩)] } op 0 (if op = 0x0E then #v[5, 0, 0, 0, 0, 0, 0x3000] else #v[5, 0, 0, 0, 0, 0, 0])
theorem wit_MemoryKeep : ToPart (sKlist 0x0E 2) 0x0E 16 [0xFFF, 0, 0, 0, 0, 0, ones] (part0 (sKlist 0x0E 2)) ∧ bufferOk 0x3000 = true ∧ bufferOk 0 = false ∧
    (sKlist 0x0E 2).multiCells 0 5 = [2 ^ 30 + 8] ∧ Apart (sKlist 0x0E 2) 16 (hostAddr 0x3000) 8 ∧ ToPart (sKlist 0x0F 1) 0x0F 16 [0xFFF] (part0 (sKlist 0x0F 1)) ∧
    (sKlist 0x0F 1).multiCells 0 5 = [] ∧ (part0 (sKlist 0x0F 1)).phaseOpen = false ∧ (part0 (inPhase S0)).phaseOpen = true :=
  ⟨part_of (by decide), by decide, by decide, by decide, .inl (by decide +kernel), part_of (by decide), by decide⟩
/-- SPLIT of a domain of two members and one granule, at the earliest time, and one tick before. -/
def sSplitCmd (t : Word) : State :=
  ring ({ p0 S0 (fun p => { p with domain := 0 }) with domains := [(0, ⟨1, [0, 1], [1]⟩)], granules := [(0, 0), (3, 0)] } |>.putWord (hostAddr 0x2000) 1 |>.putWord (hostAddr 0x2008) 3) 0x10 0
    #v[0, 1, 2, 0x2000, 0x3000, t, 0]
theorem wit_MemorySplit : let s := sSplitCmd (BitVec.ofNat 64 (S0.bell + 200))
    ToPart s 0x10 16 [63, 63, ones, ones, ones, ones] (part0 s) ∧ (part0 s).domain = 0 ∧ (s.domains.get Domain.fresh 1).members = [] ∧ (∀ g ∈ s.granules, g.2 ≠ 1) ∧
    ((List.range 64).filter (s.opnd.cmd.word 3).getLsbD) = [1] ∧ s.homeNat (hostAddr (s.opnd.cmd.word 4).toNat) 8 = 1 ∧ ((s.hostWords (s.opnd.cmd.word 4 + 8) 1).map BitVec.toNat) = [3] ∧
    (3, 0) ∈ s.granules ∧ domainOf [0] (((s.hostWords (s.opnd.cmd.word 5) 12).map BitVec.toNat).take 6) = some ⟨0, [0], [0, 0, 0, 0, 0, 0]⟩ ∧
    (domainOf [1] (((s.hostWords (s.opnd.cmd.word 5) 12).map BitVec.toNat).drop 6)).isSome = true ∧ s.bell + 200 ≤ (s.opnd.cmd.word 6).toNat ∧ s.split = none ∧ s.cells = [] ∧
    ¬ s.bell + 200 ≤ ((sSplitCmd (BitVec.ofNat 64 (S0.bell + 199))).opnd.cmd.word 6).toNat := ⟨part_of (by decide +kernel), by decide +kernel⟩
/-- SWITCH at the earliest time with frames enough, and with one too few; RESUME, STOP, DISCARD, DUSKADD. -/
def t200 : Word := BitVec.ofNat 64 (S0.bell + 200)
def sSwitch (f : Part → Part) (fr : Nat) : State := let s := p0 S0 f; ring { s with fw := { s.fw with frames := fr } } 0x11 0 #v[t200, 0, 0, 0, 0, 0, 0]
def sPlain (op : Nat) (f : Part → Part) : State := ring (p0 S0 f) op 0 (.replicate 7 0)
theorem wit_SwitchesAndStops : ToPart (sSwitch id 5000) 0x11 16 [ones] (part0 (sSwitch id 5000)) ∧ S0.bell + 200 ≤ t200.toNat ∧ (part0 (sSwitch id 0)).armed = none ∧
    (sSwitch id 5000).framesOf (part0 (sSwitch id 5000)) true ≤ 5000 ∧ 0 < (sSwitch id 0).framesOf (part0 (sSwitch id 0)) true ∧ (part0 (sArmed 0)).armed.isSome = true ∧
    ToPart (ring (sStopped 0 (.stopped 2)) 0x12 0 #v[t200, 0, 0, 0, 0, 0, 0]) 0x12 16 [ones] (part0 (ring (sStopped 0 (.stopped 2)) 0x12 0 #v[t200, 0, 0, 0, 0, 0, 0])) ∧
    (part0 (sStopped 0 (.stopped 2))).run = .stopped 2 ∧ (part0 (sStopped 0 (.stopped 2))).resume.isSome = true ∧ (part0 (p0 (sStopped 0 (.stopped 2)) fun p => { p with resume := none })).resume = none ∧
    ToPart (sPlain 0x13 id) 0x13 16 [ones] (part0 (sPlain 0x13 id)) ∧ (S0.watch 0).st ≠ .free ∧ ToPart (sPlain 0x14 fun p => { p with dumped := true, held := 3 }) 0x14 16 [] (part0 (sPlain 0x14 fun p => { p with dumped := true, held := 3 })) ∧
    (part0 (sPlain 0x14 id)).dumped = false ∧ ToPart (ring (sDusk 5) 0x15 0 #v[ones, 0, 0, 0, 0, 0, 0]) 0x15 16 [ones] (part0 (ring (sDusk 5) 0x15 0 #v[ones, 0, 0, 0, 0, 0, 0])) ∧ (part0 S0).job = none :=
  ⟨part_of (by decide +kernel), by decide, by decide, by decide +kernel, by decide +kernel, by decide, part_of (by decide), by decide, by decide, by decide, part_of (by decide), by decide,
    part_of (by decide), by decide, part_of (by decide), by decide⟩
def dev (op : Nat) (w : Vector Word 7) : State := ring (withDomain S0) op 255 w
theorem wit_DeviceCommands : ToDevice (dev 0x16 #v[0x10000000, 1, 0, 0, 0, 0, 0]) 0x16 16 [ones, ones] ∧ (0x10000000 : Word).toNat + 4096 * 1 ≤ 12 * 2 ^ 36 ∧ (0x10000000 : Nat) % 4096 = 0 ∧
    (∀ e ∈ (dev 0x16 (.replicate 7 0)).parts, ∀ q ∈ (dev 0x16 (.replicate 7 0)).part? e.1, q.short = 0) ∧
    ToDevice (dev 0x01 #v[3, 0, 0, 0, 0, 0, 0x3000]) 0x01 16 [3, 63, 0, 0, 0, 0, ones] ∧ ToDevice (dev 0x01 #v[1, 63, 0, 0, 0, 0, 0x3000]) 0x01 16 [3, 63, 0, 0, 0, 0, ones] ∧
    bufferOk 0x3000 = true ∧ bufferOk 0x3008 = false ∧ ToDevice (dev 0x17 #v[1, 2, 3, 4, 0, 0, 0x3000]) 0x17 16 [ones, ones, ones, ones, 0, 0, ones] ∧
    ToDevice (dev 0x18 #v[0x3000, 64, 0, 0, 0, 0, 0]) 0x18 16 [ones, ones] ∧ ToDevice (dev 0x19 #v[0x3000, 64, 0, 0, 0, 0, 0]) 0x19 16 [ones, ones] ∧
    ToDevice (dev 0x1A #v[11, 0, 0, 0, 0, 0, 0]) 0x1A 16 [15] ∧ ToDevice (dev 0x1A #v[12, 0, 0, 0, 0, 0, 0]) 0x1A 16 [15] ∧ Next (ring S0 0x80 255 (.replicate 7 0)) 0x80 16 ∧
    Next (ring S0 0xFF 255 (.replicate 7 0)) 0xFF 16 ∧ S0.fw.exts = [] ∧ ({ S0 with fw := { S0.fw with exts := [0] } } : State).fw.exts ≠ [] :=
  ⟨device_of (by decide), by decide, by decide, by decide, device_of (by decide), device_of (by decide), by decide, by decide, device_of (by decide), device_of (by decide),
    device_of (by decide), device_of (by decide), device_of (by decide), next_of (by decide), next_of (by decide), by decide, by decide⟩

/-! ### The outside, the machine as a whole -/

/-- Boot that fails and one that does not; a restart with a command taken, and with a completion logged. -/
def sBoot (ok : Bool) : State := { S0 with fw := { S0.fw with flash := { S0.fw.flash with signed := ok } }, opnd := { Operand.zero with v := 77, c := 2, b := 0x801 } }
def sRestart (log : List Completion) (taken : List Nat) : State := let s := ring S0 0 0 (.replicate 7 0); { s with fw := { s.fw with fwst := 3, log := log, taken := taken } }
theorem wit_ResetAndLinks : (sBoot true).fw.flash.boots = true ∧ (sBoot false).fw.flash.boots = false ∧ S0.fw.fwst ≠ 1 ∧ (withRing S0).fw.fwst = 1 ∧ (sRestart [] [7]).fw.fwst = 3 ∧ stillIs (sRestart [] []) = true ∧ noPages (sRestart [] []).parts = true ∧ (∀ l, l < 4 → ((sRestart [] []).linkAt l).up = true ∧ ((sRestart [] []).linkAt l).retrain = none) ∧ RingRoom { sRestart [] [7] with fw := { (sRestart [] [7]).fw with fwst := 1 } } 16 ∧
    (sRestart [⟨3, 9, 1, 2⟩] []).fw.log = [⟨3, 9, 1, 2⟩] ∧ ringSize (sRestart [] []).fw.cpb = some 16 ∧ (sRestart [] []).fw.fcomp < 2 ^ 32 ∧ S0.fw.waiting = [] :=
  ⟨by decide, by decide, by decide, by decide +kernel, by decide +kernel, by decide +kernel, by decide +kernel, by decide +kernel, room_of (by decide +kernel), by decide +kernel⟩
/-- A notify page of 100 indices, 99 of them admitted: the field holds 99, and 100. -/
def sNotifyPage (adm : Nat) (w : Word) : State :=
  { p0 S0 fun p => { p with pages := [(2 ^ 30, ⟨2 ^ 30, 7, 100, adm, []⟩)], launches := [(7, { aLaunch with notify := true })] } with opnd := { Operand.zero with b := 2 ^ 30, v := w } }
theorem wit_ResetAndLinks_notify : (part0 (sNotifyPage 99 99)).pages = [((sNotifyPage 99 99).opnd.b, ⟨2 ^ 30, 7, 100, 99, []⟩)] ∧ (99 : Word).toNat ≤ 99 ∧ 99 < (100 : Word).toNat ∧
    ((part0 (sNotifyPage 99 100)).launchAt 7).notify = true ∧ ((part0 (sNotifyPage 99 100)).launchAt 7).used = true ∧ ((part0 (sNotifyPage 99 100)).launchAt 7).cancelled = false := by decide
def sLink (r : Option Nat) (n c : Nat) : State :=
  { (S0.onLink 11 fun l => { l with up := true, retrain := r }) with bell := n, opnd := { Operand.zero with a := 11, c := c } }
theorem wit_ResetAndLinks_links : (sLink none 0 0).linkAt 11 = { S0.linkAt 11 with up := true, retrain := none } ∧ ((sLink (some 5) 20005 0).linkAt 11).retrain = some 5 ∧
    (sLink (some 5) 20005 0).bell ≤ 5 + 20000 ∧ 5 + 20000 < (sLink (some 5) 20006 0).bell ∧ (sLink (some 5) 0 0).linkLoads = [] ∧ (sLink (some 5) 0 0).fw.waiting = [] ∧ (sLink (some 5) 6 1).opnd.c = 1 := by decide
/-- The host at a cell of two values and of one, at a line that it sees and one that it does not, by mask and by word, at the right and at a wrong slice. -/
def sHost (a b c : Nat) (seen : Bool) : State :=
  { S0 with hostVisible := if seen then [1] else [], cells := [(2 ^ 30 + 8, [⟨1, 3, 2, false, false, none⟩]), (2 ^ 30 + 16, [⟨1, 3, 2, false, false, none⟩, ⟨2, 4, 2, false, false, none⟩])],
            hostOwned := [2 ^ 24], opnd := { Operand.zero with a := a, b := b, c := c, v := 0x1122334455667788 }, fw := { S0.fw with peers := [0] } }
theorem wit_OutsideAccesses : (sHost (2 ^ 30) 0 0 false).visible (2 ^ 30) = false ∧ (sHost (2 ^ 30 + 8) 0x100 0 true).visible (2 ^ 30 + 8) = true ∧ (sHost 0 0 0 true).remaps = [] ∧
    (sHost (2 ^ 30 + 8) 0 64 true).opnd.c - 1 ≠ (sHost (2 ^ 30 + 8) 0 64 true).homeSlice (2 ^ 30 + 8) ∧ (sHost (2 ^ 30 + 8) 0 0 true).poisoned (2 ^ 30 + 8) 8 = false ∧
    (∃ e ∈ (sHost (2 ^ 30 + 16) 0 0 true).written, 1 < ((sHost (2 ^ 30 + 16) 0 0 true).cellVals (e.1 / 4 * 4)).length) ∧
    (∀ e ∈ (sHost (2 ^ 30 + 8) 0x100 0 true).written, ((sHost (2 ^ 30 + 8) 0x100 0 true).cellVals (e.1 / 4 * 4)).length = 1) ∧ (sHost (2 ^ 30 + 8) 0x100 0 true).written ≠ [] := by decide
theorem wit_OutsideAccesses_peers : (2 ^ 24 ∈ (sHost (2 ^ 30 + 8) 0 1 true).hostOwned) ∧ (2 ^ 30 + 64) / 64 ∉ (sHost 0 0 0 true).hostOwned ∧ (sHost 0 0 0 true).atomq = [] ∧
    (sHost 0 0 0 true).fw.peers ≠ [] ∧ S0.fw.peers = [] ∧ okIs (match (sHost 0 0 0 true).paKind (2 ^ 30 + 8) with | .tier => (.ok 0 : Except Nat Nat) | _ => .error 0) 0 = true ∧
    okIs (match (sHost 0 0 0 true).paKind (2 ^ 45) with | .reserved => (.ok 0 : Except Nat Nat) | _ => .error 0) 0 = true ∧ (2 ^ 46 : Nat) ≤ 2 ^ 46 := by decide
/-- A well-formed instruction has a word; a word decodes; a half word has its low bit clear. -/
theorem wit_RoundTrip : WellFormed (.li 3 (-1) false) = true ∧ (encode (.li 3 (-1) false)).isSome = true ∧ (decode32 0x3BFFFFED#32).isOk = true ∧ (0x1192 : BitVec 16).getLsbD 0 = false := by decide
/-- A step that issues: the line of the pc comes from memory, or stands in the buffer; its bytes decode, or are illegal. -/
def sStep (w : Nat) (buf : Bool) : State := c0 (State.reset.placed w) fun c => { c with fetch := if buf then [⟨2 ^ 32, leBytes 64 w⟩] else [] }
def lineIs (w : Nat) : Bool := match ((sStep w false).endPasses [0]).fetchLine 0 (2 ^ 38) with
  | .ok (l, _) => decide (l.length = 64) && decide ((l.take 4) = leBytes 4 w)
  | .error _ => false
theorem wit_StepIssues : (sStep 0x3BFFFFED true).schedule = [.issue 0] ∧ Turn { sStep 0x3BFFFFED true with schedule := [], cur := 0 } 0 ∧
    (((sStep 0x3BFFFFED true).endPasses [0]).watch 0).pc.toNat = 2 ^ 38 ∧ (((sStep 0x3BFFFFED true).endPasses [0]).coreAt 0).slot (((sStep 0x3BFFFFED true).endPasses [0]).watch 0).slotNo = .free ∧
    ((sStep 0x3BFFFFED true).endPasses [0]).buffered 0 (2 ^ 38) = some (leBytes 64 0x3BFFFFED) ∧ ((sStep 0x3BFFFFED false).endPasses [0]).buffered 0 (2 ^ 38) = none ∧
    lineIs 0x3BFFFFED = true ∧ (decode (leBytes 4 0x3BFFFFED)).isOk = true ∧ (decode (leBytes 4 0xFFFFFFFF)).isOk = false ∧
    ((sStep 0x3BFFFFED true).endPasses [0]).buffered 0 (2 ^ 38 + 2) = ((sStep 0x3BFFFFED true).endPasses [0]).buffered 0 (2 ^ 38) :=
  ⟨by decide, turn_of (by decide), by decide +kernel⟩
/-- The code's page lies in host memory whose link retrains; and the line of the pc holds an uncorrectable error. -/
def sFar : State := (((sStep 0x3BFFFFED false).putWord 0x12800 0x400000000000000F).onLink 0 fun l => { l with up := true, retrain := some 0 })
def noLineIs (s : State) (n : Nat) : Bool := match (s.endPasses [0]).fetchLine 0 (2 ^ 38) with
  | .ok _ => false
  | .error e => decide (e = n)
theorem wit_StepIssues_noLine : noLineIs sFar waitCause = true ∧ (sFar.endPasses [0]).buffered 0 (2 ^ 38) = none ∧
    noLineIs { sStep 0x3BFFFFED false with ecc := [placePa] } 5 = true ∧ sFar.schedule = [.issue 0] ∧ Turn { sFar with schedule := [], cur := 0 } 0 :=
  ⟨by decide +kernel, by decide +kernel, by decide +kernel, by decide, turn_of (by decide)⟩
theorem wit_StepIssues_events : (encode .tlbWalk).isNone = true ∧ (encode (.li 3 (-1) false)).isNone = false := by decide
theorem wit_MemoryCanonical : State.reset.memWf ∧ S0.memWf := ⟨by unfold State.memWf; decide, by unfold State.memWf; decide⟩
theorem wit_MemoryCanonical_step : (match step S0 with | .next t => decide (t.mem = S0.mem) | _ => false) = true := by decide +kernel
/-- No page is bound where the commands and accesses write; nothing waits; the words of a KLIST buffer, a QUERY, an ATTEST and a table entry. -/
theorem wit_StepIssues_due : (sStep 0x3BFFFFED true).dueMove = none ∧ ({ sStep 0x3BFFFFED true with schedule := [] } : State).turn 0 = none ∧
    (({ sStep 0x3BFFFFED true with schedule := [], cur := 0 } : State).coreAt 0).owed = [] ∧ (sRestart [] []).dueMove = none :=
  ⟨by decide +kernel, by decide +kernel, by decide +kernel, by decide +kernel⟩
/-- The time of a snap has come, and the move that is due begins its hold. -/
theorem wit_StepIssues_dueMove : ∃ m, (sSnap false).dueMove = some m := by
  rw [← Option.isSome_iff_exists, State.dueMove, List.find?_isSome]
  refine ⟨ev .snapHold 0, by decide +kernel, ?_⟩
  have h : ∃ t, (sSnap false).makeMove (ev .snapHold 0) = .next t ∧ t.snaps = [aSnap true] := ⟨_, rfl, by decide +kernel⟩
  obtain ⟨t, ht, hd⟩ := h
  rw [State.changes, ht]
  refine decide_eq_true fun h => ?_
  have : ({ t with opnd := (sSnap false).opnd } : State).snaps = (sSnap false).snaps := congrArg State.snaps h
  exact absurd (hd.symm.trans this) (by decide +kernel)
theorem wit_Commands_noPage : noPages (sMap 0x09 0x4040000000 0x0000080000000003 2).parts = true ∧ noPages (sKlist 0x0E 2).parts = true ∧ noPages (dev 0x01 (.replicate 7 0)).parts = true ∧
    noPages (dev 0x17 (.replicate 7 0)).parts = true ∧ S0.linkLoads = [] ∧ (∀ e ∈ S0.cores, e.1 = 0) ∧ (∀ k, k < 4 → (S0.watch k).path = []) ∧ (sMap 0x09 0 0 0).mapWaits = false := by decide +kernel
theorem wit_MemoryKeep_few (h : Nat) : (((sKlist 0x0E 2).multiCells 0 5).filter fun a => (sKlist 0x0E 2).keepHome a = h).length ≤ 65536 := by
  have : ((sKlist 0x0E 2).multiCells 0 5).length ≤ 65536 := by decide +kernel
  exact Nat.le_trans (List.length_filter_le _ _) this
theorem wit_OutsideAccesses_heard : stillIs (sHost 0 0 0 true) = true ∧ noPages (sHost 0 0 0 true).parts = true ∧ (sHost 0 0 0 true).hostWaits = false ∧
    (S0.onLink 2 fun l => { l with up := true, retrain := some 5 }).hostWaits = true ∧ (∃ x ∈ ({ sHost (2 ^ 30) 0 0 true with remaps := [⟨0, 2 ^ 30 + 32, .read⟩] } : State).remaps, x.requester = 0 ∧ x.addr / 64 = 2 ^ 24) ∧
    (0x10, S0.fw.cqb) ∈ block S0 := by decide +kernel
/-- A request that the mapping before a split sends to a slice that is its home no longer. -/
def sStale : State := { sHost (2 ^ 30) 0 0 true with before := ([(0, ⟨0, [0], []⟩)], [(1, 0)]), domains := [(1, ⟨0, [1], []⟩)], granules := [(1, 1)] }
theorem wit_OutsideAccesses_stale : sStale.homeBefore (2 ^ 30) ≠ sStale.homeSlice (2 ^ 30) := by decide +kernel

/-! ## Single steps, with results that the specification's text, tables and examples give -/

/-- The state after one word, as the schedule fetches, decodes and executes it. -/
def afterWord (s : State) (w : Nat) (P : State → Bool) : Bool := match step (s.withFetchWord 32 w) with
  | .next t => P t
  | _ => false
/-- What the timed units of watch 0 will deliver: the slots that it takes, the value and the flags. -/
def flying (t : State) : List (Nat × Word × BitVec 6) := ((t.watch 0).img.flights).map fun f => (f.due, f.val, f.fl)
/-- The value that a port of watch 0 reads as. -/
def portIs (t : State) (p : RPort) : Word := ((t.watch 0).port p).toScalar
def beads (s : State) (n : Nat) : State := w0 s fun w => { w with bc := n }
/-- The word's own watch: registers, latches and flags from reset. -/
def U : State := State.reset

/-- R107: `li x7, -1` and `lh x6, 0x20000`, which shifts x6 up by 21 bits. -/
theorem test_li : afterWord U 0x3BFFFFED (fun t => (t.watch 0).xRead 7 = 0xFFFFFFFFFFFFFFFF) = true := by decide +kernel
theorem test_lh : afterWord (regs U [(6, 7)]) 0x3440000D (fun t => (t.watch 0).xRead 6 = 0xE20000) = true := by decide +kernel
/-- R109: a w-form `shr` of 0x80000000 by 0. R110: a w-form `remn` by 0 of 0x90000000, and MIN divided by -1. -/
theorem test_shr_w : afterWord (latches U [(.iaA, 0x80000000)]) 0x0BC01C21 (fun t => portIs t .ia = 0xFFFFFFFF80000000) = true := by decide +kernel
theorem test_remn_w : imResult .remn true 0x90000000 0 = 0xFFFFFFFF90000000 ∧ imResult .div false 0x8000000000000000 0xFFFFFFFFFFFFFFFF = 0x8000000000000000 ∧
    imResult .rem false 0x8000000000000000 0xFFFFFFFFFFFFFFFF = 0 ∧ imResult .div true 5 0 = 0xFFFFFFFFFFFFFFFF := by decide
/-- R109, R110: the corners that the tables name. -/
theorem test_ia_corners : iaResult .clz false 5 0 = 64 ∧ iaResult .ffs true 5 0 = 32 ∧ iaResult .bxt false 0xABCD 0x804 = 0xBC ∧
    iaResult .sxt false 0x80 8 = 0xFFFFFFFFFFFFFF80 ∧ iaResult .adds false 0x7FFFFFFFFFFFFFFF 1 = 0x7FFFFFFFFFFFFFFF ∧
    iaResult .abs true 0 0x80000000 = 0x7FFFFFFF ∧ iaResult .bsw false 0 0x0102030405060708 = 0x0807060504030201 := by decide
theorem test_mulh : imResult .mulh false 0xFFFFFFFFFFFFFFFF 2 = 0xFFFFFFFFFFFFFFFF ∧ imResult .mulhn false 0xFFFFFFFFFFFFFFFF 2 = 1 := by decide
/-- The worked schedule of the scalar floats at 4 beads: 1.0625 × 1.0625 − 1.125 in one rounding, and the product in one of its own. -/
theorem test_fma : afterWord (beads (latches (regs U [(2, 0xBFF2000000000000)]) [(.faA, 0x3FF1000000000000), (.faB, 0x3FF1000000000000)]) 4) 0x05C80001
    (fun t => flying t = [(3, 0x3F70000000000000, 0)]) = true := by decide +kernel
theorem test_fmul : afterWord (beads (latches (regs U [(1, 0x3FF1000000000000)]) [(.faA, 0x3FF1000000000000)]) 4) 0x03C81401
    (fun t => flying t = [(3, 0x3FF2000000000000, 0x10)]) = true := by decide +kernel
/-- R156's example: 1.01001 and a last bead of 30, to 6 beads and to 4. -/
theorem test_narrow : (faResult .frnd 6 .rne 0 0 0x3FF4800000400000).1 = 0x3FF4800000000000 ∧ (faResult .frto 6 .rne 0 0 0x3FF4800000400000).1 = 0x3FF4C00000000000 ∧
    (faResult .frnd 4 .rne 0 0 0x3FF4800000000000).1 = 0x3FF4000000000000 ∧ (faResult .frnd 4 .rne 0 0 0x3FF4C00000000000).1 = 0x3FF5000000000000 := by decide +kernel
/-- R191, R192: poles, and an argument beyond reduction. -/
theorem test_sf : (sfResult .log2 23 .rne 0 0).1 = 0xFFF0000000000000 ∧ (sfResult .log2 23 .rne 0 0x4020000000000000).1 = 0x4008000000000000 ∧
    (sfResult .rsqrt 23 .rne 0 0x8000000000000000).1 = 0xFFF0000000000000 ∧ (sfResult .tanh 23 .rne 0 0xFFF0000000000000).1 = 0xBFF0000000000000 ∧
    (sfResult .sin 23 .rne 0 0x41D0000000000000).1 = 0x7FF8000000000000 ∧ (sfResult .exp2 23 .rne 0 0x4008000000000000).1 = 0x4020000000000000 := by decide +kernel
/-- R153: a third at 52 beads, and the root of 4. -/
theorem test_fd : (fdResult .fdiv 52 .rne 0x3FF0000000000000 0x4008000000000000).1 = 0x3FD5555555555555 ∧
    (fdResult .fsqrt 52 .rne 0 0x4010000000000000).1 = 0x4000000000000000 := by decide +kernel
/-- R158, R159: bead counts, at the ends of their range, and the mode. -/
theorem test_bcs : afterWord U 0x06000299 (fun t => (t.watch 0).bc = 20) = true ∧
    afterWord (regs U [(5, 0xFFFFFFFFFFFFFF00)]) 0x06280079 (fun t => (t.watch 0).bc = 1) = true ∧
    afterWord (regs U [(5, 50)]) 0x06280079 (fun t => (t.watch 0).bc = 52) = true := by decide +kernel
theorem test_rms : afterWord U 0x07000099 (fun t => (t.watch 0).fst.getLsbD 2) = true := by decide +kernel
/-- R111: `bl` with an offset of 32 units of 2 bytes; a branch whose guard g1 is false. -/
theorem test_bl : afterWord U 0x10000415 (fun t => (t.watch 0).pc = 0x4000000040 && (t.watch 0).xRead 31 = 0x4000000004) = true ∧
    afterWord U 0x01000555 (fun t => (t.watch 0).pc = 0x4000000004 && (t.watch 0).xRead 31 = 0) = true := by decide +kernel
/-- R112: `jr x31`. -/
theorem test_jr : afterWord (regs U [(31, 0x4000000100)]) 0x300003F5 (fun t => (t.watch 0).pc = 0x4000000100) = true := by decide +kernel
/-- R47, R356: `ldd x7, x2, -8` asks for a line that its slice fetches first, and its register keeps its value until the bytes land. -/
theorem test_ldd : afterWord (sMem (2 ^ 38 + 16)) 0x19C5FF11
    (fun t => (t.watch 0).loads.map (fun l => (l.reg, l.size, l.signed, l.ea)) = [(.x 7, 8, false, 0x4000000008)] && (t.watch 0).xRead 7 = 0) = true := by decide +kernel
/-- R103: `std` to a page of memory waits in the write-combining buffer, lowest byte first. -/
theorem test_std : afterWord (regs U [(6, 0x4000000100), (4, 0x0102030405060708)]) 0x990C0011
    (fun t => (t.coreAt 0).wcb.flatMap (·.bytes) = [(2 ^ 30 + 0x100, some 8), (2 ^ 30 + 0x101, some 7), (2 ^ 30 + 0x102, some 6), (2 ^ 30 + 0x103, some 5),
      (2 ^ 30 + 0x104, some 4), (2 ^ 30 + 0x105, some 3), (2 ^ 30 + 0x106, some 2), (2 ^ 30 + 0x107, some 1)]) = true := by decide +kernel
/-- R148: `pause x5, #16` is held until the marker, at 2^24 at most. -/
theorem test_pause : afterWord (regs U [(5, 4)]) 0x01280219 (fun t => (t.watch 0).pauseCnt = 20) = true ∧
    afterWord (regs U [(5, 0x1000000)]) 0x01280219 (fun t => (t.watch 0).pauseCnt = 0x1000000) = true := by decide +kernel
/-- R146: `done` parks its watch, and no later word is fetched. -/
theorem test_done : afterWord U 0x0D000019 (fun t => (t.watch 0).st = .parked && (t.watch 0).after = .done) = true := by decide +kernel
/-- R48, R200, R376: an illegal word traps: handler mode, with the cause and the word in its registers. -/
theorem test_trap : afterWord (p0 S0 fun q => { q with tvb := 0x4000000201 }) 0xFFFFFFFF
    (fun t => (t.watch 0).hm && (t.watch 0).pc = 0x4000000200 && (t.watch 0).tval = 0xFFFFFFFF && (t.watch 0).tcause = 1 && (t.watch 0).taddr = 0x4000000000) = true := by decide +kernel
/-- The core of the device chapter's example: its board and rod. -/
theorem test_core_id : boardOf 0xB66 = 0x2D9 ∧ rodOf 0xB66 = 0x5B := by decide
/-- The homes of the slices chapter's example, before and after the split. -/
theorem test_home : State.homeSlice { State.reset with domains := [(3, ⟨2, [0, 1, 2, 3], [0x10001, 0x20002]⟩)], granules := [(72, 3)] } 0x1234567880 = 3 ∧
    State.homeSlice { State.reset with domains := [(7, ⟨1, [2, 3], [1]⟩)], granules := [(72, 7)] } 0x1234567880 = 2 := by decide
/-- The macros chapter's example: both columns of the row, and the variation whose scale overflows. -/
theorem test_macro : dotInt [0x50, 0x01] [0x50, 0x01] = 0x1000001 ∧ rne32 0x1000001 = 0x42800000 ∧
    macStep 0x37000000 0x1000001 false one32 0x40400000 = 0x43400000 ∧ macStep 0 0x200000 false one32 0x40400000 = 0x41C00000 ∧
    macStep 0 0x200000 false one32 0x7F000000 = 0x7F800000 ∧ macStep 0 0 true one32 one32 = 0x7FC00000 := by decide +kernel
/-- The watches chapter's example of deposits to one lane: damped by one bit, added, and overwritten with k = 0. -/
theorem test_deposit : depLane 1 1 0 0x40800000 = 0x40000000 ∧ depLane 1 1 0x40000000 0x3F800000 = 0x3FC00000 ∧ depLane 2 1 0x3FC00000 0x3E800000 = 0x3FE00000 ∧
    depLane 1 0 0x40000000 0x3F800000 = 0x3F800000 ∧ resClass 0x3FC0000000000000 (-4) = 1 ∧ resClass 0x3FE0000000000000 (-4) = 3 ∧
    resClass 0x3FA0000000000000 (-4) = 0 := by decide +kernel
/-- The engines chapter's example: 1.0625 to f8, by RTO and by RNE. -/
theorem test_convert : convElem .w32 .f8 3 .rto 0x3F880000 = 0x39 ∧ convElem .w32 .f8 3 .rne 0x3F880000 = 0x38 := by decide +kernel
/-- R400: a write to host memory with a module down is discarded and stands in the lost window; with every link up it is numbered. -/
theorem test_lost_window :
    let up := (List.range 12).foldl (fun (s : State) n => s.onLink n fun l => { l with up := true }) State.reset
    let cut := up.onLink 2 fun l => { l with up := false, sent := 7 }
    (((cut.post (2 ^ 50)).post (2 ^ 50)).linkAt 2).lost = 2 ∧ (((cut.post (2 ^ 50)).post (2 ^ 50)).linkAt 2).lostFirst = 7 ∧
      ((cut.post (2 ^ 50)).linkAt 0).sent = 0 ∧ ((up.post (2 ^ 50)).linkAt 0).sent = 1 ∧ ((up.post (2 ^ 50)).linkAt 0).lost = 0 := by decide

/-! ### Further clauses: transports, KEEP stores, fences -/

/-- `t2` and `ti` to f registers: both bound in a window of one pip, values that fit it and one that does not. -/
def sBoth : State := w0 (regs S0 [(1, 0x3FF1000000000000), (4, 0x3FF0800000000000)]) fun w =>
  { w with windows := [⟨1, ((Vector.replicate 16 none).set 2 (some 0)).set 3 (some 5), false⟩] }
def sBothTop : Window := ⟨1, ((Vector.replicate 16 none).set 2 (some 0)).set 3 (some 5), false⟩
theorem wit_FloatTransports : Turn sBoth 0 ∧ (((ready sBoth 0).touchSrc 0 (.x 1)).touchSrc 0 (.x 4)).watch 0 = (ready sBoth 0).watch 0 ∧
    ((ready sBoth 0).watch 0).windows = [sBothTop] ∧ ((sBothTop.vals[2]?).getD none).isSome = true ∧ ((sBothTop.vals[3]?).getD none).isSome = true ∧
    fits 1 ((ready sBoth 0).read 0 (.x 1)).toScalar = true ∧ fits 1 ((ready sBoth 0).read 0 (.x 4)).toScalar = false ∧
    fits 1 ((0x7F0 : BitVec 12).signExtend 64) = fits 1 0x7F0 := ⟨turn_of (by decide), by decide⟩
/-- A source that holds the constant of a `ti`, and a `t2` whose trigger passes its check behind the latch that it writes. -/
theorem wit_OtherTriggers : Turn (regs S0 [(1, 0xFFFFFFFFFFFFFFF8)]) 0 ∧
    (ready (regs S0 [(1, 0xFFFFFFFFFFFFFFF8)]) 0).read 0 (.x 1) = .scalar ((0xFF8 : BitVec 12).signExtend 64) ∧
    (match (ready ((regs S0 [(1, 7)]).onWatch 0 fun w => arrives w (BitVec.allOnes 32) ((ready (regs S0 [(1, 7)]) 0).read 0 (.x 1)) (.latch .fdA)) 0).trigCheck
        0 (.fd .fdiv) ((ready (regs S0 [(1, 7)]) 0).read 0 (.x 2)) with
      | .ok _ => true
      | .error _ => false) = true := ⟨turn_of (by decide), rfl, by decide⟩
/-- Stores to KEEP pages: at the counter's limit; a first store, which enrols its watch; a region without a slot; non-temporal ones. -/
theorem wit_StoresKeep_limit : onMem (sEnr 0xFFFFFF) .store (2 ^ 39 + 8) (2 ^ 30 + 8) (leaf 1 5 (2 ^ 30)) ∧ ((sEnr 0xFFFFFF).watch 0).endPass.enrolled 5 = some 1 ∧
    0xFFFFFF ≤ (((sEnr 0xFFFFFF).watch 0).enrol 1).clock.get 0 3 := ⟨⟨turn_of (by decide), by decide, rfl⟩, by decide⟩
theorem wit_StoresKeep_enrol : onMem (sKeep 8) .store (2 ^ 39 + 8) (2 ^ 30 + 8) (leaf 1 5 (2 ^ 30)) ∧ ((sKeep 8).watch 0).endPass.enrolled 5 = none ∧
    ((sKeep 8).part? 0).isSome = true ∧ (((sKeep 8).watch 0).endPass.enrol 0).valid = false ∧ 0 < min ((ready (sKeep 8) 0).region 0 5).limit 64 ∧
    ((ready (sKeep 8) 0).region 0 5).slots.get .free 0 = .free ∧ ((ready (sKeep 8) 0).region 0 5).counters.get 0 0 < 0xFFFFFF ∧
    (∀ x ∈ ((sKeep 8).watch 0).endPass.windows, x.spilled = false) ∧ Clear (ready (sKeep 8) 0) 0 [((2 ^ 30 + 8), 8)] :=
  ⟨⟨turn_of (by decide), by decide, rfl⟩, by decide⟩
theorem wit_StoresKeep_noslot : onMem (limit (sKeep 8) 0) .store (2 ^ 39 + 8) (2 ^ 30 + 8) (leaf 1 5 (2 ^ 30)) ∧
    ((limit (sKeep 8) 0).watch 0).endPass.enrolled 5 = none ∧ ((ready (limit (sKeep 8) 0) 0).region 0 5).limit = 0 :=
  ⟨⟨turn_of (by decide), by decide, rfl⟩, by decide⟩
theorem wit_StoresKeep_vector : (ready (sKeep 32) 0).resolveAll 0 .store (2 ^ 39 + 32) 32 = .ok [(.mem (2 ^ 30 + 32) (leaf 1 5 (2 ^ 30)), 2 ^ 39 + 32, 0, 32)] ∧
    (2 ^ 39 + 32) % 32 = 0 := ⟨rfl, by decide⟩
/-- A release to a KEEP page by an enrolled watch, aligned and not. -/
theorem wit_KeepRelease : onMem (sEnr 5) .store (2 ^ 39 + 8) (2 ^ 30 + 8) (leaf 1 5 (2 ^ 30)) ∧ ((sEnr 5).watch 0).path = [] ∧ (sEnr 5).keepq = [] ∧
    (sEnr 5).linkLoads = [] ∧ (∀ n, ((sEnr 5).linkAt n).retrain = none) ∧ ((sEnr 5).watch 0).endPass.enrolled 5 = some 1 ∧ (2 ^ 39 + 8) % 8 = 0 ∧
    (((sEnr 5).watch 0).endPass.enrol 1).clock.get 0 3 < 0xFFFFFF ∧ onMem (enr (sKeep 4) 5) .store (2 ^ 39 + 4) (2 ^ 30 + 4) (leaf 1 5 (2 ^ 30)) ∧
    (2 ^ 39 + 4) % 8 ≠ 0 ∧ ((enr (sKeep 4) 5).watch 0).endPass.enrolled 5 = some 1 :=
  ⟨⟨turn_of (by decide), by decide, rfl⟩, rfl, rfl, rfl, fun n => links_all _ (fun l => l.retrain = none) (by decide) n, by decide, by decide, by decide,
    ⟨turn_of (by decide), by decide, rfl⟩, by decide⟩
/-- A fence: its links are down and have lost nothing, nothing being on its way; one of them has lost a write, and the partition takes the
trap. -/
def sLost (n : Nat) : State := p0 (S0.onLink 4 fun l => { l with lost := n, lostFirst := 9 }) fun p => { p with linkTrap := true }
theorem unheld_of {s : State} (h : (decide ((s.watch 0).path = [] ∧ s.keepq = [] ∧ s.linkLoads = [] ∧ s.stores = [])) = true)
    (hl : ∀ i : Fin 12, s.links[i].retrain = none) : Unheld s 0 := by
  have h := of_decide_eq_true h
  exact ⟨h.1, h.2.1, h.2.2.1, fun n => links_all s (fun l => l.retrain = none) hl n, fun f hf => (by rw [h.2.2.2] at hf; cases hf)⟩
theorem wit_FenceWord : Turn (sLost 0) 0 ∧ Unheld (sLost 0) 0 ∧ (∀ n ∈ scopeLinks 5, (sLost 0).linkDown n = true → ((sLost 0).linkAt n).lost = 0) ∧
    (sLost 0).stores = [] ∧ (sLost 0).atomq = [] ∧ ((sLost 0).coreAt 0).wcb = [] :=
  ⟨turn_of (by decide), unheld_of (by decide) (by decide), by decide⟩
theorem wit_FenceWord_lost : Turn (sLost 3) 0 ∧ Unheld (sLost 3) 0 ∧ 4 ∈ scopeLinks 5 ∧ (sLost 3).linkDown 4 = true ∧ 0 < ((sLost 3).linkAt 4).lost ∧
    (((sLost 3).part? 0).map (·.linkTrap)) = some true := ⟨turn_of (by decide), unheld_of (by decide) (by decide), by decide⟩
/-- `wb` of a page that does not translate, and of one that stands in a reserved range. -/
theorem wit_Housekeeping_fault : Unheld (sWb 64 8) 0 ∧ meetsWindow 64 8 = false ∧ (ready (sWb 64 8) 0).translate 0 0 64 = none ∧
    (page S0 0 0 (59 * 2 ^ 30)).badPa (leaf 0 0 (59 * 2 ^ 30)) (59 * 2 ^ 30) = true := ⟨unheld_of (by decide) (by decide), by decide⟩

/-! ### Further clauses: elements, pins and the macros -/

/-- A store of an element to a KEEP page: by a watch that can enrol, and by one whose four enrolments are of another region. -/
def sKeepEl (f : State → State) : State := f (page (sTen (hdr 2 0 (2 ^ 39) 16 32) [(1, 15)]) 1 5 (2 ^ 30))
def keepStamps (s : State) : Bool := let r := (ready s 0).touchSrc 0 (.x 1)
  ((r.writerAll 0 (r.trigRegions 0 (.ls .stt) 15 (some (hdr 2 0 (2 ^ 39) 16 32)))).bind fun u =>
    u.stampAll 0 [] (r.trigRegions 0 (.ls .stt) 15 (some (hdr 2 0 (2 ^ 39) 16 32)))).isSome
theorem wit_ElementTriggers_keep : Performs (sKeepEl id) 0 gd .ls ∧ keepStamps (sKeepEl id) = true ∧ Performs (sKeepEl full4) 0 gd .ls ∧
    keepStamps (sKeepEl full4) = false := ⟨performs_of (by decide +kernel), by decide +kernel, performs_of (by decide +kernel), by decide +kernel⟩
/-- A pin of a line that its board does not hold and its slice does. -/
def rPinAbsent : State := (ready { ((sPin 1 []).onBoard 0 fun b => { b with ways := [] }) with
  slices := [(0, ⟨[(2 ^ 24, SliceLine.fresh)], [], [], []⟩)] } 0).touchSrc 0 (.x 1)
theorem wit_PinTriggers_absent : rPinAbsent.inMiss (2 ^ 24) = false ∧ (rPinAbsent.boardAt 0).way? (2 ^ 24) = none ∧
    ((rPinAbsent.boardAt 0).victimBank (2 ^ 24)).isSome = true ∧ (rPinAbsent.needLine (2 ^ 24) false).fills plainLeaf (2 ^ 24 * 64) = true ∧
    (((rPinAbsent.needLine (2 ^ 24) false).boardAt 0).victimBank (2 ^ 24)).isSome = true := by decide +kernel
/-- A trigger of every core of rod 0, all of one operation, and what the rod's macros hold. -/
def allT (o : MxOp) (a b c d : Word) : List MxTrig := (rodCores 0).map fun k => ⟨k, 0, k, 0, 0, o, a, b, c, d⟩
def sAll (l : List MxTrig) (f : Nat → Mac) : State := (rodCores 0).foldl (fun s c => s.onCore c fun v => { v with mac := f c }) (sRod l [])
/-- A macro whose slot 0 has a format. -/
def macOf (f : TileFmt) : Mac := { Mac.fresh with tiles := [(0, { Tile.fresh with fmt := f })] }
def starts (l : List MxTrig) (s : State) : Bool := decide (s.rodNext 0 = some l) && !(s.beforeReads l).storesAhead l
/-- Unbound tensors; a malformed datum; an empty slot; slots of two formats; an odd count of half rows; and one that runs. -/
theorem wit_RodOperations_checks :
    (starts (allT .rowld 3 0 0 0) (sAll (allT .rowld 3 0 0 0) fun _ => Mac.fresh) && decide ((sAll [] fun _ => Mac.fresh).tensor? 0 3 = none)) = true ∧
    (starts (allT .aread 9 0 0 0) (sAll (allT .aread 9 0 0 0) fun _ => Mac.fresh) && (⟨0, 0, 0, 0, 0, .aread, 9, 0, 0, 0⟩ : MxTrig).malformed 0) = true ∧
    (starts (allT .mmul 0 0x20 0 0) (sAll (allT .mmul 0 0x20 0 0) fun _ => Mac.fresh) && !(⟨0, 0, 0, 0, 0, .mmul, 0, 0x20, 0, 0⟩ : MxTrig).malformed 0 &&
      (⟨0, 0, 0, 0, 0, .mmul, 0, 0x20, 0, 0⟩ : MxTrig).misfit 0 Mac.fresh) = true ∧
    ((⟨0, 0, 0, 0, 0, .mmul, 0, 0x20, 0, 0⟩ : MxTrig).misfit 0 (macOf .sp48) = false ∧ ((macOf .sp48).tile 0).fmt ≠ ((macOf .dense).tile 0).fmt) ∧
    (bits (0x20 : Word) 10 5 = 1 ∧ tileFill ((macOf .sp48).tile 0).fmt = 2 ∧ tileFill ((macOf .dense).tile 0).fmt = 1) ∧
    starts (allT .mmul 0 0x20 0 0) (sAll (allT .mmul 0 0x20 0 0) fun _ => macOf .dense) = true := by decide +kernel
/-- One row of weights of one value, of which the rest lies beyond the tensor; and one where no page is. -/
def row1 (base : Nat) : Header := BitVec.ofNat 512 (0x4A4C5444 + 2 * 2 ^ 32 + base * 2 ^ 64 + 2 ^ 192 + 2 ^ 224 + 2 ^ 256) ||| (BitVec.ofNat 512 8 <<< 352)
def gotOk {α : Type} (x : Got α) : Bool := match x.1 with
  | .ok _ => true
  | .error _ => false
def mxT (o : MxOp) (b c d : Word) : MxTrig := ⟨0, 0, 9, 0, 0, o, 3, b, c, d⟩
theorem wit_MacroProducts : (Mac.fresh.errs = [] ∧ Mac.fresh.bad = [] ∧ 2 % tileFill ((macOf .sp48).tile 0).fmt = 0) ∧
    ((row1 (2 ^ 38)).rows ≤ 1 ∧ 0 < (row1 (2 ^ 38)).rows) ∧
    gotOk (Sys2Proof.Machine.gather (fun s i => s.piece 0 0 (row1 (2 ^ 38)) 4 0 (128 * i) 128 (128 * i)) S0 (List.range 8)) = true := by decide +kernel
/-- One error on a path of three, which a second evaluation shows or not, in slots with one and with two remapped paths. -/
theorem wit_MacroChecks : (∀ e ∈ (Mac.fresh.errs), e.slot ≠ 0) ∧ (2 : Nat) < [1, (2 : Int), 3].length ∧ (5 : Int) ≠ 0 ∧ (0 : Int) ≠ 5 ∧
    (({ Tile.fresh with remap := [3] } : Tile).remap.length < 2) ∧ 2 ≤ ({ Tile.fresh with remap := [3, 4] } : Tile).remap.length := by decide
def sLostScale : State := c0 S0 fun v => { v with mac := { v.mac with lost := [0] } }
/-- What `rowld`, `wld` and `mvset` fetch: a lost scale, pieces that come, and pieces that do not translate. -/
theorem wit_MacroLoads : (sLostScale.mac 0).seq ∈ (sLostScale.mac 0).lost ∧ (1 : Nat) ≤ posOf 1 ∧ posOf 0 < 1 ∧
    gotOk (S0.piece 0 0 (row1 (2 ^ 38)) 1 0 0 128 0) = true ∧ gotOk (S0.piece 0 0 (row1 64) 1 0 0 128 0) = false := by decide +kernel
theorem wit_MacroLoads_wld : (row1 (2 ^ 38)).fill = 1 ∧
    gotOk (Sys2Proof.Machine.gather (fun s j => s.piece 0 0 (row1 (2 ^ 38)) 2 j 0 128 0) S0 (List.range 64)) = true ∧
    gotOk (S0.wldFetch (mxT .wld 0 0 5) (row1 64)) = false := by decide +kernel
/-- A tile whose masks stand as zeros, which is malformed where it is sparse and nothing where it is dense. -/
def badMask (h : Header) : Option Bool := match (S0.wldFetch (mxT .wld 0 0 5) h).1 with
  | .ok g => some g.2.2.2
  | .error _ => none
def sparse1 : Header := row1 (2 ^ 38) ||| (4 <<< 40) ||| BitVec.ofNat 512 (7 * 2 ^ 224 + (2 ^ 38 + 64) * 2 ^ 128)
theorem wit_MacroLoads_all : badMask sparse1 = some true ∧ badMask (row1 (2 ^ 38)) = some false := by decide +kernel
theorem wit_MacroLocal : (∀ b ∈ Mac.fresh.bad, b ≠ 16 + 31) ∧ 16 + 31 ∈ ({ Mac.fresh with bad := [47] } : Mac).bad ∧ (4 : Nat) < 5 ∧ (16 : Nat) ≤ 31 := by decide

/-! ### Further clauses: atomics, chains, the tensor table -/

/-- One value in a cell of a KEEP page; two cells of an i64 lane whose values have the same dots, and others. -/
def lane (d : Nat) (s : State) : State :=
  { s with cells := [(2 ^ 30 + 8, [⟨0x11, 3, 2, false, false, none⟩, ⟨0x80000022, 4, 2, false, false, none⟩]),
    (2 ^ 30 + 12, [⟨0x33, 3, 2, false, false, none⟩, ⟨0x44, d, 2, false, false, none⟩])] }
theorem wit_AtomicApply_mark : ((sReq .aadd (2 ^ 30 + 8) 8 5 (some 5) false id).cellVals (2 ^ 30 + 8)).length = 1 ∧
    2 ^ 30 + 8 ∈ cellsOf (2 ^ 30 + 8) 8 ∧ (2 ^ 30 + 16) ∉ cellsOf (2 ^ 30 + 8) 8 := by decide
theorem wit_AtomicApply_lanes : bits (0x10 : Word) 7 4 = 1 ∧ bits (0x10 : Word) 3 0 < 3 ∧ (2 ^ 30 + 8) % 8 = 0 ∧
    dotSet ((sReq .recon (2 ^ 30 + 8) 8 0x10 (some 5) false (lane 4)).cellVals (2 ^ 30 + 8)) =
      dotSet ((sReq .recon (2 ^ 30 + 8) 8 0x10 (some 5) false (lane 4)).cellVals (2 ^ 30 + 12)) ∧
    dotSet ((sReq .recon (2 ^ 30 + 8) 8 0x10 (some 5) false (lane 5)).cellVals (2 ^ 30 + 8)) ≠
      dotSet ((sReq .recon (2 ^ 30 + 8) 8 0x10 (some 5) false (lane 5)).cellVals (2 ^ 30 + 12)) ∧
    (((sReq .recon (2 ^ 30 + 8) 8 5 (some 5) false (lane 4)).cellVals (2 ^ 30 + 8)).filter fun v => v.val.getLsbD 31).length = 1 ∧
    (((sReq .recon (2 ^ 30 + 8) 8 0x10 (some 5) false (lane 4)).watch 0).enrolled 5).map
      (fun j => (((sReq .recon (2 ^ 30 + 8) 8 0x10 (some 5) false (lane 4)).watch 0).enrol j).slot) = some 3 := by decide
/-- A snap whose source is a bank. -/
theorem wit_AtomicApply_snap : okIs ((sReq .snap (storeAddr 0 64) 64 0xFE00000000000000 none true (bank0 1 false)).bankLoad 0 64 64) (List.replicate 64 0) = true := by
  decide +kernel
/-- `tget` to a KEEP page by a watch whose four enrolments are of another region. -/
def sTbKeep (f : State → State) : State := f (page (bound [1023] (latches (regs S0 [(1, 1023)]) [(.tbA, 0x8000000040)])) 1 5 (2 ^ 30))
theorem wit_TableTriggers_keep : Performs (sTbKeep full4) 0 gd .tb ∧ (rAt (sTbKeep full4)).tensor? 0 1023 = some hdr1 ∧
    (rAt (sTbKeep full4)).writerAll 0 ((rAt (sTbKeep full4)).trigRegions 0 (.tb .tget) 1023 (some hdr1)) = none ∧
    ((rAt (sTbKeep id)).writerAll 0 ((rAt (sTbKeep id)).trigRegions 0 (.tb .tget) 1023 (some hdr1))).isSome = true ∧ (0x8000000040 : Word).toNat % 64 = 0 :=
  ⟨performs_of (by decide +kernel), by decide +kernel⟩
/-- A `tail` whose entry its capture refuses: a kind that there is none of. -/
theorem wit_ChainTriggers_capture : (let s := rAt ((sEng 0 (va 0x100) (va 0x140)).putWord (2 ^ 30 + 0x140) 0xFF00000000000000);
    ((s.engReach 0 0 false (2 ^ 38 + 0x140) 64).capture 0 0 (va 0x140) 0).isNone) = true := by decide +kernel

/-! ### Further clauses: watches that wake, ends of tasks, gangs -/

/-- Watches 0 and 2 have rested in one cycle, in a core that issues none and where watch 1 stopped last. -/
def sTie : State := c0 ((w0 S0 fun w => { w with st := .free, readyAt := some S0.cycles }).onWatch 2 fun w => { w with st := .paused, pauseEnd := S0.cycles }) fun c =>
  { c with issuing := none, lastWid := 1 }
theorem wit_Wakes : Woken sTie 0 = [0, 2] ∧ (sTie.coreAt 0).issuing = none ∧ (∀ j, j < 4 → (sTie.watch (0 * 4 + j)).gang = none) ∧
    (2 + 3 - (sTie.coreAt 0).lastWid % 4) % 4 = 0 ∧ (0 + 3 - (sTie.coreAt 0).lastWid % 4) % 4 = 2 := by decide
/-- The stores of a task that wait for a link: its end waits. -/
def sEndLate (a : After) : State := { (sEnd a).onLink 0 (fun l => { l with up := true, retrain := some 0 }) with
  stores := [⟨9, 0, [(2 ^ 50, 1)], false, [], false, none, false, 0, false⟩] }
theorem wit_TaskEnd_late (a : After) (h : a = .done ∨ a = .reque) : Released (sEndLate a) 0 a ∧ ((sEndLate a).settleWatch 0).storesGone 0 = false ∧
    ((sEnd a).settleWatch 0).storesGone 0 = true := by
  rcases h with rfl | rfl <;> exact ⟨released_of (by decide), by decide +kernel, by decide +kernel⟩
/-- A claim in handler mode whose task has been cancelled. -/
theorem wit_Gangs_handler : let s := sClaim.onWatch 0 fun w => { w with cancelled := true, hm := true };
    ((s.watch 0).hm = true ∧ (s.watch 0).cancelled = true ∧ (s.watch 0).settled = true ∧ [0, 1].mapM (s.recruit 0) = some [0, 5]) := by decide
/-- A neighbour read that is not served holds the landing slot; the words of a body stand in the loop buffer. -/
theorem wit_Landings_held : subjectOf (sAsks .ready 8 0) = 0 ∧ ((sAsks .ready 8 0).watch 0).gang = none := by decide
def sInLoop : State := c0 (sPass 12 12 2) fun c => { c with loopTag := some (0, 0x4000000000), loopBuf := [(2 ^ 38, 0x1234)] }
theorem wit_Landings_loopHalf : sInLoop.loopHalf 0 (2 ^ 38) = some 0x1234 := by decide
/-- What a deposit needs to reach its object's home, and to be applied, as one test each. -/
def reachesB (s : State) (m : Msg) : Bool :=
  decide (s.deposits[s.opnd.a]? = some m) && decide (m.kind = 4) && decide (m.router = boardOf m.dcore ∧ m.since ≤ s.cycles) &&
    decide (∀ x ∈ s.msgs ++ s.deposits, x.score = m.score → x.dcore = m.dcore → m.ticket ≤ x.ticket) && s.live m.part &&
    !s.windowDue m.part && (s.watch m.watch).img.holds m.ticket
theorem reaches_of {s : State} {m : Msg} (h : reachesB s m = true) : Reaches s m := by
  simp only [reachesB, Bool.and_eq_true, decide_eq_true_eq, Bool.not_eq_true'] at h
  obtain ⟨⟨⟨⟨⟨⟨h1, h2⟩, h3⟩, h4⟩, h5⟩, h6⟩, h7⟩ := h
  exact ⟨h1, h2, h3, h4, h5, h6, h7⟩
def appliesB (s : State) (m : Msg) (u : TypeEnt) : Bool :=
  reachesB s m && !s.holding m.part (m.word 1) && decide (s.typeOf m.part m.type = some u) && s.recordOk (m.word 1) u &&
    !(s.record (m.word 1) 0).getLsbD (16 + m.slot) && decide (m.slot < u.slots) && decide (m.aux % 2 = 1 → u.size = 64)
theorem applies_of {s : State} {m : Msg} {u : TypeEnt} (h : appliesB s m u = true) : Applies s m u := by
  simp only [appliesB, Bool.and_eq_true, decide_eq_true_eq, Bool.not_eq_true'] at h
  obtain ⟨⟨⟨⟨⟨⟨h1, h2⟩, h3⟩, h4⟩, h5⟩, h6⟩, h7⟩ := h
  exact { toReaches := reaches_of h1, free := h2, type := h3, record := h4, open' := h5, slot := h6, half := h7 }
/-- The deposit of `s` asks for a wake, and is for the host core of its object. -/
def wakeDep (kind aux : Nat) : Msg :=
  { aDep kind aux with words := (aDep kind aux).words.set 0 (msgHeader 4 aux 1 kind 1 7 2 1 4 5 1), router := boardOf 1 }
def sWake (rec0 : Word) (ovf n : Nat) (held : List Msg) : State :=
  let s := p0 (sDep 0 0 0 rec0 id) fun p => { p with ovf := ovf }
  (({ s with deposits := [wakeDep 0 0] }).onBoard (oidBoard 0x1070010) fun b => { b with overflow := held }).onCore (oidCore 0x1070010) fun c =>
    { c with slots := (List.range n).map fun i => (i, .running aTask) }
theorem wit_Deposits_applied : Applies (sDep 0 0 0 0 id).mesh (aDep 0 0) (aType 0) ∧ Applies (sDep 1 1 2 0 id).mesh (aDep 1 1) (aType 2) ∧
    Applies (sDep 2 0 0 0 id).mesh (aDep 2 0) (aType 0) ∧ Applies (sDep 3 1 2 0x10000 id).mesh (aDep 3 1) (aType 2) :=
  ⟨applies_of (by decide +kernel), applies_of (by decide +kernel), applies_of (by decide +kernel), applies_of (by decide +kernel)⟩
theorem wit_Deposits_waiting : Reaches (sDep 0 0 0 0 hold).mesh (aDep 0 0) ∧ (sDep 0 0 0 0 hold).mesh.holding 0 0x1070010 = true ∧
    (let s := (sDep 0 0 0 0 fun s => { s with snaps := [⟨0, 0, 0, 0, [0x1070010], 0, 0, 0, true,
        (List.range 1024).map fun i => { aDep 0 0 with ticket := i }⟩] }).mesh
     (((s.snaps.flatMap (·.deferred)).filter fun x => oidBoard (x.word 1) = oidBoard 0x1070010).length = 1024 ∧
      (s.snaps.flatMap (·.deferred)).map (·.ticket) = List.range 1024)) ∧
    Reaches (sDep 0 0 0 0 fun s => p0 s fun p => { p with types := [] }).mesh (aDep 0 0) ∧ Reaches (sDep 0 0 0 0x20000 id).mesh (aDep 0 0) :=
  ⟨reaches_of (by decide +kernel), by decide +kernel, by decide +kernel, reaches_of (by decide +kernel), reaches_of (by decide +kernel)⟩
theorem wit_Deposits_still : Still (sDep 0 0 0 0x20000 id).mesh := ⟨by decide +kernel, by decide +kernel, by
  have h : (sDep 0 0 0 0x20000 id).mesh.slices = [] := by decide +kernel
  intro e he; rw [h] at he; cases he⟩
/-- A wake that takes slot 63, the last free one; with all slots used, and behind a message in the overflow area, with and without room there. -/
theorem wit_WakeDeposits : Applies (sWake 0 0 63 []).mesh (wakeDep 0 0) (aType 0) ∧ Applies (sWake 0 1 64 []).mesh (wakeDep 0 0) (aType 0) ∧
    Applies (sWake 0 1 0 [aMsg 1 1 0]).mesh (wakeDep 0 0) (aType 0) ∧
    Applies (sWake 1 1 0 []).mesh (wakeDep 0 0) (aType 0) :=
  ⟨applies_of (by decide +kernel), applies_of (by decide +kernel), applies_of (by decide +kernel), applies_of (by decide +kernel)⟩
theorem wit_WakeDeposits_cases : Awakes (sWake 0 0 63 []).mesh (wakeDep 0 0) ∧ (wakeDep 0 0).dcore = oidCore ((wakeDep 0 0).word 1) ∧
    ((sWake 0 0 63 []).mesh.record 0x1070010 0).getLsbD 0 = false ∧ ((sWake 1 0 63 []).mesh.record 0x1070010 0).getLsbD 0 = true ∧
    ((sWake 0 0 63 []).mesh.coreAt (oidCore 0x1070010)).freeSlot = some 63 ∧ ((sWake 0 1 64 []).mesh.coreAt (oidCore 0x1070010)).freeSlot = none ∧
    (sWake 0 1 64 []).mesh.overflowRoom (wakeDep 0 0) = true ∧ (sWake 0 0 64 []).mesh.overflowRoom (wakeDep 0 0) = false ∧
    ¬Awakes (sDep 0 0 0 0 id).mesh (aDep 0 0) := by unfold Awakes; decide +kernel
/-- Stores into a bank of reserved slots: one whose bytes fill slot 1 (of 64 bytes), one that passes it, one behind a fault of its word. -/
def sFifoStore (off n c : Nat) (faults : List Deferred) : State :=
  let s := sBankq (.store (List.replicate n 7) (List.replicate n 0xFF)) { Bank.fresh with mode := 2, slots := [(0, .reserved c), (1, .reserved c)] } 0
  { w0 s fun w => { w with img := { w.img with faults := faults } } with
    bankq := [⟨9, 0, 3, 0, 0xFE00000000010000, 0, 0x10000 + off, 0, n, .store (List.replicate n 7) (List.replicate n 0xFF), 0⟩] }
theorem wit_BankEvents_store : ((sFifoStore 64 8 56 []).bankq[0]?).isSome = true ∧ ((sFifoStore 64 8 56 []).watch 0).img.holds 9 = true ∧
    (let b := ((sFifoStore 64 8 56 []).boardAt 0).bank 2
     b.mode = 2 ∧ b.locked = false ∧ b.slotSize = 64 ∧ b.slot 1 = .reserved 56 ∧ 56 + 8 = b.slotSize ∧ ¬(57 + 8 ≤ b.slotSize)) ∧
    (sFifoStore 64 8 57 []).failed 0 3 = false ∧ (sFifoStore 64 8 57 [⟨3, 0x10, 0, 0⟩]).failed 0 3 = true := by decide
/-- Lines of a HOST-U page and of a HOST-C page leave the buffer; a board mate's store to the same byte stands before one. -/
theorem wit_StoresOnTheWay_host : S0.paKind (2 ^ 50) = .host ∧
    (((c0 { S0 with opnd := { S0.opnd with b := 2 ^ 44 } } fun c => { c with wcb := [⟨2 ^ 44, [(2 ^ 50, some 1)], 0, 0, false⟩] }).coreAt 0).wcb.find? (·.line = 2 ^ 44)).isSome = true ∧
    (let s := sStores [{ aStore 3 false with core := 1 }, aStore 4 false] 1
     ∃ g ∈ s.stores.take 1, boardOf g.core = boardOf (aStore 4 false).core ∧ g.applied = false ∧ ∃ x ∈ g.bytes, ∃ y ∈ (aStore 4 false).bytes, x.1 = y.1) := by decide
/-- A COPY whose source lies in host memory behind a link that retrains; a member that is not at work. -/
def sFarCopy : State :=
  (sChain [copy (va 0x240)] fun s => { s with links := .replicate 12 ⟨true, none, 0, 0, 0, 0⟩ }.onBoard 0 fun b => { b with tlb := [⟨0, 2 ^ 8, 2 ^ 30, 0x400000000000000F, 0⟩] }).onLink 0 fun l => { l with up := true, retrain := some 0 }
theorem wit_DataEntries_waits : Named sFarCopy (chainOf [copy (va 0x240)]) (copy (va 0x240)) ∧ sFarCopy.mayStart (chainOf [copy (va 0x240)]) (copy (va 0x240)) = true ∧
    sFarCopy.fifoTarget (chainOf [copy (va 0x240)]) (copy (va 0x240)) = none ∧
    (match sFarCopy.engRead 0 0 false (va 0x240).toNat 5 with | .error x => x.1 | .ok _ => 0) = waitCode ∧ (19 : Nat) ≠ waitCode :=
  ⟨named_of (by decide +kernel), by decide +kernel, by decide +kernel, by decide +kernel, by decide⟩
/-- A load of a pair's day side on its way when the flip comes; a record with an uncorrectable error; requests to replay. -/
def sFlipLoad (old : List (Nat × Byte)) : State :=
  { flipAt 0 1 with linkLoads := [⟨9, 0, 3, 0, 0, 0, 2 ^ 31, 4, leaf 2 0x803 (2 ^ 30), { size := 4, signed := false }, [], old⟩] }
theorem wit_TimedEvents_load : ((sFlipLoad []).linkLoads.map fun q => decide (pteType q.pte = 2 ∧ pteAux q.pte / 2 ^ 11 = 1 ∧ pteAux q.pte % 64 = 3)) = [true] ∧
    (sFlipLoad []).pair? 0 3 = some { aPair with flip := some ⟨S0.bell, 0, va 0x100, 1⟩ } ∧ ((sFlipLoad []).watch 0).path = [] := by decide +kernel
theorem wit_TimedEvents_memerr : let a := storeAddr (oidBoard 0x1070010) (oidOff 0x1070010)
    let s : State := { sSnap true with ecc := [a + 3] }
    s.errorIn a (64 + (aType 0).slots * (aType 0).size) = true ∧ a ≤ a + 3 ∧ s.ecc.contains (a + 3) = true ∧ s.wakeRunning (aSnap true) = false ∧ s.stays 0 = true ∧
      (sSnap true).errorIn a (64 + (aType 0).slots * (aType 0).size) = false ∧ S0.stays 0 = true := by decide +kernel
theorem wit_TimedEvents_atomic : let r : Remap := ⟨1, 2 ^ 30 + 8, .atomic .afadd 4 1 0⟩
    (sRemap [r] 0).remaps[0]? = some r ∧ AtOp.afadd ∈ plainAtomics ∧ r.addr % 4 = 0 ∧ (∀ x ∈ cellsOf r.addr 4, ((sRemap [r] 0).cellVals x).length = 1) ∧
      (∀ j, j < 4 → (sRemap [r] 0).pageHeld (r.addr + j) = false) ∧ (sRemap [r] 0).poisoned r.addr 4 = false := by decide +kernel
/-- A notice that core 0 has not taken by 200 ticks after it was sent. -/
theorem wit_WorkGoesOn_notice : let s : State := { sNotice 0 [(7, 3)] with bell := S0.bell + 200 }
    S0.bell + 200 ≤ s.bell ∧ (0, s.coreAt 0) ∈ s.cores := by decide +kernel
/-- The phase waits while a chain is held. -/
theorem wit_WorkGoesOn_chain : ∃ c ∈ (sChain [fill]).chains, c.part = 0 := by decide +kernel
/-- A switch whose time has come with an entry at work. -/
theorem wit_StopsAndPower_work : let s : State := { sArmed 0 with chains := [chainOf [{ member 0x10 0 with st := .running }]] }
    ¬ (∀ c ∈ s.chains, c.part = 0 → ∀ e ∈ c.entries, e.atWork = false) ∧ (part0 s).armed = some (s.bell, 7) := by decide +kernel
/-- The sensors just at a limit, and below both. -/
theorem wit_StopsAndPower_limits : let s : State := { S0 with opnd := { Operand.zero with a := 100, b := S0.fw.record.cap } }
    ¬ (100 < s.opnd.a ∨ s.fw.record.cap < s.opnd.b) ∧ ¬ (s.opnd.a < 100 ∧ s.opnd.b < s.fw.record.cap) ∧ (99 < 100 ∧ S0.fw.record.cap - 1 < S0.fw.record.cap) := by decide
/-- A graph that is open is closed by a command without launches, its phase closed already; one that is closed; a graph of a closed phase that is not open. -/
def sClose (closed : Bool) : State := ring (p0 (inPhase S0) fun p => { p with graphs := [(63, ⟨true, closed, false, 0, 1, []⟩)], phaseClosed := some 9 }) 0x07 0 #v[0x13F, 0, 0, 0, 0, 0, 0]
theorem wit_PartitionGraph_close (b : Bool) : ToPart (sClose b) 0x07 16 [0x13F, ones, 0x7F, 0, 0, 0, ones] (part0 (sClose b)) ∧ (sClose b).wordsWait (8 * min ((sClose b).opnd.cmd.word 3).toNat 64) = false ∧
    ((part0 (sClose b)).graphAt 63).used = true ∧ ((part0 (sClose b)).graphAt 63).closed = b ∧ ((part0 (sClose b)).graphAt 63).next ≤ 64 ∧ ((sClose b).opnd.cmd.word 1).getLsbD 8 = true ∧
    ((part0 (sClose b)).graphAt 62).used = false ∧ (part0 (sClose b)).phaseClosed.isSome = true ∧ (part0 (sClose b)).run = .running := by
  cases b <;> exact ⟨part_of (by decide +kernel), by decide +kernel⟩
/-- A launch that is cancelled already; a switched partition; an open phase for NOTIFY, and a graph 0 that is closed; a misaligned TYPE. -/
def sAgain : State := ring (p0 S0 fun p => { p with launches := [(7, { aLaunch with cancelled := true })] }) 0x08 0 #v[0, handleOf 7 3, 0, 0, 0, 0, 0]
theorem wit_PartitionCancel_again : ToPart sAgain 0x08 16 [3, ones] (part0 sAgain) ∧ ((part0 sAgain).launchAt 7).cancelled = true ∧ ((part0 sAgain).launchAt 7).used = true ∧
    (part0 (p0 S0 fun p => { p with run := .switched })).job = none ∧ sNotify.wordsWait 8 = false ∧
    (let s := p0 sNotify fun p => { p with graphs := [(0, ⟨true, true, false, 0, 1, []⟩)] }
     ((part0 s).graphAt 0).used = true ∧ ((part0 s).graphAt 0).closed = true) ∧
    (let s := p0 sNotify fun p => { p with phaseCancelled := true }
     ((part0 s).graphAt 0).used = false ∧ (part0 s).phaseCancelled = true ∧ Desc.cell (s.desc (2 ^ 30 + 0x40)) = 0) ∧ (sType (va 0x44)).wordsWait 8 = false :=
  ⟨part_of (by decide +kernel), by decide +kernel⟩
/-- MAP while an access of its partition waits behind a link. -/
theorem wit_MemoryMap_waits : { sMap 0x09 0x4040000000 0x0000080000000003 2 with linkLoads := (sFlipLoad []).linkLoads : State }.mapWaits = true := by decide +kernel
/-- A pair with a side in a reserved range, in a keeping window, and in memory. -/
def kindNo (s : State) (a : Nat) : Nat := match s.paKind a with
  | .reserved => 1
  | .window _ _ => 2
  | _ => 0
theorem wit_MemoryPair_sides : kindNo S0 0x700000000000 = 1 ∧ kindNo S0 0x80000000 = 0 ∧ (0x80000000 : Nat) + 0x10000 ≤ 2 ^ 52 ∧
    (0x80000000 : Word).toNat % 2 ^ 16 = 0 := by decide +kernel
/-- Two completions: the last lies after `cph`, or is `cph`'s own. -/
def sRewrite (cph : Nat) : State := { sRestart [⟨3, 9, 1, 2⟩] [] with fw := { (sRestart [⟨3, 9, 1, 2⟩] []).fw with cph := cph } }
theorem wit_ResetAndLinks_rewrite : (sRewrite 14).fw.cph = (sRewrite 14).fw.fcomp ∧ (sRewrite 14).hostWaits = false ∧ (sRewrite 13).fw.cph ≠ (sRewrite 13).fw.fcomp ∧
    (sRewrite 13).fw.waiting = [] ∧ (sRewrite 13).fw.fwst = 3 ∧ (sRewrite 13).fw.cph < 2 ^ 32 ∧
    ({ sRestart [] [] with links := .replicate 12 ⟨true, some 0, 0, 0, 0, 0⟩ } : State).hostWaits = true := by decide +kernel
/-- The link's 200 µs are over. -/
theorem wit_ResetAndLinks_down : 5 + 20001 ≤ (sLink (some 5) 20006 0).bell ∧ ((sLink (some 5) 20006 0).linkAt 11).retrain = some 5 ∧ (sLink (some 5) 0 0).adds = [] ∧
    S0.opnd.c ≠ 1 := by decide +kernel
/-- A peer's load, store and atomic of this home. -/
def sPeer (op b : Nat) : State := { sHost (2 ^ 30 + 8) b 0 true with opnd := { (sHost (2 ^ 30 + 8) b 0 true).opnd with cmd := ⟨0, 0, 0, op, .replicate 7 0⟩ } }
theorem wit_OutsideAccesses_peer : (sPeer 0 0).paKind (2 ^ 30 + 8) = .tier ∧ (∀ x ∈ (sPeer 0 0).remaps, x.requester ≠ 1) ∧ (sPeer 0 0).opnd.c = 0 ∧ stillIs (sPeer 0 0) = true ∧
    (sPeer 0 0).poisoned (2 ^ 30 + 8) 8 = false ∧ (sPeer 1 0).opnd.cmd.op = 1 ∧ (∀ e ∈ (sPeer 1 0x100).written, ((sPeer 1 0x100).cellVals (e.1 / 4 * 4)).length = 1) ∧ (2 : Nat) ≤ (sPeer 2 0x200).opnd.cmd.op ∧
    (∀ x ∈ cellsOf (2 ^ 30 + 8) 4, ((sPeer 2 0x200).cellVals x).length = 1) := by decide +kernel
/-- A repeated body whose halfwords stand in the loop buffer; a fetch after an `isync` whose earlier load waits behind a link. -/
def sLooped : State :=
  c0 (w0 (sStep 0x3BFFFFED false) fun w => { w with img := { w.img with loops := [⟨3, BitVec.ofNat 64 (2 ^ 38), BitVec.ofNat 64 (2 ^ 38 + 8), BitVec.ofNat 64 (2 ^ 38 + 12)⟩] } }) fun c =>
    { c with loopTag := some (0, BitVec.ofNat 64 (2 ^ 38)), loopBuf := [(2 ^ 38, 0xFFED), (2 ^ 38 + 2, 0x3BFF)] }
theorem wit_StepIssues_loop : (sLooped.endPasses [0]).loopHalf 0 (2 ^ 38) = some 0xFFED ∧ (sLooped.endPasses [0]).loopHalf 0 (2 ^ 38 + 2) = some 0x3BFF ∧
    sLooped.schedule = [.issue 0] ∧ Turn { sLooped with schedule := [], cur := 0 } 0 := ⟨by decide +kernel, by decide +kernel, by decide, turn_of (by decide)⟩
def sSyncs : State := { w0 (sStep 0x3BFFFFED false) fun w => { w with syncOrd := 5 } with linkLoads := (sFlipLoad []).linkLoads }
theorem wit_StepIssues_sync : (sSyncs.endPasses [0]).syncWaits 0 = true ∧ inWindow (2 ^ 38) = false ∧ sSyncs.schedule = [.issue 0] ∧ Turn { sSyncs with schedule := [], cur := 0 } 0 :=
  ⟨by decide +kernel, by decide +kernel, by decide, turn_of (by decide)⟩

end Sys2Proof.Tests
end

section
/-! Messages on the mesh and at their cores (R10 to R12, R41, R120, R130, R131): what a hop moves, what words stand in memory after a run of
words is written, what the end of a parked trigger and the queueing of a message change, and the outcomes of an arrival. -/
namespace Sys2Proof.Machine
open Sys2Proof.Claims

/-! ### Words in memory -/

/-- The addresses `a`, `a + 1`, … each with a byte of a list: what a contiguous write puts. -/
def bytesAt (a : Nat) (l : List Byte) : List (Nat × Byte) := ((List.range l.length).map (a + ·)).zip l

theorem bytesAt_addrs_nodup (a : Nat) (l : List Byte) : ((bytesAt a l).map Prod.fst).Nodup := by
  rw [bytesAt, List.map_fst_zip (by simp)]
  exact List.pairwise_map.mpr (List.nodup_range.imp fun hne h => hne (Nat.add_left_cancel h))

theorem State.home_putBytes_bytesAt (s : State) (a : Nat) (l : List Byte) {i : Nat} (h : i < l.length) :
    (s.putBytes (bytesAt a l)).home (a + i) = l[i] := by
  have he : (a + i, l[i]) ∈ bytesAt a l := by
    rw [bytesAt, List.mem_iff_getElem]
    exact ⟨i, by simpa using h, by simp⟩
  exact s.home_putBytes_mem _ (bytesAt_addrs_nodup a l) he

/-- A read within the bytes just written gives that part of them. -/
theorem State.homeBytes_putBytes_bytesAt (s : State) (a : Nat) (l : List Byte) {i n : Nat} (h : i + n ≤ l.length) :
    (s.putBytes (bytesAt a l)).homeBytes (a + i) n = (l.drop i).take n := by
  refine List.ext_getElem (by simp [State.homeBytes]; omega) fun k hk _ => ?_
  simp only [State.homeBytes, List.length_map, List.length_range] at hk
  simp [State.homeBytes, Nat.add_assoc, s.home_putBytes_bytesAt a l (show i + k < l.length by omega)]

/-- The little-endian bytes of words in a row. -/
def wordBytes (ws : List Word) : List Byte := ws.flatMap fun w => leBytes 8 w.toNat

theorem wordBytes_cons (w : Word) (ws : List Word) : wordBytes (w :: ws) = leBytes 8 w.toNat ++ wordBytes ws := List.flatMap_cons
theorem wordBytes_length (ws : List Word) : (wordBytes ws).length = 8 * ws.length := by
  induction ws with
  | nil => rfl
  | cons w ws ih =>
    rw [wordBytes_cons, List.length_append, leBytes_length, ih, List.length_cons]
    omega

theorem take_drop_wordBytes (ws : List Word) {j : Nat} (h : j < ws.length) :
    ((wordBytes ws).drop (8 * j)).take 8 = leBytes 8 ws[j].toNat := by
  induction ws generalizing j with
  | nil => exact absurd h (Nat.not_lt_zero j)
  | cons w ws ih =>
    have hl := leBytes_length 8 w.toNat
    rw [wordBytes_cons]
    cases j with
    | zero => exact List.take_left' hl
    | succ j =>
      rw [show 8 * (j + 1) = (leBytes 8 w.toNat).length + 8 * j by omega, List.drop_length_add_append]
      exact ih (Nat.lt_of_succ_lt_succ h)

/-- Each of a row of words stands where it was written. -/
theorem State.homeWord_putBytes_wordBytes (s : State) (a : Nat) (ws : List Word) {j : Nat} (h : j < ws.length) :
    (s.putBytes (bytesAt a (wordBytes ws))).homeWord (a + 8 * j) = ws[j] := by
  have hlen : 8 * j + 8 ≤ (wordBytes ws).length := by rw [wordBytes_length]; omega
  rw [State.homeWord, State.homeNat, s.homeBytes_putBytes_bytesAt a _ hlen, take_drop_wordBytes ws h, leNat_leBytes]
  have hw : ws[j].toNat % 256 ^ 8 = ws[j].toNat := Nat.mod_eq_of_lt ws[j].isLt
  rw [hw, BitVec.ofNat_toNat, BitVec.setWidth_eq]

theorem State.homeWord_of_mem {s t : State} (h : t.mem = s.mem) (a : Nat) : t.homeWord a = s.homeWord a := by
  simp [State.homeWord, State.homeNat, State.homeBytes, State.home, h]

/-! ### Boards, partitions and parts of cores after a write -/

@[simp] theorem State.boardAt_onBoard (s : State) (b : Nat) (f : Board → Board) : (s.onBoard b f).boardAt b = f (s.boardAt b) :=
  Tbl.get_set_same _ _ _ _

/-- A change of a core keeps, of every core, what it keeps of the one it changes. -/
theorem State.coreAt_onCore_keeps {β : Type} (g : Core → β) (s : State) (c d : Nat) {f : Core → Core} (h : ∀ v, g (f v) = g v) :
    g ((s.onCore c f).coreAt d) = g (s.coreAt d) := by
  by_cases hc : c = d
  · subst hc; rw [State.coreAt_onCore, h]
  · rw [State.coreAt_onCore_other _ _ hc]

theorem State.onPart_of_some {s : State} {p : Nat} {q : Part} (h : s.part? p = some q) (f : Part → Part) :
    s.onPart p f = s.setPart p (f q) := by
  rw [State.onPart, h]

/-- A change of a partition is one of the table of partitions alone. -/
theorem State.onPart_frame (s : State) (p : Nat) (f : Part → Part) : s.onPart p f = { s with parts := (s.onPart p f).parts } := by
  unfold State.onPart
  split <;> rfl

/-- The counter of a launch takes −1 (R25). -/
theorem State.counter_countDown {s : State} {p : Nat} {q : Part} (h : s.part? p = some q) (l : Nat) :
    ∃ r, (s.countDown p l).part? p = some r ∧ (r.launchAt l).counter = (q.launchAt l).counter - 1 := by
  rw [State.countDown, State.onLaunch, State.onPart_of_some h]
  exact ⟨_, Tbl.get_set_same _ _ _ _, by simp [Part.launchAt]⟩

@[simp] theorem State.countDown_msgs (s : State) (p l : Nat) : (s.countDown p l).msgs = s.msgs := by
  rw [State.countDown, State.onLaunch, State.onPart_frame]
@[simp] theorem State.countDown_mem (s : State) (p l : Nat) : (s.countDown p l).mem = s.mem := by
  rw [State.countDown, State.onLaunch, State.onPart_frame]
@[simp] theorem State.countDown_watch (s : State) (p l k : Nat) : (s.countDown p l).watch k = s.watch k := by
  rw [State.countDown, State.onLaunch, State.onPart_frame]; rfl

/-! ### The end of a parked trigger (R61) -/

@[simp] theorem State.sent_msgs (s : State) (m : Msg) (st : Nat) : (s.sent m st).msgs = s.msgs := rfl
@[simp] theorem State.sent_mem (s : State) (m : Msg) (st : Nat) : (s.sent m st).mem = s.mem := rfl
@[simp] theorem State.sent_boardAt (s : State) (m : Msg) (st b : Nat) : (s.sent m st).boardAt b = s.boardAt b := rfl
@[simp] theorem State.sent_part? (s : State) (m : Msg) (st p : Nat) : (s.sent m st).part? p = s.part? p := rfl

/-- The status of a message changes of a core only when it was last busy and a watch. -/
theorem State.coreAt_sent_keeps {β : Type} (g : Core → β) (s : State) (m : Msg) (st d : Nat) (hi : ∀ v n, g { v with idle := n } = g v)
    (hw : ∀ v k w, g (Core.setWatch v k w) = g v) : g ((s.sent m st).coreAt d) = g (s.coreAt d) :=
  (State.coreAt_onCore_keeps g _ _ d fun v => hw v _ _).trans (State.coreAt_onCore_keeps g _ _ d fun v => hi v _)
@[simp] theorem State.slots_sent (s : State) (m : Msg) (st d : Nat) : ((s.sent m st).coreAt d).slots = (s.coreAt d).slots :=
  s.coreAt_sent_keeps Core.slots m st d (fun _ _ => rfl) fun _ _ _ => rfl
@[simp] theorem State.rcvd_sent (s : State) (m : Msg) (st d : Nat) : ((s.sent m st).coreAt d).rcvd = (s.coreAt d).rcvd :=
  s.coreAt_sent_keeps Core.rcvd m st d (fun _ _ => rfl) fun _ _ _ => rfl

/-- The sender that waits for its message hears the status (R126). -/
theorem State.watch_sent {s : State} {m : Msg} (hk : m.kind < 4) (h : (s.watch m.watch).img.holds m.ticket = true) (st : Nat) :
    (s.sent m st).watch m.watch = answered s m st := by
  have h4 : m.kind ≠ 4 := by omega
  have hidle := s.coreAt_onCore_watches (c := m.watch / 4) (fun c => { c with idle := s.cycles }) (fun _ => rfl) m.watch
  simp only [State.sent, State.finish, State.settleTicket, State.watch_onWatch, hidle, h, h4, if_true, if_false]
  rfl

/-- It hears it as well in a state that left its watch as it was. -/
theorem State.watch_sent_of_same {s u : State} {m : Msg} (hk : m.kind < 4) (hw : (s.watch m.watch).img.holds m.ticket = true)
    (h : u.watch m.watch = s.watch m.watch) (st : Nat) : (u.sent m st).watch m.watch = answered s m st := by
  rw [State.watch_sent hk (by rw [h]; exact hw), answered, h, answered]

/-! ### The count of received messages (R384) -/

@[simp] theorem State.received_msgs (s : State) (c : Nat) : (s.received c).msgs = s.msgs := rfl
@[simp] theorem State.received_mem (s : State) (c : Nat) : (s.received c).mem = s.mem := rfl
@[simp] theorem State.received_boardAt (s : State) (c b : Nat) : (s.received c).boardAt b = s.boardAt b := rfl
@[simp] theorem State.received_watch (s : State) (c k : Nat) : (s.received c).watch k = s.watch k :=
  s.coreAt_onCore_watches (fun v => { v with rcvd := (v.rcvd + 1) % 2 ^ 32 }) (fun _ => rfl) k
@[simp] theorem State.received_slots (s : State) (c d : Nat) : ((s.received c).coreAt d).slots = (s.coreAt d).slots :=
  State.coreAt_onCore_keeps Core.slots s c d fun _ => rfl
@[simp] theorem State.received_rcvd (s : State) (c : Nat) : ((s.received c).coreAt c).rcvd = ((s.coreAt c).rcvd + 1) % 2 ^ 32 :=
  congrArg Core.rcvd (s.coreAt_onCore c _)

/-! ### What becomes of a message at its core (R120, R130, R131) -/

/-- Messages for the core of `m` wait in its board's overflow area. -/
def State.Behind (s : State) (m : Msg) : Prop := ∃ x ∈ (s.boardAt (boardOf m.dcore)).overflow, x.dcore = m.dcore

theorem State.behind_iff (s : State) (m : Msg) :
    (s.boardAt (boardOf m.dcore)).overflow.any (·.dcore = m.dcore) = true ↔ s.Behind m := by
  simp [State.Behind]

theorem State.offer_of_slot {s : State} {m : Msg} {i : Nat} (hb : ¬s.Behind m) (hf : (s.coreAt m.dcore).freeSlot = some i) (late : Bool) :
    s.offer m late = some (s.intoSlot i m) := by
  simp only [State.offer, s.behind_iff, hb, hf, if_false]
theorem State.offer_of_room {s : State} {m : Msg} {late : Bool} (h : s.Behind m ∨ (s.coreAt m.dcore).freeSlot = none ∧ late = true)
    (hr : s.overflowRoom m = true) : s.offer m late = some (s.intoOverflow m) := by
  by_cases hb : s.Behind m
  · simp only [State.offer, s.behind_iff, hb, hr, if_true]
  · obtain ⟨hf, hl⟩ := h.resolve_left hb
    simp only [State.offer, s.behind_iff, hb, hf, hl, hr, Bool.and_self, if_true, if_false]
theorem State.offer_of_full {s : State} {m : Msg} (h : s.Behind m ∨ (s.coreAt m.dcore).freeSlot = none) (hr : s.overflowRoom m = false)
    (late : Bool) : s.offer m late = none := by
  by_cases hb : s.Behind m
  · simp [State.offer, s.behind_iff, hb, hr]
  · simp [State.offer, s.behind_iff, hb, h.resolve_left hb, hr]
theorem State.offer_of_early {s : State} {m : Msg} (hb : ¬s.Behind m) (hf : (s.coreAt m.dcore).freeSlot = none) :
    s.offer m false = none := by
  simp [State.offer, s.behind_iff, hb, hf]

/-! ### A message in the overflow area (R131) -/

@[simp] theorem State.intoOverflow_msgs (s : State) (m : Msg) : (s.intoOverflow m).msgs = s.msgs := rfl
@[simp] theorem State.intoOverflow_mem (s : State) (m : Msg) : (s.intoOverflow m).mem = s.mem := rfl
@[simp] theorem State.intoOverflow_watch (s : State) (m : Msg) (k : Nat) : (s.intoOverflow m).watch k = s.watch k := rfl
@[simp] theorem State.intoOverflow_overflow (s : State) (m : Msg) :
    ((s.intoOverflow m).boardAt (boardOf m.dcore)).overflow = (s.boardAt (boardOf m.dcore)).overflow ++ [m] :=
  congrArg Board.overflow (s.boardAt_onBoard (boardOf m.dcore) _)

/-! ### A message in its slot (R121, R122) -/

theorem State.intoSlot_of_message {m : Msg} (h : m.kind ≠ 5) (s : State) (i : Nat) : s.intoSlot i m =
    (s.onCore m.dcore fun c => c.setSlot i (.queued (s.entryOf m i))).putBytes (bytesAt (slotPa m.dcore i) (wordBytes m.words.toList)) := by
  rw [State.intoSlot, if_neg h, bytesAt, wordBytes_length, Vector.length_toList]
  rfl
theorem State.intoSlot_of_wake {m : Msg} (h : m.kind = 5) (s : State) (i : Nat) :
    s.intoSlot i m = s.onCore m.dcore fun c => c.setSlot i (.queued (s.entryOf m i)) := by
  rw [State.intoSlot, if_pos h]

theorem State.intoSlot_frame (s : State) (i : Nat) (m : Msg) : s.intoSlot i m = { s with
    cores := (s.onCore m.dcore fun c => c.setSlot i (.queued (s.entryOf m i))).cores
    mem := (s.intoSlot i m).mem } := by
  by_cases h : m.kind = 5
  · rw [State.intoSlot_of_wake h]; rfl
  · rw [State.intoSlot_of_message h]; rfl

theorem State.coreAt_intoSlot (s : State) (i : Nat) (m : Msg) (d : Nat) :
    (s.intoSlot i m).coreAt d = (s.onCore m.dcore fun c => c.setSlot i (.queued (s.entryOf m i))).coreAt d := by
  rw [State.intoSlot_frame]; rfl
@[simp] theorem State.intoSlot_msgs (s : State) (i : Nat) (m : Msg) : (s.intoSlot i m).msgs = s.msgs := by
  rw [State.intoSlot_frame]
@[simp] theorem State.intoSlot_wakes (s : State) (i : Nat) (m : Msg) : (s.intoSlot i m).wakes = s.wakes := by
  rw [State.intoSlot_frame]
@[simp] theorem State.intoSlot_boardAt (s : State) (i : Nat) (m : Msg) (b : Nat) : (s.intoSlot i m).boardAt b = s.boardAt b := by
  rw [State.intoSlot_frame]; rfl
@[simp] theorem State.intoSlot_watch (s : State) (i : Nat) (m : Msg) (k : Nat) : (s.intoSlot i m).watch k = s.watch k := by
  rw [State.watch, State.coreAt_intoSlot]
  exact State.coreAt_onCore_watches s (fun c => c.setSlot i (.queued (s.entryOf m i))) (fun _ => rfl) k
theorem State.rcvd_intoSlot (s : State) (i : Nat) (m : Msg) : ((s.intoSlot i m).coreAt m.dcore).rcvd = (s.coreAt m.dcore).rcvd := by
  rw [State.coreAt_intoSlot, State.coreAt_onCore]; rfl

/-- A message that takes a slot stands in it, with its entry and its eight words. -/
theorem State.inSlot_intoSlot (s : State) (i : Nat) (m : Msg) : InSlot s (s.intoSlot i m) m i := by
  refine ⟨?_, fun hk j hj => ?_⟩
  · rw [State.coreAt_intoSlot, State.coreAt_onCore]
    exact Tbl.get_set_same _ _ _ _
  · have hl : j < m.words.toList.length := by simpa using hj
    rw [State.intoSlot_of_message hk, State.homeWord_putBytes_wordBytes _ _ _ hl]
    simp [Msg.word, Vector.at0, hj]

/-- It stands there as well in a state that has the same slots and bytes. -/
theorem inSlot_of_same {s u t : State} {m : Msg} {i : Nat} (h : InSlot s u m i) (hs : (t.coreAt m.dcore).slots = (u.coreAt m.dcore).slots)
    (hm : t.mem = u.mem) : InSlot s t m i := by
  obtain ⟨hslot, hwords⟩ := h
  refine ⟨?_, fun hk j hj => ?_⟩
  · rw [Core.slot, hs]; exact hslot
  · rw [State.homeWord_of_mem hm]; exact hwords hk j hj

/-! ### What an arrival comes to (R126, R130, R131) -/

/-- The message is refused: it is gone, its sender hears status 1, and its launch counts one less. -/
def Refused (s : State) (m : Msg) (t : State) : Prop :=
  t.msgs = s.msgs.erase m ∧ t.watch m.watch = answered s m 1 ∧ t.mem = s.mem ∧
    ∀ p, s.part? m.part = some p → ∃ q, t.part? m.part = some q ∧
      (q.launchAt m.launch).counter = (p.launchAt m.launch).counter - 1
/-- The message is last in the overflow area, and its sender hears status 0. -/
def Spilled (s : State) (m : Msg) (t : State) : Prop :=
  t.msgs = s.msgs.erase m ∧ t.watch m.watch = answered s m 0 ∧ t.mem = s.mem ∧
    (t.boardAt (boardOf m.dcore)).overflow = (s.boardAt (boardOf m.dcore)).overflow ++ [m]
/-- The message stands in slot `i`, its sender hears status 0, and its core has received it. -/
def Taken (s : State) (m : Msg) (i : Nat) (t : State) : Prop :=
  t.msgs = s.msgs.erase m ∧ t.watch m.watch = answered s m 0 ∧ InSlot s t m i ∧
    (t.coreAt m.dcore).rcvd = ((s.coreAt m.dcore).rcvd + 1) % 2 ^ 32

/-- The machine once a message has left the mesh. -/
def State.without (s : State) (m : Msg) : State := { s with msgs := s.msgs.erase m }

@[simp] theorem State.without_msgs (s : State) (m : Msg) : (s.without m).msgs = s.msgs.erase m := rfl
@[simp] theorem State.without_mem (s : State) (m : Msg) : (s.without m).mem = s.mem := rfl
@[simp] theorem State.without_watch (s : State) (m : Msg) (k : Nat) : (s.without m).watch k = s.watch k := rfl
@[simp] theorem State.without_coreAt (s : State) (m : Msg) (c : Nat) : (s.without m).coreAt c = s.coreAt c := rfl
@[simp] theorem State.without_boardAt (s : State) (m : Msg) (b : Nat) : (s.without m).boardAt b = s.boardAt b := rfl

section
variable {s : State} {m : Msg} (hn : s.noticed m.part m.dcore m.launch m.gen = false)
include hn

theorem State.arriveMsg_of_some {late : Bool} {u : State} (h : (s.without m).offer m late = some u) :
    s.arriveMsg m late = (u.received m.dcore).sent m 0 := by
  unfold State.without at h
  simp [State.arriveMsg, hn, h]
theorem State.arriveMsg_of_none {late : Bool} (h : (s.without m).offer m late = none) (hl : late = true ∨ s.Behind m) :
    s.arriveMsg m late = ((s.without m).countDown m.part m.launch).sent m 1 := by
  unfold State.without at h ⊢
  simp only [State.arriveMsg, hn, h, Bool.or_eq_true, s.behind_iff, hl, if_true]
  rfl
/-- A message that finds no free slot, and none of its core before it, waits in its router (R130). -/
theorem State.arriveMsg_waits (hb : ¬s.Behind m) (hf : (s.coreAt m.dcore).freeSlot = none) : s.arriveMsg m false = s := by
  have h := State.offer_of_early (s := s.without m) hb hf
  unfold State.without at h
  simp [State.arriveMsg, hn, h, s.behind_iff, hb]

variable (hk : m.kind < 4) (hw : (s.watch m.watch).img.holds m.ticket = true)
include hk hw

theorem State.arriveMsg_taken {i : Nat} (hb : ¬s.Behind m) (hf : (s.coreAt m.dcore).freeSlot = some i) (late : Bool) :
    Taken s m i (s.arriveMsg m late) := by
  rw [State.arriveMsg_of_some hn (State.offer_of_slot (s := s.without m) hb hf late)]
  have hslot := (s.without m).inSlot_intoSlot i m
  refine ⟨?_, State.watch_sent_of_same hk hw ?_ 0, inSlot_of_same hslot ?_ ?_, ?_⟩
  · rw [State.sent_msgs, State.received_msgs, State.intoSlot_msgs, State.without_msgs]
  · rw [State.received_watch, State.intoSlot_watch, State.without_watch]
  · rw [State.slots_sent, State.received_slots]
  · rw [State.sent_mem, State.received_mem]
  · rw [State.rcvd_sent, State.received_rcvd, State.rcvd_intoSlot, State.without_coreAt]

theorem State.arriveMsg_spilled {late : Bool} (h : s.Behind m ∨ (s.coreAt m.dcore).freeSlot = none ∧ late = true)
    (hr : s.overflowRoom m = true) : Spilled s m (s.arriveMsg m late) := by
  rw [State.arriveMsg_of_some hn (State.offer_of_room (s := s.without m) h hr)]
  refine ⟨?_, State.watch_sent_of_same hk hw ?_ 0, ?_, ?_⟩
  · rw [State.sent_msgs, State.received_msgs, State.intoOverflow_msgs, State.without_msgs]
  · rw [State.received_watch, State.intoOverflow_watch, State.without_watch]
  · rw [State.sent_mem, State.received_mem, State.intoOverflow_mem, State.without_mem]
  · rw [State.sent_boardAt, State.received_boardAt, State.intoOverflow_overflow, State.without_boardAt]

theorem State.arriveMsg_refused {late : Bool} (h : s.Behind m ∨ (s.coreAt m.dcore).freeSlot = none ∧ late = true)
    (hr : s.overflowRoom m = false) : Refused s m (s.arriveMsg m late) := by
  have ho := State.offer_of_full (s := s.without m) (h.imp_right And.left) hr late
  rw [State.arriveMsg_of_none hn ho (h.symm.imp_left And.right)]
  refine ⟨?_, State.watch_sent_of_same hk hw ?_ 1, ?_, fun p hp => ?_⟩
  · rw [State.sent_msgs, State.countDown_msgs, State.without_msgs]
  · rw [State.countDown_watch, State.without_watch]
  · rw [State.sent_mem, State.countDown_mem, State.without_mem]
  · rw [State.sent_part?]
    exact State.counter_countDown (s := s.without m) hp m.launch
end

/-! ### The mesh (R10 to R12, R388) -/

/-- A message without its place on the mesh. -/
def Msg.placeless (m : Msg) : Msg := { m with router := 0, since := 0 }
/-- Of two states the second is the first with its messages and deposits at other places of the mesh. -/
def OnlyPlaces (s t : State) : Prop := ∃ l d, t = { s with msgs := l, deposits := d } ∧
  l.map Msg.placeless = s.msgs.map Msg.placeless ∧ d.map Msg.placeless = s.deposits.map Msg.placeless

theorem OnlyPlaces.refl (s : State) : OnlyPlaces s s := ⟨s.msgs, s.deposits, rfl, rfl, rfl⟩
theorem OnlyPlaces.trans {s t u : State} (h : OnlyPlaces s t) (h' : OnlyPlaces t u) : OnlyPlaces s u := by
  obtain ⟨l, d, rfl, hl, hd⟩ := h
  obtain ⟨l', d', rfl, hl', hd'⟩ := h'
  exact ⟨l', d', rfl, hl'.trans hl, hd'.trans hd⟩
theorem OnlyPlaces.msgs_length {s t : State} (h : OnlyPlaces s t) : t.msgs.length = s.msgs.length := by
  obtain ⟨l, d, rfl, hl, -⟩ := h
  simpa using congrArg List.length hl
theorem OnlyPlaces.opnd {s t : State} (h : OnlyPlaces s t) : t.opnd = s.opnd := by
  obtain ⟨l, d, rfl, -, -⟩ := h
  rfl

/-- A hop changes the place of the message alone. -/
theorem State.hop_places (s : State) (m : Msg) : OnlyPlaces s (s.hop m) := by
  unfold State.hop
  split
  · exact OnlyPlaces.refl s
  · refine ⟨_, _, rfl, ?_, ?_⟩ <;>
    · rw [List.map_map]
      refine List.map_congr_left fun x _ => ?_
      simp only [Function.comp_apply]
      split <;> rfl
theorem State.each_places {α : Type} (f : State → α → State) (h : ∀ s a, OnlyPlaces s (f s a)) (l : List α) :
    ∀ s : State, OnlyPlaces s (s.each l f) := by
  induction l with
  | nil => exact OnlyPlaces.refl
  | cons a l ih => exact fun s => (h s a).trans (ih (f s a))
theorem State.mesh_places (s : State) : OnlyPlaces s s.mesh := State.each_places State.hop State.hop_places _ s

/-! ### The four events -/

/-- `messageAccept` of no message lets the mesh go on. -/
theorem exec_messageAccept_of_none {s : State} (h : s.msgs.length ≤ s.opnd.a) : exec .messageAccept s = .next s.mesh := by
  have hp := s.mesh_places
  have hnone : s.mesh.msgs[s.mesh.opnd.a]? = none := by
    rw [List.getElem?_eq_none_iff, hp.msgs_length, hp.opnd]; exact h
  show execMessageAccept s = _
  simp only [execMessageAccept, hnone]

section
variable {z : State} {m : Msg} (ha : Arrives z.mesh z.mesh.msgs m)
include ha

theorem there_of_arrives : z.mesh.there m = true := by
  obtain ⟨-, ⟨hr, hs⟩, hf, hl, -⟩ := ha
  simp only [State.there, State.firstOfPair, hr, hs, hl, Bool.and_eq_true, decide_eq_true_eq, Bool.not_eq_true',
    List.any_eq_false, and_true, true_and]
  exact fun x hx h => absurd (hf x hx h.1.1 h.1.2) (Nat.not_le.mpr h.2)
theorem exec_messageAccept_of_arrives : exec .messageAccept z = .next (z.mesh.arriveMsg m false) := by
  show execMessageAccept z = _
  simp only [execMessageAccept, ha.place, there_of_arrives ha, if_true]
theorem exec_overflowTimeout_of_late (h : m.since + 1024 ≤ z.mesh.cycles) :
    exec .overflowTimeout z = .next (z.mesh.arriveMsg m true) := by
  show execOverflowTimeout z = _
  simp [execOverflowTimeout, ha.place, there_of_arrives ha, h]
theorem exec_overflowTimeout_of_early (h : ¬m.since + 1024 ≤ z.mesh.cycles) : exec .overflowTimeout z = .next z.mesh := by
  show execOverflowTimeout z = _
  simp [execOverflowTimeout, ha.place, h]
end

section
variable {s : State} {m : Msg} {i : Nat} (hm : (s.boardAt (boardOf s.opnd.a)).overflow.find? (·.dcore = s.opnd.a) = some m)
  (hf : (s.coreAt s.opnd.a).freeSlot = some i)
include hm hf

theorem exec_overflowDrain_of_stopped (h : s.live m.part = false) : exec .overflowDrain s = .next s := by
  show execOverflowDrain s = _
  simp [execOverflowDrain, hm, hf, h]
theorem exec_overflowDrain_of_live (h : s.live m.part = true) : exec .overflowDrain s =
    .next ((s.onBoard (boardOf s.opnd.a) fun b => { b with overflow := b.overflow.erase m }).intoSlot i m) := by
  show execOverflowDrain s = _
  simp [execOverflowDrain, hm, hf, h]
end

section
variable {s : State} {m : Msg} (hm : s.wakes[s.opnd.a]? = some m)
include hm

theorem exec_wakeRetry_of_early (h : s.cycles < m.since + 1024) : exec .wakeRetry s = .next s := by
  show execWakeRetry s = _
  simp [execWakeRetry, hm, Nat.not_le.mpr h]
theorem exec_wakeRetry_of_some (hl : s.live m.part = true) (h : m.since + 1024 ≤ s.cycles) {u : State}
    (ho : ({ s with wakes := s.wakes.erase m } : State).offer m true = some u) : exec .wakeRetry s = .next u := by
  show execWakeRetry s = _
  simp [execWakeRetry, hm, hl, h, ho]
theorem exec_wakeRetry_of_none (hl : s.live m.part = true) (h : m.since + 1024 ≤ s.cycles)
    (ho : ({ s with wakes := s.wakes.erase m } : State).offer m true = none) : exec .wakeRetry s =
      .next { s with wakes := s.wakes.map fun x => if x = m then { m with since := s.cycles } else x } := by
  show execWakeRetry s = _
  simp [execWakeRetry, hm, hl, h, ho]
end

end Sys2Proof.Machine

namespace Sys2Proof
open Machine Claims

/-- Settles O41: the mesh moves places alone, and an arrival comes to `Taken`, `Spilled`, `Refused` or a wait, as the overflow area, the
slots and the time in the router say. -/
theorem arrivals : Obligations.Arrivals := by
  unfold Obligations.Arrivals
  refine ⟨fun s => ?mesh, fun z m => ?arrive, fun s m i hm hf => ?drain, fun s m hm hl => ?wake⟩
  case mesh =>
    obtain ⟨l, d, hmesh, hl, hd⟩ := s.mesh_places
    exact ⟨l, d, hmesh, hl, hd, exec_messageAccept_of_none⟩
  case arrive =>
    intro s ha hk hw c b behind refused spilled late
    have hn := ha.wanted
    have haccept := exec_messageAccept_of_arrives ha
    have htimeout := exec_overflowTimeout_of_late ha
    refine ⟨fun i hb hf => ⟨_, haccept, State.arriveMsg_taken hn hk hw hb hf false⟩,
      fun hb hf => ⟨?_, fun hlate hr => ⟨_, htimeout hlate, State.arriveMsg_spilled hn hk hw (.inr ⟨hf, rfl⟩) hr⟩,
        fun hlate hr => ⟨_, htimeout hlate, State.arriveMsg_refused hn hk hw (.inr ⟨hf, rfl⟩) hr⟩⟩,
      fun hb hr => ⟨_, haccept, State.arriveMsg_spilled hn hk hw (.inl hb) hr⟩,
      fun hb hr => ⟨_, haccept, State.arriveMsg_refused hn hk hw (.inl hb) hr⟩,
      exec_overflowTimeout_of_early ha⟩
    rw [haccept, State.arriveMsg_waits hn hb hf]
  case drain =>
    refine ⟨exec_overflowDrain_of_stopped hm hf, fun hl => ⟨_, exec_overflowDrain_of_live hm hf hl, ?_, ?_, fun j => ?_⟩⟩
    · rw [State.intoSlot_boardAt, State.boardAt_onBoard]
    · exact State.inSlot_intoSlot (s.onBoard _ _) i m
    · rw [State.intoSlot_watch]; rfl
  case wake =>
    intro b
    refine ⟨exec_wakeRetry_of_early hm, fun h => ⟨fun i hb hf => ?_, fun hf hr => ?_⟩⟩
    · have hbehind : ¬s.Behind m := fun ⟨x, hx, hc⟩ => hb x hx hc
      have ho := State.offer_of_slot (s := { s with wakes := s.wakes.erase m }) hbehind hf true
      refine ⟨_, exec_wakeRetry_of_some hm hl h ho, ?_, ?_⟩
      · rw [State.intoSlot_wakes]
      · exact State.inSlot_intoSlot { s with wakes := s.wakes.erase m } i m
    · have ho := State.offer_of_full (s := { s with wakes := s.wakes.erase m }) (.inr hf) hr true
      exact ⟨_, exec_wakeRetry_of_none hm hl h ho, rfl, rfl⟩

end Sys2Proof
end
